-- ==== Sys2Proof/Word.lean ====
section
/-! DEFINITION. The words of the part's formats: bytes, 16-bit values and the spans of labels. -/

namespace Sys2Proof

/-- One byte of a request, a response, a frame body or a time-code record. -/
abbrev Byte := BitVec 8

/-- A 16-bit value: a digest, a sequence number, the table version. -/
abbrev Word := BitVec 16

/-- A set of station numbers 0 to 15, bit k for station k (R38, R62). -/
abbrev StationSet := BitVec 16

/-- The number of base labels: labels run from 0 to 2^40 - 1 (R1). -/
abbrev labelSpan : Nat := 1099511627776

end Sys2Proof
end

