-- ==== Sys2Proof/Syntax.lean ====
section
/-! DEFINITION. The commands of the part: one constructor of `Instr` for each row of spec/opcode_table.json. -/

namespace Sys2Proof

/-- A transition identifier: proposer and 16-bit sequence number (chapter 2.2). The proposer is a byte
on the line (R62), so a frame may name a number that is no station. -/
structure Ident where
  proposer : Nat
  seq : Word
  deriving DecidableEq, Repr, Inhabited

/-- The two quench groups (R165): QA serves outputs 0 to 3, QB outputs 4 to 7. -/
inductive Group where
  | qa
  | qb
  deriving DecidableEq, Repr, Inhabited

/-- The pieces of work that the units do at one boundary, once the Base Clock has made it. The manual
gives no order among them (R36, R101, R154). -/
inductive Stage where
  /-- The Apply Unit's pass (R142). -/
  | apply
  /-- Expiry of endorsement windows (R97). -/
  | expiry
  /-- The Station Controller's work (R108, R116). -/
  | station
  /-- The quorum test of own CUSTODY and WITHDRAW entries (R90). -/
  | retest
  /-- Offers of owed RATIFY frames (R96). -/
  | ratifyOffers
  /-- Offers of owed PROPOSE frames (R84). -/
  | proposeOffers
  /-- The offer of an owed recital frame (R130). -/
  | recitalSend
  /-- The wait count and the owed RECITE_REQ (R134, R126). -/
  | recitalReceive
  deriving DecidableEq, Repr, Inhabited

/-- Every stage, once. -/
def Stage.all : List Stage :=
  [.apply, .expiry, .station, .retest, .ratifyOffers, .proposeOffers, .recitalSend, .recitalReceive]

/-- The order in which the units act at one boundary: the stages in order, and whether an entry's move
to APPLYING at this boundary is seen by the adoption test (R154, fourth row). -/
structure BoundaryOrder where
  stages : List Stage
  passBeforeTest : Bool
  deriving DecidableEq, Repr, Inhabited

/-- A frame as it was read from the line (R61, R65): the header fields, the body bytes, the check field
and whether the three bits of the end mark were all read recessive. -/
structure RawFrame where
  cls : BitVec 3
  sender : BitVec 4
  kind : BitVec 4
  length : BitVec 5
  body : List Byte
  check : Word
  endMark : Bool
  deriving DecidableEq, Repr, Inhabited

/-- When the verdict on a screened proposal reaches the Agreement Engine (R58, R88; log entry 27), and, on a shelf
of one station, when the ratification follows the store of a local proposal (R85; log entry 49). -/
inductive VerdictTime where
  /-- The verdict in the same step, and the ratification with it. -/
  | atOnce
  /-- The verdict in the same step; on a shelf of one station the ratification is a later claim (R85). -/
  | stored
  /-- The verdict once the commands then waiting have been taken, and the ratification after it (R88, R85). -/
  | later
  deriving DecidableEq, Repr, Inhabited

/-- The last operand of a command that is screened, and when the verdict on its proposal is taken (R88; log
entry 27). -/
structure Screened (α : Type) where
  arg : α
  verdict : VerdictTime
  deriving DecidableEq, Repr, Inhabited

/-- The arguments of SET_PLAN at the byte widths of R189. -/
structure PlanArgs where
  n : Byte
  b : Byte
  e : Byte
  h : BitVec 24
  d : Byte
  u : Byte
  s1 : Byte
  s2 : Byte
  s3 : Byte
  s4 : Byte
  s5 : Byte
  s6 : Byte
  lmin : BitVec 32
  la : BitVec 32
  step : BitVec 24
  adopt : Byte
  deriving DecidableEq, Repr, Inhabited

/-- One constructor for each row of spec/opcode_table.json. Requests carry their arguments at the byte
widths of R189, frames their sender and body as read (R68), events what tells one from another; a command
that is screened carries when its verdict is taken (R88). -/
inductive Instr where
  /-- NOP (R184). -/
  | nop
  /-- BAD_CHECK (R184): the whole bytes read in the transaction. -/
  | badCheck (bytes : List Byte)
  /-- SET_PLAN (R185). -/
  | setPlan (a : PlanArgs)
  /-- DEFINE_SCALE (R11). -/
  | defineScale (scale kind parent : Byte) (value : BitVec 24) (custodian : Byte)
  /-- BIND_OUTPUT (R156). -/
  | bindOutput (n scale presentation : Byte) (w width : BitVec 24) (policy : Byte)
  /-- SET_QUENCH (R165). -/
  | setQuench (group trigger polarity : Byte)
  /-- SET_BASE_LABEL (R9). -/
  | setBaseLabel (v : BitVec 40)
  /-- SET_NOTICE_LEVELS (R186). -/
  | setNoticeLevels (selector level : Byte)
  /-- START (R187). -/
  | start
  /-- PROPOSE_LEAP (R83). -/
  | proposeLeap (scale kind : Byte) (turn : Screened (BitVec 40))
  /-- PROPOSE_OFFSET (R83). -/
  | proposeOffset (scale : Byte) (turn : BitVec 40) (offset : Screened (BitVec 24))
  /-- PROPOSE_CUSTODY (R83). -/
  | proposeCustody (scale : Byte) (custodian : Screened Byte)
  /-- PROPOSE_WITHDRAW (R83). -/
  | proposeWithdraw (proposer : Byte) (seq : Screened Word)
  /-- READ_STATUS (R188). -/
  | readStatus
  /-- READ_ENTRY (R38). -/
  | readEntry (i : Byte)
  /-- READ_SCALE (R15). -/
  | readScale (scale : Byte)
  /-- READ_ROSTER (R110). -/
  | readRoster (p : Byte)
  /-- READ_OUTPUT (R155). -/
  | readOutput (n : Byte)
  /-- SET_WIDTH (R160). -/
  | setWidth (n : Byte) (w : BitVec 24)
  /-- RELEASE_OUTPUT (R168). -/
  | releaseOutput (n : Byte)
  /-- REJOIN (R190). -/
  | rejoin
  /-- TAKE_NOTICE (R192). -/
  | takeNotice
  /-- PEEK_NOTICE (R192). -/
  | peekNotice
  /-- RESET: RESET asserted and released, with the levels of the straps at the release (R105, R59). -/
  | reset (stn : BitVec 4) (lrate : BitVec 2)
  /-- LRESET: the assertion of LRESET (R122). -/
  | lreset
  /-- ATT_CHANGE: the level that ATT now has (R121). -/
  | attChange (high : Bool)
  /-- QUENCH_ASSERTION: the input of the group goes to its active level (R165). -/
  | quenchAssertion (g : Group)
  /-- SECIN_EDGE (R2), with the order of the units' work if it makes a boundary. -/
  | secinEdge (ord : BoundaryOrder)
  /-- SUBSTITUTED_BOUNDARY (R4), with the order of the units' work. -/
  | substitutedBoundary (ord : BoundaryOrder)
  /-- WINDOW_EXPIRY of the entry held under an identifier (R97). -/
  | windowExpiry (id : Ident)
  /-- PEER_SILENCE of the slot of a station (R112). -/
  | peerSilence (p : Fin 16)
  /-- END_OF_LISTENING (R119). -/
  | endOfListening
  /-- ADOPTION_REQUEST (R116). -/
  | adoptionRequest
  /-- RECITAL_TIMEOUT (R134). -/
  | recitalTimeout
  /-- LINE_SYNCHRONISED (R66). -/
  | lineSynchronised
  /-- FRAME_BEGIN (R69). -/
  | frameBegin
  /-- FRAME_DEFER: another station's start mark (R71). -/
  | frameDefer
  /-- FRAME_SENT (R73). -/
  | frameSent
  /-- CLASH: the bit time under way is read back other than it was sent (R72). -/
  | clash
  /-- FRAME_ABANDONED (R75). -/
  | frameAbandoned
  /-- RX_FRAME_INVALID: a frame as read, to be tested (R67). -/
  | rxFrameInvalid (f : RawFrame)
  /-- BEACON received (R109). -/
  | beacon (sender : BitVec 4) (body : List Byte)
  /-- PROPOSE received (R86). -/
  | propose (sender : BitVec 4) (body : Screened (List Byte))
  /-- ENDORSE received (R89). -/
  | endorse (sender : BitVec 4) (body : List Byte)
  /-- OBJECT received (R92). -/
  | object (sender : BitVec 4) (body : List Byte)
  /-- RATIFY received (R94). -/
  | ratify (sender : BitVec 4) (body : List Byte)
  /-- RECITE_REQ received (R127). -/
  | reciteReq (sender : BitVec 4) (body : List Byte)
  /-- RECITAL received (R132). -/
  | recital (sender : BitVec 4) (body : List Byte)
  /-- SCALE_STATE received (R138). -/
  | scaleState (sender : BitVec 4) (body : List Byte)
  /-- RECITAL_ABANDON (R131). -/
  | recitalAbandon
  /-- OUTPUT_SECOND_START of an output whose tick period has run out (R157). -/
  | outputSecondStart (n : Fin 8)
  /-- PULSE_END (R159). -/
  | pulseEnd (n : Fin 8)
  /-- RECORD_SENT (R164). -/
  | recordSent (n : Fin 8)
  /-- QUENCH_INPUT_INACTIVE: the input of the group goes to its inactive level (R165). -/
  | quenchInputInactive (g : Group)
  deriving DecidableEq, Repr

end Sys2Proof
end

