-- ==== Sys2Proof/Machine/Types.lean ====
section
/-! DEFINITION. The plain data that the state of the part is made of, unit by unit, and the data of notices and responses. -/

namespace Sys2Proof.Machine

/-! ### The Base Clock (R1) -/

/-- Lock state (R5). -/
inductive Lock where
  | locked
  | free
  deriving DecidableEq, Repr, Inhabited

/-- Origin of a pending label (R1). -/
inductive Origin where
  | setting
  | adoption
  deriving DecidableEq, Repr, Inhabited

/-- A pending label: its value and its origin (R9, R10). -/
structure PendingLabel where
  value : Nat
  origin : Origin
  deriving DecidableEq, Repr, Inhabited

/-- The state of the Base Clock (R1): label, tick count, lock state, accepted run, phasing condition
(true for PHASED), capture record and pending label. -/
structure Clock where
  label : Nat
  tick : Nat
  lock : Lock
  run : Nat
  phased : Bool
  capRun : Nat
  capElapsed : Nat
  pendingLabel : Option PendingLabel
  deriving DecidableEq, Repr, Inhabited

/-! ### The plan (R185, R42) and the scales (R11, R13) -/

/-- Action of a configurable rule (R42). -/
inductive RuleAction where
  | off
  | reject
  | flag
  deriving DecidableEq, Repr, Inhabited

/-- The configurable rules S1 to S6 (chapter 3.4). -/
inductive CfgRule where
  | monthEnd
  | halfYear
  | leadMin
  | leadAdvise
  | offsetStep
  | minuteAlign
  deriving DecidableEq, Repr, Inhabited

/-- The plan as SET_PLAN loads it (R185); `adopt` is the adoption enable. -/
structure Plan where
  n : Nat
  b : Nat
  e : Nat
  h : Nat
  d : Nat
  u : Nat
  s1 : RuleAction
  s2 : RuleAction
  s3 : RuleAction
  s4 : RuleAction
  s5 : RuleAction
  s6 : RuleAction
  lmin : Nat
  la : Nat
  step : Nat
  adopt : Bool
  deriving DecidableEq, Repr, Inhabited

/-- Kind of one of S1 to S5 (R11). -/
inductive ScaleKind where
  | undefined
  | civil
  | localScale
  deriving DecidableEq, Repr, Inhabited

/-- The plan record and the state of one of S1 to S5 (R11, R13). `value` is the lag of a CIVIL scale and
the offset of a LOCAL one; `custodian` is `none` for NONE. -/
structure Scale where
  kind : ScaleKind
  parent : Option Nat
  value : Int
  custodian : Option Nat
  inserted : Bool
  insertRefused : Bool
  deriving DecidableEq, Repr, Inhabited

/-- The calendar form of a count (R16, R17). -/
structure CalForm where
  year : Nat
  day : Nat
  hour : Nat
  minute : Nat
  second : Nat
  deriving DecidableEq, Repr, Inhabited

/-- The changes that the Apply Unit hands to the Scale Registry (R18). -/
inductive ScaleChange where
  | insertBegin
  | insertEnd
  | lagDown
  | offsetTo
  deriving DecidableEq, Repr, Inhabited

/-! ### The Transition Table (R22) -/

/-- What a transition does (R24). -/
inductive Kind where
  | leapAdd
  | leapDrop
  | offsetSet
  | custody
  | withdraw
  deriving DecidableEq, Repr, Inhabited

/-- Place of an entry in the lifecycle (R30). -/
inductive EntryState where
  | proposed
  | ratified
  | applying
  deriving DecidableEq, Repr, Inhabited

/-- Announcement mark of an own entry (R81). -/
inductive Mark where
  | none
  | proposeQueued
  | proposeDue
  | ratifyQueued
  | ratifyDue
  deriving DecidableEq, Repr, Inhabited

/-- The fields of a transition that a proposal carries (R22, R43). A field is `none` where it is absent. -/
structure Record where
  id : Ident
  kind : Kind
  scale : Option Nat
  turn : Option Nat
  value : Option Int
  target : Option Ident
  deriving DecidableEq, Repr, Inhabited

/-- One entry of the table (R22), with its storage stamp (R37) and announcement mark (R81). -/
structure Entry extends Record where
  state : EntryState
  endorsers : StationSet
  flags : List CfgRule
  window : Option Nat
  stamp : BitVec 32
  mark : Mark
  deriving DecidableEq, Repr, Inhabited

/-- The Transition Table: entries in table order (R37), the next storage stamp, the table version (R38)
and the next sequence (R26). -/
structure Table where
  entries : List Entry
  nextStamp : BitVec 32
  version : Word
  nextSeq : Word
  deriving DecidableEq, Repr, Inhabited

/-- Origin of a store (R28). -/
inductive StoreOrigin where
  | ownPort
  | line
  | merge
  deriving DecidableEq, Repr, Inhabited

/-- The reasons of a rejection, in the order of their codes (R57). -/
inductive Reason where
  | kindMismatch
  | notCustodian
  | tooLate
  | tooFar
  | spacing
  | unknownTarget
  | duplicateId
  | tableFull
  | monthEnd
  | halfYear
  | leadMin
  | leadAdvise
  | offsetStep
  | minuteAlign
  deriving DecidableEq, Repr, Inhabited

/-- The verdict of a screening (R43). -/
inductive Verdict where
  | reject (r : Reason)
  | accept (flags : List CfgRule)
  deriving DecidableEq, Repr, Inhabited

/-- A claim that the Agreement Engine has still to make: on a verdict that has not reached it yet (R58, R88), on a
proposal from the line or on a local proposal with the code of the request that it answers; or the ratification of a
local proposal that a shelf of one station has stored (R85; log entry 49). -/
inductive PendingVerdict where
  | line (record : Record) (verdict : Verdict)
  | port (code : Byte) (record : Record) (verdict : Verdict)
  | ratify (id : Ident)
  deriving DecidableEq, Repr

/-! ### The Line Interface (R60) -/

/-- The eight frame kinds (R62). -/
inductive FrameKind where
  | beacon
  | propose
  | endorse
  | object
  | ratify
  | reciteReq
  | recital
  | scaleState
  deriving DecidableEq, Repr, Inhabited

/-- The units that queue frames (R76). -/
inductive QueueUnit where
  | station
  | agreement
  | recital
  deriving DecidableEq, Repr, Inhabited

/-- Line state (R60). -/
inductive LineState where
  | detached
  | hunting
  | idle
  | taking
  | sending
  deriving DecidableEq, Repr, Inhabited

/-- Removal mark of a frame in transmission: none, set by R77 or R78 (its unit is told how it ended), or
set by a line reset (R80: neither end is reported). -/
inductive Removal where
  | none
  | marked
  | silent
  deriving DecidableEq, Repr, Inhabited

/-- Kind of a read-back mismatch (R72). -/
inductive Mismatch where
  | dominantWhereReleased
  | recessiveWhereDriven
  deriving DecidableEq, Repr, Inhabited

/-- One frame of the transmit queue (R76). `unit` is the unit that queued it; `serial` tells an attempt or
recital from an earlier one, so that a report for a frame of an earlier one is disregarded (R126);
`lastMismatch` is the kind and bit position that LINE_FAULT reports (R75). -/
structure Frame where
  unit : QueueUnit
  kind : FrameKind
  cls : Nat
  body : List Byte
  ident : Option Ident
  clash : Nat
  inTx : Bool
  removal : Removal
  serial : Nat
  lastMismatch : Option (Mismatch × Nat)
  deriving DecidableEq, Repr, Inhabited

/-- The Line Interface: line state, idle count, quiet count, the bits read so far of a frame being taken
from its start mark on (true for recessive), the bit position of a frame being sent, the ticks into the present bit time, and
the transmit queue with its head first (R60, R76). -/
structure Line where
  state : LineState
  idle : Nat
  quiet : Nat
  bits : List Bool
  bitPos : Nat
  phase : Nat
  queue : List Frame
  deriving DecidableEq, Repr, Inhabited

/-! ### The Station Controller (R105) and the Peer Roster (R110) -/

/-- Station state (R105). -/
inductive StationState where
  | unconfigured
  | joining
  | receiving
  | active
  | listening
  | adrift
  | isolated
  deriving DecidableEq, Repr, Inhabited

/-- Result of an evaluation (R113). -/
inductive EvalResult where
  | won
  | lost
  deriving DecidableEq, Repr, Inhabited

/-- Adoption arrangement (R116). -/
inductive Adoption where
  | absent
  | waiting (offset : Int)
  | counting (value remaining : Nat)
  | requested (value : Nat)
  deriving DecidableEq, Repr, Inhabited

/-- The items of the Station Controller but the roster (R105). `history` is oldest first. -/
structure Station where
  state : StationState
  listen : Nat
  history : List EvalResult
  adoption : Adoption
  rejoin : Bool
  deriving DecidableEq, Repr, Inhabited

/-- Beacon record of a slot (R109); `agrees` is the digest indication. -/
structure BeaconRecord where
  label : Nat
  offset : Int
  digest : Word
  agrees : Bool
  planDigest : Word
  state : StationState
  busy : Bool
  deriving DecidableEq, Repr, Inhabited

/-- Slot state (R110). -/
inductive SlotState where
  | absent
  | present
  | silent
  | divergent
  | mismatched
  deriving DecidableEq, Repr, Inhabited

/-- One slot of the Peer Roster (R110). -/
structure Slot where
  state : SlotState
  silence : Nat
  record : Option BeaconRecord
  age : Nat
  deriving DecidableEq, Repr, Inhabited

/-! ### The Recital Unit (R125) -/

/-- Offer state of a sending context (R125). -/
inductive OfferState where
  | queued
  | due
  deriving DecidableEq, Repr, Inhabited

/-- Sending context (R125). Its total is the length of the snapshot plus one. -/
structure SendCtx where
  snapshot : List Ident
  next : Nat
  offer : OfferState
  failed : Nat
  audience : StationSet
  deferred : StationSet
  serial : Nat
  deriving DecidableEq, Repr, Inhabited

/-- Origin of a receiving context (R125). -/
inductive RecvOrigin where
  | joining
  | discord
  | missedEntry
  deriving DecidableEq, Repr, Inhabited

/-- Request state of a receiving context (R125). -/
inductive ReqState where
  | queued
  | due
  | sent
  deriving DecidableEq, Repr, Inhabited

/-- Cause of a failed attempt (R133). -/
inductive AttemptCause where
  | gap
  | timeout
  | mergeFull
  | overtaken
  deriving DecidableEq, Repr, Inhabited

/-- Merge tallies (R125). -/
structure Tallies where
  inserted : Nat
  advanced : Nat
  unchanged : Nat
  skipped : Nat
  conflicts : Nat
  deriving DecidableEq, Repr, Inhabited

/-- Receiving context (R125). `serial` is that of the present attempt. -/
structure RecvCtx where
  origin : RecvOrigin
  target : Nat
  req : ReqState
  source : Option Nat
  expected : Nat
  total : Option Nat
  wait : Nat
  tried : StationSet
  attempts : List (Nat × AttemptCause)
  tallies : Tallies
  serial : Nat
  deriving DecidableEq, Repr, Inhabited

/-! ### The Apply Unit's report (R141) -/

/-- Change record of a scale: the change, its entry and whether the registry took it (R152). -/
structure ChangeRecord where
  change : ScaleChange
  id : Ident
  taken : Bool
  deriving DecidableEq, Repr, Inhabited

/-- The parts of the application report that are formed at the pass, by scale S1 to S5: the family's
entry in APPLYING, named by its CIVIL scale, and the scale's change record (R141). -/
structure Report where
  applying : Vector (Option Record) 5
  change : Vector (Option ChangeRecord) 5
  deriving DecidableEq, Repr

/-- Leap warning of a family (R150): ADD or DROP with the leap's identifier and turn. -/
structure LeapWarning where
  add : Bool
  id : Ident
  turn : Nat
  deriving DecidableEq, Repr, Inhabited

/-- Offset pending of a LOCAL scale (R151). -/
structure OffsetPending where
  id : Ident
  turn : Nat
  value : Int
  deriving DecidableEq, Repr, Inhabited

/-! ### The Output Units (R155, R171) -/

/-- Presentation of an output; a SMEAR output has a window W (R155). -/
inductive Presentation where
  | step
  | hold
  | smear (w : Nat)
  deriving DecidableEq, Repr, Inhabited

/-- Binding of an output (R155); `quench` is the adrift policy QUENCH. -/
structure Binding where
  scale : Nat
  presentation : Presentation
  quench : Bool
  deriving DecidableEq, Repr, Inhabited

/-- Period of an output second (R155). -/
inductive Period where
  | boundary
  | ticks (p : Nat)
  deriving DecidableEq, Repr, Inhabited

/-- The causes of a quench latch; the latch is set when one of them is (R155). -/
structure Latch where
  group : Bool
  adrift : Bool
  isolated : Bool
  deriving DecidableEq, Repr, Inhabited

/-- A record under way on TCn: its 16 bytes and the time since its first start bit began, in twelfths of a
tick, so that a bit time of 6,250 / 12 ticks is a whole number of them (R164). -/
structure UnderWay where
  bytes : List Byte
  twelfths : Nat
  deriving DecidableEq, Repr, Inhabited

/-- The leap of a smear context with its smear period (R171). -/
structure SmearLeap where
  add : Bool
  id : Ident
  turn : Nat
  period : Nat
  deriving DecidableEq, Repr, Inhabited

/-- Smear context (R171): absent, ARMED, or OPEN with the index k and the first count c. -/
inductive SmearCtx where
  | absent
  | armed (leap : SmearLeap)
  | opened (leap : SmearLeap) (k : Nat) (c : Int)
  deriving DecidableEq, Repr, Inhabited

/-- Result of the most recent window (R171). -/
inductive WindowResult where
  | none
  | completed (id : Ident)
  | cut (id : Ident)
  deriving DecidableEq, Repr, Inhabited

/-- The state of one Output Unit (R155, R171) and the level of its SPn. -/
structure Output where
  binding : Option Binding
  running : Bool
  curWidth : Nat
  nextWidth : Nat
  curPeriod : Period
  nextPeriod : Period
  forceFull : Bool
  tick : Nat
  latch : Latch
  releasePending : Bool
  realign : Bool
  underWay : Option UnderWay
  owed : Option (List Byte)
  last : Option (List Byte)
  sp : Bool
  smear : SmearCtx
  result : WindowResult
  deriving DecidableEq, Repr, Inhabited

/-- Trigger and polarity of a quench group (R165); `edge` for EDGE, `activeLow` for ACTIVE_LOW. -/
structure QuenchCfg where
  edge : Bool
  activeLow : Bool
  deriving DecidableEq, Repr, Inhabited

/-! ### The Notice Unit (R191, R193) -/

/-- The notice kinds in the order of their numbers (R193). -/
inductive NoticeKind where
  | stored
  | ratified
  | refused
  | lapsed
  | withdrawn
  | withdrawTooLate
  | applied
  | flagged
  | lateObjection
  | missedEntry
  | recitalDone
  | recitalFailed
  | mergeConflict
  | peerChange
  | adrift
  | adoptionBlocked
  | isolated
  | txqFull
  | lineFault
  | rxError
  | quench
  | secinLost
  | secinSpurious
  deriving DecidableEq, Repr, Inhabited

/-- Mark of a RATIFIED notice (R193). -/
inductive RatifyMark where
  | none
  | executed
  | merged
  deriving DecidableEq, Repr, Inhabited

/-- Cause of a PEER_CHANGE (R110). -/
inductive PeerCause where
  | beacon
  | frame
  | silence
  | adoption
  deriving DecidableEq, Repr, Inhabited

/-- Source of a line reset (R122). -/
inductive ResetSource where
  | lreset
  | rejoin
  deriving DecidableEq, Repr, Inhabited

/-- Cause of an RX_ERROR (R67, R86, R94). -/
inductive RxCause where
  | length
  | check
  | endMark
  | ownNumber
  | senderRange
  | form
  | formContent
  | notProposer
  | setRange
  | shortSet
  deriving DecidableEq, Repr, Inhabited

/-- What a QUENCH notice reports (R165, R166, R168). -/
inductive QuenchDetail where
  | group
  | adrift
  | isolated
  | released
  deriving DecidableEq, Repr, Inhabited

/-- A notice with its detail (R193). PEER_CHANGE has two forms of detail (R110, R122). -/
inductive Notice where
  | stored (id : Ident) (kind : Kind) (origin : StoreOrigin) (state : EntryState)
  | ratified (id : Ident) (endorsers : StationSet) (mark : RatifyMark)
  | refused (id : Ident) (reason : Reason) (station : Nat)
  | lapsed (id : Ident) (overtaken : Bool)
  | withdrawn (id withdraw : Ident)
  | withdrawTooLate (target withdraw : Ident)
  | applied (id : Ident) (kind : Kind) (scale : Option Nat) (limit : Bool)
  | flagged (id : Ident) (flags : List CfgRule)
  | lateObjection (id : Ident) (station : Nat) (reason : Reason)
  | missedEntry (id : Ident) (endorsers : StationSet) (label : Nat)
  | recitalDone (source : Nat) (origin : RecvOrigin) (tallies : Tallies)
  | recitalFailed (origin : RecvOrigin) (attempts : List (Nat × AttemptCause)) (tallies : Tallies)
  | mergeConflict (record held : Ident)
  | peerChange (station : Nat) (old new : SlotState) (cause : PeerCause)
  | lineReset (source : ResetSource) (purged : Nat)
  | adrift (label a b : Nat) (majority : Int)
  | adoptionBlocked (value : Nat) (blocking : Ident)
  | isolated (planDigest : Word) (a b : Nat)
  | txqFull (kind : FrameKind) (cls : Nat) (ident : Option Ident)
  | lineFault (kind : FrameKind) (cls : Nat) (ident : Option Ident) (last : Option (Mismatch × Nat))
  | rxError (cause : RxCause) (sender kind length label : Nat)
  | quench (n : Nat) (detail : QuenchDetail) (label : Nat)
  | secinLost (label : Nat)
  | secinSpurious (label tick : Nat) (recaptured : Bool)
  deriving DecidableEq, Repr, Inhabited

/-- An item of a notice's detail for which no earlier chapter gives an encoding, and a label offset that 24 bits do
not hold (log entry 13). -/
inductive NoticeItem where
  | origin (o : StoreOrigin)
  | mark (m : RatifyMark)
  | lapseCause (overtaken : Bool)
  | limit (set : Bool)
  | recitalOrigin (o : RecvOrigin)
  | tallies (t : Tallies)
  | attempts (l : List (Nat × AttemptCause))
  | slotState (st : SlotState)
  | peerCause (c : PeerCause)
  | resetSource (r : ResetSource)
  | number (n : Nat)
  | labelOffset (d : Int)
  | noIdentifier
  | mismatch (m : Option (Mismatch × Nat))
  | rxCause (c : RxCause)
  | quenchCause (d : QuenchDetail)
  | tickCount (n : Nat)
  | recaptured (set : Bool)
  deriving DecidableEq, Repr

/-- A pending record: the first occurrence, the label at it and the occurrence count (R191). -/
structure PendingNotice where
  notice : Notice
  label : Nat
  count : Nat
  deriving DecidableEq, Repr, Inhabited

/-- The Notice Unit: a level for each kind (position number - 1), the threshold and the pending set,
oldest record first (R191). -/
structure Notices where
  levels : Vector Nat 23
  threshold : Nat
  pending : List PendingNotice
  deriving DecidableEq, Repr

/-! ### The Request Port (R183) -/

/-- Status of a response, in the order of the codes of R183. -/
inductive Status where
  | empty
  | ok
  | state
  | range
  | notCustodian
  | screen
  | tableFull
  | queueFull
  | badCheck
  deriving DecidableEq, Repr, Inhabited

/-- What READ_STATUS returns of a sending context (R125). -/
structure SendView where
  audience : Nat
  deferred : Nat
  next : Nat
  total : Nat
  deriving DecidableEq, Repr, Inhabited

/-- What READ_STATUS returns of a receiving context (R125). -/
structure RecvView where
  origin : RecvOrigin
  target : Nat
  source : Option Nat
  expected : Nat
  deriving DecidableEq, Repr, Inhabited

/-- The items of READ_STATUS (R188). -/
structure StatusView where
  label : Nat
  lock : Lock
  pendingLabel : Option Origin
  nextSeq : Word
  held : Nat
  otherHeld : Nat
  version : Word
  digest : Word
  planDigest : Word
  station : Station
  lineState : LineState
  queueHeld : Nat
  queueLow : Nat
  headClash : Option Nat
  sending : Option SendView
  receiving : Option RecvView
  qaLevel : Bool
  qaAsserted : Bool
  qbLevel : Bool
  qbAsserted : Bool
  pendingKinds : Nat
  attn : Bool
  deriving DecidableEq, Repr, Inhabited

/-- The items of READ_SCALE (R15, R141). `state` is absent for S0 and for an undefined scale, `count` for
an undefined one, and `calendar` is `none` for UNDATED. -/
structure ScaleView where
  scale : Nat
  kind : ScaleKind
  base : Bool
  parent : Option Nat
  state : Option (Int × Option Nat)
  inserted : Bool
  insertRefused : Bool
  count : Option Int
  calendar : Option CalForm
  warning : Option LeapWarning
  offsetPending : Option OffsetPending
  change : Option ChangeRecord
  deriving DecidableEq, Repr, Inhabited

/-- The items of READ_OUTPUT (R155, R171). -/
structure OutputView where
  n : Nat
  binding : Option Binding
  running : Bool
  curWidth : Nat
  nextWidth : Nat
  curPeriod : Period
  nextPeriod : Period
  latch : Latch
  releasePending : Bool
  realign : Bool
  last : Option (List Byte)
  smear : SmearCtx
  result : WindowResult
  deriving DecidableEq, Repr, Inhabited

/-- The data of a response, as the request gives it (R183). -/
inductive Data where
  | none
  | item (n : Nat)
  | proposal (id : Ident) (flags : List CfgRule)
  | status (v : StatusView)
  | entry (held position : Nat) (version : Word) (e : Entry)
  | noEntry (held : Nat) (version : Word)
  | scale (v : ScaleView)
  | roster (p : Nat) (slot : Slot)
  | output (v : OutputView)
  | noNotice
  | notice (level : Nat) (p : PendingNotice)
  deriving DecidableEq, Repr, Inhabited

/-- A response (R183): code of the request answered, status, reason byte and data. -/
structure Response where
  code : Byte
  status : Status
  reason : Nat
  data : Data
  deriving DecidableEq, Repr, Inhabited

/-- The Request Port: the held response, `none` when it is empty, and the bytes read so far of the
request of a transaction in progress (R183). -/
structure Port where
  held : Option Response
  reading : List Byte
  deriving DecidableEq, Repr, Inhabited

/-- The straps as sampled at the release of RESET and the levels of ATT, QA and QB (true for high). -/
structure Pins where
  stn : Nat
  lrate : BitVec 2
  att : Bool
  qa : Bool
  qb : Bool
  deriving DecidableEq, Repr, Inhabited

end Sys2Proof.Machine
end

