-- ==== Sys2Proof/Config.lean ====
section
/-! DEFINITION. What the manual fixes for every part, and the free values: what it leaves open. -/

namespace Sys2Proof.Config

open Sys2Proof.Machine

/-! ### Fixed numbers of the manual -/

/-- The least tick count at which an edge is accepted (R2). -/
abbrev acceptFrom : Nat := 9999900

/-- The tick count of a substituted boundary, and the last at which an edge is accepted (R2, R4). -/
abbrev substituteAt : Nat := 10000100

/-- A nominal second in ticks (00_scope.md, Time). -/
abbrev nominalSecond : Nat := 10000000

/-- A beacon's label one below the own label agrees while the tick count is below this (R109). -/
abbrev beaconGrace : Nat := 1000000

/-- The bound of TOO_FAR: 400 days in seconds (R49). -/
abbrev tooFar : Nat := 34560000

/-- The first count past the calendar's range (R16). -/
abbrev calendarSpan : Nat := 6311433600

/-- A bit time of a time-code record, 6,250 / 12 ticks, in twelfths of a tick (R164). -/
abbrev recordBit : Nat := 6250

/-- A time-code record, 160 bit times, in twelfths of a tick (R162, R164). -/
abbrev recordSpan : Nat := 1000000

/-! ### Free values: nothing constrains them -/

/-- The order in which the units act at a boundary that the part makes by itself (log entry 4). -/
opaque boundaryOrder : Nat → BoundaryOrder

/-- Which of several items is taken first or is named (log entries 5 and 9). -/
opaque pick : Nat → Nat

/-- The level read on CLD in one bit time of HUNTING or TAKING, true for recessive (log entry 7). -/
opaque lineLevel : Nat → Bool

/-- The byte of a request that the card ends clocking within one tick, if any (log entry 40). -/
opaque clockedByte : Nat → Option Byte

/-- The code reported by BAD_CHECK when the transaction carried not one whole byte (log entry 8). -/
opaque unreadCode : Nat → Byte

/-- The count of a LOCAL scale whose parents do not lead to a CIVIL scale, as READ_SCALE shows it before
START (log entry 36). -/
opaque orphanCount : Nat → Int

/-- The data bytes of READ_STATUS, whose layout the manual does not give (log entry 13). -/
opaque statusBytes : StatusView → List Byte

/-- The data bytes of READ_SCALE, whose layout the manual does not give (log entry 13). -/
opaque scaleBytes : ScaleView → List Byte

/-- The data bytes of READ_ROSTER, whose layout the manual does not give (log entry 13). -/
opaque rosterBytes : Nat → Slot → List Byte

/-- The data bytes of READ_OUTPUT, whose layout the manual does not give (log entry 13). -/
opaque outputBytes : OutputView → List Byte

/-- The bytes of an item of a notice's detail for which the manual gives no encoding (log entry 13). -/
opaque itemBytes : NoticeItem → List Byte

end Sys2Proof.Config
end

