-- ==== Sys2Proof/Machine/State.lean ====
section
/-! DEFINITION. The state of the part, its faults and refusals, and the state right after reset. -/

namespace Sys2Proof.Machine

/-- Faults of the part: none. Every command of the table has an effect in every state, and what the part
turns away it answers by a status (R183) or a notice (R193). Safe: nothing is hidden behind a stop. -/
inductive Fault where
  deriving DecidableEq, Repr

/-- Refusals. -/
inductive Refusal where
  /-- Raised by no arm of `exec`: every row of the table has its meaning. Safe, since a refusal proves
  nothing about the part. -/
  | notModelled (mnemonic : String)
  deriving DecidableEq, Repr

/-- The state of the part, and the queue of the commands that are waiting, first in first out. `quorum`
is Q (R81); `verdicts` are the verdicts on their way to the Agreement Engine, oldest first (R88), behind the
ratifications that a shelf of one station has still to make (R85); `free` counts the free values drawn and `serial` the recitals and attempts begun: these two
and `pending` are the model's own. -/
structure State where
  pins : Pins
  clock : Clock
  plan : Plan
  quorum : Nat
  planDigest : Word
  scales : Vector Scale 5
  table : Table
  line : Line
  station : Station
  roster : Vector Slot 16
  sending : Option SendCtx
  receiving : Option RecvCtx
  verdicts : List PendingVerdict
  report : Report
  outputs : Vector Output 8
  qaCfg : QuenchCfg
  qbCfg : QuenchCfg
  port : Port
  notices : Notices
  free : Nat
  serial : Nat
  pending : List Instr
  deriving DecidableEq, Repr

/-! ### Reset values, unit by unit -/

/-- The Base Clock after full reset (R1). The elapsed distance is DESIGN CHOICE 0 (log entry 11). -/
def Clock.reset : Clock where
  label := 0
  tick := 0
  lock := .free
  run := 0
  phased := false
  capRun := 0
  capElapsed := 0
  pendingLabel := none

/-- The plan after full reset (R185, R42). -/
def Plan.reset : Plan where
  n := 1
  b := 1
  e := 30
  h := 3600
  d := 7
  u := 0
  s1 := .reject
  s2 := .flag
  s3 := .reject
  s4 := .flag
  s5 := .reject
  s6 := .flag
  lmin := 86400
  la := 2592000
  step := 3600
  adopt := false

/-- An undefined scale: no parent and no state (R11, R21). -/
def Scale.undefined : Scale where
  kind := .undefined
  parent := none
  value := 0
  custodian := none
  inserted := false
  insertRefused := false

/-- The Transition Table after full reset (R41). -/
def Table.reset : Table where
  entries := []
  nextStamp := 0
  version := 0
  nextSeq := 0

/-- The Line Interface after full reset (R60). The bits of the frame being taken, the bit position and
the ticks into the bit time are DESIGN CHOICE none and 0 (log entry 11). -/
def Line.reset : Line where
  state := .detached
  idle := 0
  quiet := 0
  bits := []
  bitPos := 0
  phase := 0
  queue := []

/-- The Station Controller after full reset (R105). -/
def Station.reset : Station where
  state := .unconfigured
  listen := 0
  history := []
  adoption := .absent
  rejoin := false

/-- An ABSENT slot (R110). -/
def Slot.absent : Slot where
  state := .absent
  silence := 0
  record := none
  age := 0

/-- The application report with every part reading none (R141). -/
def Report.empty : Report where
  applying := Vector.replicate 5 none
  change := Vector.replicate 5 none

/-- A clear quench latch (R155). -/
def Latch.clear : Latch where
  group := false
  adrift := false
  isolated := false

/-- An Output Unit after full reset (R155, R170, R171). -/
def Output.reset : Output where
  binding := none
  running := false
  curWidth := 1000000
  nextWidth := 1000000
  curPeriod := .boundary
  nextPeriod := .boundary
  forceFull := false
  tick := 0
  latch := Latch.clear
  releasePending := false
  realign := false
  underWay := none
  owed := none
  last := none
  sp := false
  smear := .absent
  result := .none

/-- A quench group after full reset: LEVEL and ACTIVE_HIGH (R165). -/
def QuenchCfg.reset : QuenchCfg where
  edge := false
  activeLow := false

/-- The Request Port after full reset (R183). -/
def Port.reset : Port where
  held := none
  reading := []

/-- The Notice Unit after full reset (R191). -/
def Notices.reset : Notices where
  levels := Vector.replicate 23 4
  threshold := 0
  pending := []

/-- The levels of the inputs in `State.reset`: DESIGN CHOICE, all low (log entry 10). -/
def Pins.reset : Pins where
  stn := 0
  lrate := 0
  att := false
  qa := false
  qb := false

/-- The part right after a full reset. -/
def State.reset : State where
  pins := Pins.reset
  clock := Clock.reset
  plan := Plan.reset
  quorum := 0
  planDigest := 0
  scales := Vector.replicate 5 Scale.undefined
  table := Table.reset
  line := Line.reset
  station := Station.reset
  roster := Vector.replicate 16 Slot.absent
  sending := none
  receiving := none
  verdicts := []
  report := Report.empty
  outputs := Vector.replicate 8 Output.reset
  qaCfg := QuenchCfg.reset
  qbCfg := QuenchCfg.reset
  port := Port.reset
  notices := Notices.reset
  free := 0
  serial := 0
  pending := []

end Sys2Proof.Machine
end

