-- ==== Sys2Proof/Machine/Operands.lean ====
section
/-! DEFINITION. The codes and byte layouts of the manual: frame bodies (R62), entry records (R22, R38), and the response frame (R183). -/

namespace Sys2Proof.Machine

/-! ### Bytes and sets -/

/-- The `k` bytes of a value, high byte first. -/
def be : Nat → Nat → List Byte
  | 0, _ => []
  | k + 1, v => BitVec.ofNat 8 (v / 256 ^ k) :: be k v

/-- The value of bytes sent high byte first. -/
def ofBE (bs : List Byte) : Nat := bs.foldl (fun a b => a * 256 + b.toNat) 0

/-- The value of the `n` bytes of a body that begin at byte `i`. -/
def field (body : List Byte) (i n : Nat) : Nat := ofBE ((body.drop i).take n)

/-- A signed value as 24-bit two's complement. -/
def twos24 (v : Int) : Nat := (BitVec.ofInt 24 v).toNat

/-- The signed value of 24-bit two's complement. -/
def signed24 (n : Nat) : Int := (BitVec.ofNat 24 n).toInt

/-- The empty set of stations. -/
def noStations : StationSet := 0

/-- Station `k` is in the set. -/
def hasStation (set : StationSet) (k : Nat) : Bool := set.getLsbD k

/-- The set with station `k`. -/
def addStation (set : StationSet) (k : Nat) : StationSet := set ||| BitVec.twoPow 16 k

/-- The set without station `k`. -/
def dropStation (set : StationSet) (k : Nat) : StationSet := set &&& ~~~(BitVec.twoPow 16 k)

/-- The number of stations in the set. -/
def countStations (set : StationSet) : Nat := (List.range 16).countP (hasStation set)

/-- Every station of the set is below `n`. -/
def stationsBelow (n : Nat) (set : StationSet) : Bool := decide (set.toNat < 2 ^ n)

/-! ### Codes -/

/-- Kind codes (R38). -/
def Kind.code : Kind → Nat
  | .leapAdd => 1
  | .leapDrop => 2
  | .offsetSet => 3
  | .custody => 4
  | .withdraw => 5

/-- The kind of a code (R38). -/
def Kind.ofCode : Nat → Option Kind
  | 1 => some .leapAdd
  | 2 => some .leapDrop
  | 3 => some .offsetSet
  | 4 => some .custody
  | 5 => some .withdraw
  | _ => none

/-- A kind with a turn (R24). -/
def Kind.scheduled : Kind → Bool
  | .leapAdd | .leapDrop | .offsetSet => true
  | .custody | .withdraw => false

/-- State codes (R38). -/
def EntryState.code : EntryState → Nat
  | .proposed => 1
  | .ratified => 2
  | .applying => 3

/-- The state of a code (R38). -/
def EntryState.ofCode : Nat → Option EntryState
  | 1 => some .proposed
  | 2 => some .ratified
  | 3 => some .applying
  | _ => none

/-- Station state codes (R105). -/
def StationState.code : StationState → Nat
  | .unconfigured => 0
  | .joining => 1
  | .receiving => 2
  | .active => 3
  | .listening => 4
  | .adrift => 5
  | .isolated => 6

/-- The station states that a beacon may carry: 1, 2, 3, 5 and 6 (R62, R109). -/
def StationState.ofBeaconCode : Nat → Option StationState
  | 1 => some .joining
  | 2 => some .receiving
  | 3 => some .active
  | 5 => some .adrift
  | 6 => some .isolated
  | _ => none

/-- Reason codes (R57). -/
def Reason.code : Reason → Nat
  | .kindMismatch => 1
  | .notCustodian => 2
  | .tooLate => 3
  | .tooFar => 4
  | .spacing => 5
  | .unknownTarget => 6
  | .duplicateId => 7
  | .tableFull => 8
  | .monthEnd => 9
  | .halfYear => 10
  | .leadMin => 11
  | .leadAdvise => 12
  | .offsetStep => 13
  | .minuteAlign => 14

/-- The reason of a code, 1 to 14 (R57). -/
def Reason.ofCode : Nat → Option Reason
  | 1 => some .kindMismatch
  | 2 => some .notCustodian
  | 3 => some .tooLate
  | 4 => some .tooFar
  | 5 => some .spacing
  | 6 => some .unknownTarget
  | 7 => some .duplicateId
  | 8 => some .tableFull
  | 9 => some .monthEnd
  | 10 => some .halfYear
  | 11 => some .leadMin
  | 12 => some .leadAdvise
  | 13 => some .offsetStep
  | 14 => some .minuteAlign
  | _ => none

/-- The position of a configurable rule in the flags byte: bit k - 1 for rule Sk (R38). -/
def CfgRule.bit : CfgRule → Nat
  | .monthEnd => 0
  | .halfYear => 1
  | .leadMin => 2
  | .leadAdvise => 3
  | .offsetStep => 4
  | .minuteAlign => 5

/-- The flags byte (R38). -/
def flagsByte (flags : List CfgRule) : Byte :=
  flags.foldl (fun b r => b ||| BitVec.twoPow 8 r.bit) 0

/-- Frame kind codes (R62). -/
def FrameKind.code : FrameKind → Nat
  | .beacon => 1
  | .propose => 2
  | .endorse => 3
  | .object => 4
  | .ratify => 5
  | .reciteReq => 6
  | .recital => 7
  | .scaleState => 8

/-- The frame kind of a code (R62). -/
def FrameKind.ofCode : Nat → Option FrameKind
  | 1 => some .beacon
  | 2 => some .propose
  | 3 => some .endorse
  | 4 => some .object
  | 5 => some .ratify
  | 6 => some .reciteReq
  | 7 => some .recital
  | 8 => some .scaleState
  | _ => none

/-- Action codes of the configurable rules (R107, R189). -/
def RuleAction.code : RuleAction → Nat
  | .off => 0
  | .reject => 1
  | .flag => 2

/-- The action of a code (R189). -/
def RuleAction.ofCode : Nat → Option RuleAction
  | 0 => some .off
  | 1 => some .reject
  | 2 => some .flag
  | _ => none

/-- Scale kind codes (R107, R189). -/
def ScaleKind.code : ScaleKind → Nat
  | .undefined => 0
  | .civil => 1
  | .localScale => 2

/-- The scale kind of a code (R189). -/
def ScaleKind.ofCode : Nat → Option ScaleKind
  | 0 => some .undefined
  | 1 => some .civil
  | 2 => some .localScale
  | _ => none

/-- Status codes of responses (R183). -/
def Status.code : Status → Nat
  | .empty => 0
  | .ok => 1
  | .state => 2
  | .range => 3
  | .notCustodian => 4
  | .screen => 5
  | .tableFull => 6
  | .queueFull => 7
  | .badCheck => 8

/-- Notice numbers (R193). -/
def NoticeKind.number : NoticeKind → Nat
  | .stored => 1
  | .ratified => 2
  | .refused => 3
  | .lapsed => 4
  | .withdrawn => 5
  | .withdrawTooLate => 6
  | .applied => 7
  | .flagged => 8
  | .lateObjection => 9
  | .missedEntry => 10
  | .recitalDone => 11
  | .recitalFailed => 12
  | .mergeConflict => 13
  | .peerChange => 14
  | .adrift => 15
  | .adoptionBlocked => 16
  | .isolated => 17
  | .txqFull => 18
  | .lineFault => 19
  | .rxError => 20
  | .quench => 21
  | .secinLost => 22
  | .secinSpurious => 23

/-- The kind of a notice (R193). -/
def Notice.kind : Notice → NoticeKind
  | .stored .. => .stored
  | .ratified .. => .ratified
  | .refused .. => .refused
  | .lapsed .. => .lapsed
  | .withdrawn .. => .withdrawn
  | .withdrawTooLate .. => .withdrawTooLate
  | .applied .. => .applied
  | .flagged .. => .flagged
  | .lateObjection .. => .lateObjection
  | .missedEntry .. => .missedEntry
  | .recitalDone .. => .recitalDone
  | .recitalFailed .. => .recitalFailed
  | .mergeConflict .. => .mergeConflict
  | .peerChange .. => .peerChange
  | .lineReset .. => .peerChange
  | .adrift .. => .adrift
  | .adoptionBlocked .. => .adoptionBlocked
  | .isolated .. => .isolated
  | .txqFull .. => .txqFull
  | .lineFault .. => .lineFault
  | .rxError .. => .rxError
  | .quench .. => .quench
  | .secinLost .. => .secinLost
  | .secinSpurious .. => .secinSpurious

/-! ### Records -/

/-- The scale field of a record names one of S1 to S5 (R23). -/
def scaleFieldOk : Option Nat → Bool
  | some k => decide (1 ≤ k ∧ k ≤ 5)
  | none => false

/-- The fields of a record suit its kind (R23), for a shelf of `n` stations. A WITHDRAW's target may name a
proposer above 15: R22 gives 0 to 15 and R23 lists no refusal for it (log entry 41). -/
def Record.fieldsOk (n : Nat) (r : Record) : Bool :=
  match r.kind with
  | .leapAdd | .leapDrop =>
    scaleFieldOk r.scale && r.turn.isSome && r.value.isNone && r.target.isNone
  | .offsetSet =>
    scaleFieldOk r.scale && r.turn.isSome && r.target.isNone &&
      (match r.value with
       | some v => decide (-86400 ≤ v ∧ v ≤ 86400)
       | none => false)
  | .custody =>
    scaleFieldOk r.scale && r.turn.isNone && r.target.isNone &&
      (match r.value with
       | some v => decide (0 ≤ v ∧ v < (n : Int))
       | none => false)
  | .withdraw =>
    r.scale.isNone && r.turn.isNone && r.value.isNone && r.target.isSome

/-- The endorser set of a record is below `n` and contains the proposer (R23). -/
def endorsersOk (n proposer : Nat) (set : StationSet) : Bool :=
  stationsBelow n set && hasStation set proposer

/-- The whole test of R23. -/
def Record.wellFormed (n : Nat) (r : Record) (set : StationSet) : Bool :=
  r.fieldsOk n && endorsersOk n r.id.proposer set

/-- The presence byte: bit 0 scale, bit 1 turn, bit 2 value, bit 3 target, bit 4 window (R38). -/
def presenceByte (r : Record) (window : Bool) : Nat :=
  (if r.scale.isSome then 1 else 0) + (if r.turn.isSome then 2 else 0) +
  (if r.value.isSome then 4 else 0) + (if r.target.isSome then 8 else 0) +
  (if window then 16 else 0)

/-- The three bytes of an identifier (R62). -/
def identBytes (id : Ident) : List Byte := be 1 id.proposer ++ be 2 id.seq.toNat

/-- The value of an entry as three bytes: an offset in two's complement, a custodian in the last byte,
zero where it is absent (R38, R62). -/
def valueBytes (r : Record) : List Byte :=
  match r.value with
  | some v => be 3 (twos24 v)
  | none => be 3 0

/-- The target identifier as three bytes, zero where it is absent (R22, R38). -/
def targetBytes (r : Record) : List Byte :=
  match r.target with
  | some t => identBytes t
  | none => be 3 0

/-! ### Frame bodies (R62) -/

/-- The identifier at byte `i` of a body. -/
def identAt (body : List Byte) (i : Nat) : Ident :=
  { proposer := field body i 1, seq := BitVec.ofNat 16 (field body (i + 1) 2) }

/-- The body of a PROPOSE frame. -/
def proposeBody (r : Record) : List Byte :=
  be 2 r.id.seq.toNat ++ be 1 r.kind.code ++
    (match r.kind with
     | .leapAdd | .leapDrop => be 1 (r.scale.getD 0) ++ be 5 (r.turn.getD 0)
     | .offsetSet => be 1 (r.scale.getD 0) ++ be 5 (r.turn.getD 0) ++ be 3 (twos24 (r.value.getD 0))
     | .custody => be 1 (r.scale.getD 0) ++ be 1 (r.value.getD 0).toNat
     | .withdraw => identBytes (r.target.getD default))

/-- The record that a PROPOSE frame of a sender carries; none where the kind code is not 1 to 5. -/
def proposeRecord (sender : Nat) (body : List Byte) : Option Record :=
  let id : Ident := { proposer := sender, seq := BitVec.ofNat 16 (field body 0 2) }
  match Kind.ofCode (field body 2 1) with
  | some .leapAdd =>
    some { id := id, kind := .leapAdd, scale := some (field body 3 1), turn := some (field body 4 5), value := none, target := none }
  | some .leapDrop =>
    some { id := id, kind := .leapDrop, scale := some (field body 3 1), turn := some (field body 4 5), value := none, target := none }
  | some .offsetSet =>
    some { id := id, kind := .offsetSet, scale := some (field body 3 1), turn := some (field body 4 5),
           value := some (signed24 (field body 9 3)), target := none }
  | some .custody =>
    some { id := id, kind := .custody, scale := some (field body 3 1), turn := none,
           value := some (field body 4 1 : Int), target := none }
  | some .withdraw =>
    some { id := id, kind := .withdraw, scale := none, turn := none, value := none, target := some (identAt body 3) }
  | none => none

/-- The body length that goes with a proposal kind (R62). -/
def Kind.proposeLength : Kind → Nat
  | .leapAdd | .leapDrop => 9
  | .offsetSet => 12
  | .custody => 5
  | .withdraw => 6

/-- The class of a PROPOSE frame: 7 for a WITHDRAW, 2 otherwise (R62). -/
def Kind.proposeClass : Kind → Nat
  | .withdraw => 7
  | _ => 2

/-- The class of a frame kind other than PROPOSE (R62). -/
def FrameKind.plainClass : FrameKind → Nat
  | .beacon => 3
  | .propose => 2
  | .endorse => 4
  | .object => 6
  | .ratify => 5
  | .reciteReq => 1
  | .recital => 0
  | .scaleState => 0

/-- The class that R62 gives for a kind and a body. -/
def frameClass (k : FrameKind) (body : List Byte) : Nat :=
  match k with
  | .propose => if field body 2 1 = 5 then 7 else 2
  | k => k.plainClass

/-- The body length is one that R62 permits for the kind. -/
def lengthPermitted (k : FrameKind) (body : List Byte) : Bool :=
  match k with
  | .beacon => body.length == 11
  | .propose =>
    match Kind.ofCode (field body 2 1) with
    | some p => body.length == p.proposeLength
    | none => false
  | .endorse => body.length == 3
  | .object => body.length == 4
  | .ratify => body.length == 5
  | .reciteReq => body.length == 1
  | .recital => body.length == 2 || body.length == 23
  | .scaleState => body.length == 27

/-- The body of a BEACON. -/
def beaconBody (label state : Nat) (digest planDigest : Word) (busy : Bool) : List Byte :=
  be 5 label ++ be 1 state ++ be 2 digest.toNat ++ be 2 planDigest.toNat ++ be 1 (if busy then 1 else 0)

/-- The body of an ENDORSE. -/
def endorseBody (id : Ident) : List Byte := identBytes id

/-- The body of an OBJECT. -/
def objectBody (id : Ident) (r : Reason) : List Byte := identBytes id ++ be 1 r.code

/-- The body of a RATIFY. -/
def ratifyBody (id : Ident) (set : StationSet) : List Byte := identBytes id ++ be 2 set.toNat

/-- The body of a RECITE_REQ. -/
def reciteReqBody (target : Nat) : List Byte := be 1 target

/-- The body of a VACANT record. -/
def vacantBody (index total : Nat) : List Byte := be 1 index ++ be 1 total

/-- The body of a RECITAL that carries an entry, with the window remaining. -/
def recitalBody (index total : Nat) (e : Entry) (remaining : Nat) : List Byte :=
  be 1 index ++ be 1 total ++ identBytes e.id ++ be 1 e.kind.code ++ be 1 (e.scale.getD 0) ++
  be 1 e.state.code ++ be 1 (presenceByte e.toRecord e.window.isSome) ++ be 5 (e.turn.getD 0) ++
  valueBytes e.toRecord ++ targetBytes e.toRecord ++ be 2 e.endorsers.toNat ++ be 1 remaining

/-- A custodian as a byte: 255 for NONE (R39, R62). -/
def custodianByte : Option Nat → Nat
  | some k => k
  | none => 255

/-- The custodian of a byte. -/
def custodianOf (b : Nat) : Option Nat := if b = 255 then none else some b

/-- The four bytes of one scale's state: value and custodian, 0 and 255 for an undefined scale (R39). -/
def scaleStateBytes (sc : Scale) : List Byte :=
  match sc.kind with
  | .undefined => be 3 0 ++ be 1 255
  | _ => be 3 (twos24 sc.value) ++ be 1 (custodianByte sc.custodian)

/-- The body of a SCALE_STATE. -/
def scaleStateBody (index total label : Nat) (scales : Vector Scale 5) : List Byte :=
  be 1 index ++ be 1 total ++ be 5 label ++ scales.toList.flatMap scaleStateBytes

/-- The record of a RECITAL frame as it stands in the body. `window` tells whether the presence byte
shows the window. -/
structure RecitalRecord where
  record : Record
  state : EntryState
  endorsers : StationSet
  window : Bool
  remaining : Nat
  deriving DecidableEq, Repr

/-- The record of a RECITAL body of 23 bytes; none where the kind or state code is unknown. The bytes of
an absent field, bytes 14 and 15 of a CUSTODY value and bits 5 to 7 of the presence byte are disregarded (log
entry 24). -/
def recitalRecord (body : List Byte) : Option RecitalRecord :=
  match Kind.ofCode (field body 5 1), EntryState.ofCode (field body 7 1) with
  | some kind, some state =>
    let p := BitVec.ofNat 8 (field body 8 1)
    some
      { record :=
          { id := identAt body 2, kind := kind,
            scale := if p.getLsbD 0 then some (field body 6 1) else none,
            turn := if p.getLsbD 1 then some (field body 9 5) else none,
            value :=
              if p.getLsbD 2 then
                some (match kind with
                      | .custody => (field body 16 1 : Int)
                      | _ => signed24 (field body 14 3))
              else none,
            target := if p.getLsbD 3 then some (identAt body 17) else none },
        state := state, endorsers := BitVec.ofNat 16 (field body 20 2),
        window := p.getLsbD 4, remaining := field body 22 1 }
  | _, _ => none

/-! ### Responses (R38, R183) -/

/-- The 30 bytes that READ_ENTRY returns (R38). -/
def entryBytes (held position : Nat) (version : Word) (e : Entry) : List Byte :=
  be 1 held ++ be 1 position ++ be 2 version.toNat ++ identBytes e.id ++ be 1 e.kind.code ++
  be 1 (e.scale.getD 0) ++ be 1 e.state.code ++ be 1 (presenceByte e.toRecord e.window.isSome) ++
  be 5 (e.turn.getD 0) ++ valueBytes e.toRecord ++ targetBytes e.toRecord ++
  be 2 e.endorsers.toNat ++ [flagsByte e.flags] ++ be 5 (e.window.getD 0)

/-! ### Notices (R192, R193) -/

/-- A station number, an output number or a frame code as a byte. -/
def numberByte (n : Nat) : List Byte := be 1 n

/-- The class of a frame as frames carry it, 7 less the class (R61), in one byte. -/
def classByte (cls : Nat) : List Byte := be 1 (7 - cls)

/-- A label offset in 24-bit two's complement (R183); one that 24 bits do not hold is a free value (log entry 13). -/
def labelOffsetBytes (d : Int) : List Byte :=
  if -8388608 ≤ d ∧ d ≤ 8388607 then be 3 (twos24 d) else Config.itemBytes (.labelOffset d)

/-- An identifier that a frame may name (R193, rows 18 and 19). -/
def namedIdentBytes : Option Ident → List Byte
  | some id => identBytes id
  | none => Config.itemBytes .noIdentifier

/-- The detail of a notice, field by field in the order of R193, encoded as in the frames and records of earlier
chapters (R38, R57, R62, R192); an item that they do not encode is a free value (log entry 13). -/
def Notice.detailBytes : Notice → List Byte
  | .stored id kind origin state =>
    identBytes id ++ be 1 kind.code ++ Config.itemBytes (.origin origin) ++ be 1 state.code
  | .ratified id set mark => identBytes id ++ be 2 set.toNat ++ Config.itemBytes (.mark mark)
  | .refused id reason station => identBytes id ++ be 1 reason.code ++ numberByte station
  | .lapsed id overtaken => identBytes id ++ Config.itemBytes (.lapseCause overtaken)
  | .withdrawn id withdraw => identBytes id ++ identBytes withdraw
  | .withdrawTooLate target withdraw => identBytes target ++ identBytes withdraw
  | .applied id kind scale limit =>
    identBytes id ++ be 1 kind.code ++ be 1 (scale.getD 0) ++ Config.itemBytes (.limit limit)
  | .flagged id flags => identBytes id ++ [flagsByte flags]
  | .lateObjection id station reason => identBytes id ++ numberByte station ++ be 1 reason.code
  | .missedEntry id set label => identBytes id ++ be 2 set.toNat ++ be 5 label
  | .recitalDone source origin tallies =>
    numberByte source ++ Config.itemBytes (.recitalOrigin origin) ++ Config.itemBytes (.tallies tallies)
  | .recitalFailed origin attempts tallies =>
    Config.itemBytes (.recitalOrigin origin) ++ Config.itemBytes (.attempts attempts) ++
      Config.itemBytes (.tallies tallies)
  | .mergeConflict record held => identBytes record ++ identBytes held
  | .peerChange station old new cause =>
    numberByte station ++ Config.itemBytes (.slotState old) ++ Config.itemBytes (.slotState new) ++
      Config.itemBytes (.peerCause cause)
  | .lineReset source purged => Config.itemBytes (.resetSource source) ++ Config.itemBytes (.number purged)
  | .adrift label a b majority =>
    be 5 label ++ Config.itemBytes (.number a) ++ Config.itemBytes (.number b) ++ labelOffsetBytes majority
  | .adoptionBlocked value blocking => be 5 value ++ identBytes blocking
  | .isolated digest a b => be 2 digest.toNat ++ Config.itemBytes (.number a) ++ Config.itemBytes (.number b)
  | .txqFull kind cls ident => numberByte kind.code ++ classByte cls ++ namedIdentBytes ident
  | .lineFault kind cls ident last =>
    numberByte kind.code ++ classByte cls ++ namedIdentBytes ident ++
      Config.itemBytes (.mismatch last)
  | .rxError cause sender kind length label =>
    Config.itemBytes (.rxCause cause) ++ numberByte sender ++ numberByte kind ++ numberByte length ++ be 5 label
  | .quench n detail label => numberByte n ++ Config.itemBytes (.quenchCause detail) ++ be 5 label
  | .secinLost label => be 5 label
  | .secinSpurious label tick recaptured =>
    be 5 label ++ Config.itemBytes (.tickCount tick) ++ Config.itemBytes (.recaptured recaptured)

/-- The data bytes of a response: at most 40 (R183), at which those of a notice whose detail is longer are cut (log
entry 47). Layouts that the manual does not give are free
values of Config, and the kind number, level and count of a notice are one byte each (log entry 13). -/
def Data.bytes : Data → List Byte
  | .none => []
  | .item n => be 1 n
  | .proposal id flags => identBytes id ++ [flagsByte flags]
  | .status v => (Config.statusBytes v).take 40
  | .entry held position version e => entryBytes held position version e
  | .noEntry held version => be 1 held ++ be 2 version.toNat
  | .scale v => (Config.scaleBytes v).take 40
  | .roster p slot => (Config.rosterBytes p slot).take 40
  | .output v => (Config.outputBytes v).take 40
  | .noNotice => be 1 0
  | .notice level p =>
    (be 1 p.notice.kind.number ++ be 1 level ++ be 1 p.count ++ be 5 p.label ++
      p.notice.detailBytes).take 40

/-- The byte that makes the sum of the bytes and itself, modulo 256, equal 0 (R162, R183). -/
def checkByte (bs : List Byte) : Byte := 0 - bs.foldl (· + ·) 0

/-- The response frame that the port shifts out for the held response; an empty one is sent with code 0,
status EMPTY and no data (R183). -/
def responseFrame (held : Option Response) : List Byte :=
  let r : Response := held.getD { code := 0, status := .empty, reason := 0, data := .none }
  let bs := [r.code] ++ be 1 r.status.code ++ be 1 r.reason ++ be 1 r.data.bytes.length ++ r.data.bytes
  bs ++ [checkByte bs]

end Sys2Proof.Machine
end

