-- ==== Sys2Proof/Machine/Calendar.lean ====
section
/-! DEFINITION. Families, counts and the calendar of the Scale Registry (R11, R15 to R17). -/

namespace Sys2Proof.Machine

/-! ### Scales and families -/

/-- The record of scale `k`; S0 and numbers above 5 have none of their own and read as undefined. -/
def State.scale (s : State) (k : Nat) : Scale :=
  if h : 1 ≤ k ∧ k ≤ 5 then s.scales[k - 1]'(by omega) else Scale.undefined

/-- The family of a scale, named by its CIVIL scale; S0 and undefined scales belong to none (R11). -/
def State.family (s : State) (k : Nat) : Option Nat :=
  match (s.scale k).kind with
  | .undefined => none
  | .civil => some k
  | .localScale => (s.scale k).parent

/-- The family of the scale that a record names. -/
def State.familyOf (s : State) (r : Record) : Option Nat := r.scale.bind s.family

/-- Two records have scales of one family. -/
def State.sameFamily (s : State) (a b : Record) : Bool :=
  match s.familyOf a, s.familyOf b with
  | some x, some y => x == y
  | _, _ => false

/-- The scale numbers S1 to S5, in order. -/
def scaleNumbers : List Nat := [1, 2, 3, 4, 5]

/-- The inserted marker of the scale's family is set (R15, R17). -/
def State.familyInserted (s : State) (k : Nat) : Bool :=
  match s.family k with
  | some c => (s.scale c).inserted
  | none => false

/-- The count of a CIVIL scale (R15). -/
def civilCount (label : Nat) (sc : Scale) : Int :=
  (label : Int) - sc.value - (if sc.inserted then 1 else 0)

/-- The count of a scale (R15); 0 stands for an undefined scale, which has none. -/
def State.count (s : State) (k : Nat) : Int :=
  if k = 0 then (s.clock.label : Int)
  else
    match (s.scale k).kind with
    | .undefined => 0
    | .civil => civilCount s.clock.label (s.scale k)
    | .localScale => civilCount s.clock.label (s.scale ((s.scale k).parent.getD 0)) + (s.scale k).value

/-! ### The calendar (R16) -/

/-- A year of 366 days. -/
def leapYear (y : Nat) : Bool := y % 4 == 0 && (y % 100 != 0 || y % 400 == 0)

/-- The days of a year. -/
def yearLength (y : Nat) : Nat := if leapYear y then 366 else 365

/-- The year, and the days passed in it, of a day that lies `d` days after the start of year `y`. -/
def yearAndDay : Nat → Nat → Nat → Nat × Nat
  | 0, y, d => (y, d)
  | fuel + 1, y, d => if d < yearLength y then (y, d) else yearAndDay fuel (y + 1) (d - yearLength y)

/-- The calendar form of a count; `none` for UNDATED (R16). -/
def calendar (c : Int) : Option CalForm :=
  if 0 ≤ c ∧ c < (Config.calendarSpan : Int) then
    let n := c.toNat
    let yd := yearAndDay 200 2000 (n / 86400)
    some { year := yd.1, day := yd.2 + 1, hour := n % 86400 / 3600, minute := n % 3600 / 60, second := n % 60 }
  else none

/-- The calendar form with second 60 while the inserted marker is set (R17). -/
def calendarMarked (c : Int) (inserted : Bool) : Option CalForm :=
  (calendar c).map fun f => if inserted then { f with second := 60 } else f

/-- The calendar form of a scale as the registry gives it (R15 to R17). -/
def State.calendarForm (s : State) (k : Nat) : Option CalForm :=
  calendarMarked (s.count k) (s.familyInserted k)

/-! ### Months (R16) -/

/-- The lengths of the months of a year. -/
def monthLengths (y : Nat) : List Nat :=
  [31, if leapYear y then 29 else 28, 31, 30, 31, 30, 31, 31, 30, 31, 30, 31]

/-- The month, and whether the day is its last, of a day of the year counted from 1. -/
def monthWalk : List Nat → Nat → Nat → Option (Nat × Bool)
  | [], _, _ => none
  | m :: ms, month, d => if d ≤ m then some (month, d == m) else monthWalk ms (month + 1) (d - m)

/-- The month of a calendar form, and whether its day is the last of the month. -/
def monthOf (f : CalForm) : Option (Nat × Bool) := monthWalk (monthLengths f.year) 1 f.day

end Sys2Proof.Machine
end

