-- ==== Sys2Proof/Machine/Digest.lean ====
section
/-! DEFINITION. The 16-bit CRC, the shelf digest (R39), the plan digest (R107) and the frame check (R63). -/

namespace Sys2Proof.Machine

/-- One bit of the CRC with generator x^16 + x^12 + x^5 + 1 (R39, R63). -/
def crcShift (r : Word) : Word := if r.getLsbD 15 then (r <<< 1) ^^^ 0x1021#16 else r <<< 1

/-- `n` bits of the CRC. -/
def crcBits : Nat → Word → Word
  | 0, r => r
  | n + 1, r => crcBits n (crcShift r)

/-- One byte of the CRC, most significant bit first. -/
def crcByte (r : Word) (b : Byte) : Word := crcBits 8 (r ^^^ (b.zeroExtend 16 <<< 8))

/-- The CRC of bytes: the register starts at all ones and is not inverted at the end (R39, R63). -/
def crc16 (bs : List Byte) : Word := bs.foldl crcByte 0xFFFF#16

/-- A settled entry is RATIFIED or APPLYING (chapter 2.5). -/
def Entry.settled (e : Entry) : Bool := e.state != .proposed

/-- The value of an entry in the digest: the offset of an OFFSET_SET, 0 otherwise (R39). -/
def digestValue (e : Entry) : Int :=
  match e.kind with
  | .offsetSet => e.value.getD 0
  | _ => 0

/-- The 12 bytes of a settled entry (R39). -/
def entryDigestBytes (e : Entry) : List Byte :=
  identBytes e.id ++ be 1 e.kind.code ++ be 1 (e.scale.getD 0) ++ be 5 (e.turn.getD 0) ++
  be 2 (BitVec.ofInt 16 (digestValue e)).toNat

/-- The bytes that the shelf digest covers (R39). -/
def State.digestBytes (s : State) : List Byte :=
  (s.table.entries.filter Entry.settled).flatMap entryDigestBytes ++
  s.scales.toList.flatMap scaleStateBytes

/-- The shelf digest over the contents as they now stand (R39, R40). -/
def State.shelfDigest (s : State) : Word := crc16 s.digestBytes

/-- The kind and parent of a scale as two bytes (R107). -/
def scalePlanBytes (sc : Scale) : List Byte := be 1 sc.kind.code ++ be 1 (sc.parent.getD 0)

/-- The 35 bytes that the plan digest covers (R107). -/
def planBytes (p : Plan) (scales : Vector Scale 5) : List Byte :=
  be 1 p.n ++ be 1 p.b ++ be 1 p.e ++ be 3 p.h ++ be 1 p.d ++ be 1 p.u ++
  be 1 p.s1.code ++ be 1 p.s2.code ++ be 1 p.s3.code ++ be 1 p.s4.code ++ be 1 p.s5.code ++ be 1 p.s6.code ++
  be 4 p.lmin ++ be 4 p.la ++ be 3 p.step ++ scales.toList.flatMap scalePlanBytes

/-- The plan digest (R107). -/
def planDigestOf (p : Plan) (scales : Vector Scale 5) : Word := crc16 (planBytes p scales)

/-- The two header bytes of a frame: class field 7 - c, sender, kind and length (R61). -/
def headerBytes (clsField : BitVec 3) (sender kind : BitVec 4) (length : BitVec 5) : List Byte :=
  let h : Word := clsField ++ sender ++ kind ++ length
  be 2 h.toNat

/-- The check field of a frame (R63). -/
def frameCheck (clsField : BitVec 3) (sender kind : BitVec 4) (length : BitVec 5) (body : List Byte) : Word :=
  crc16 (headerBytes clsField sender kind length ++ body)

/-- The bits of a value, most significant first. -/
def msbBits : (w : Nat) → Nat → List Bool
  | 0, _ => []
  | w + 1, v => v.testBit w :: msbBits w v

/-- The bits of bytes, most significant first. -/
def byteBits (bs : List Byte) : List Bool := bs.flatMap fun b => msbBits 8 b.toNat

/-- The bits of a frame before its end mark, true for recessive: start mark, header, body and check (R61). -/
def fieldBits (f : RawFrame) : List Bool :=
  [false] ++ byteBits (headerBytes f.cls f.sender f.kind f.length) ++ byteBits f.body ++ msbBits 16 f.check.toNat

/-- A frame of a class, sender, kind and body as it is sent: its length and check fields are those of R61 and
R63, and its end mark is whole. -/
def soundFrame (cls sender : Nat) (kind : FrameKind) (body : List Byte) : RawFrame :=
  let c : BitVec 3 := BitVec.ofNat 3 (7 - cls)
  let p : BitVec 4 := BitVec.ofNat 4 sender
  let k : BitVec 4 := BitVec.ofNat 4 kind.code
  let len : BitVec 5 := BitVec.ofNat 5 body.length
  { cls := c, sender := p, kind := k, length := len, body := body, check := frameCheck c p k len body, endMark := true }

/-- The bits of a frame of this station as they are sent, true for released: start mark, header, body,
check and end mark (R61, R63, R64). -/
def frameBits (stn : Nat) (f : Frame) : List Bool :=
  fieldBits (soundFrame f.cls stn f.kind f.body) ++ [true, true, true]

/-- The length of a frame in bit times: 36 + 8L (R61). -/
def frameLength (f : Frame) : Nat := 36 + 8 * f.body.length

end Sys2Proof.Machine
end

