-- ==== Sys2Proof/Machine/Ops.lean ====
section
/-! DEFINITION. The shared operations on single units: notices (R191), the transmit queue (R70, R76 to R78), the table (R25 to R38) and the registry (R18). -/

namespace Sys2Proof.Machine

/-! ### Free values -/

/-- One of a list of items, chosen by a free value; the first is chosen of a list of one. -/
def choose {α : Type} (i : Nat) : List α → Option α
  | [] => none
  | [a] => some a
  | a :: l => (a :: l)[Config.pick i % (l.length + 1)]?

/-- A free value has been drawn. -/
def State.drawn (s : State) : State := { s with free := s.free + 1 }

/-! ### Notices (R191) -/

/-- A raised notice on a pending set: its kind is already pending and the count rises to at most 255, or
a record is added. -/
def addNotice (n : Notice) (label : Nat) : List PendingNotice → List PendingNotice
  | [] => [{ notice := n, label := label, count := 1 }]
  | p :: ps =>
    if p.notice.kind = n.kind then { p with count := min 255 (p.count + 1) } :: ps
    else p :: addNotice n label ps

/-- A unit raises a notice at the current label (R191). -/
def raise (n : Notice) (s : State) : State :=
  { s with notices := { s.notices with pending := addNotice n s.clock.label s.notices.pending } }

/-- The level of a notice kind. -/
def Notices.level (ns : Notices) (k : NoticeKind) : Nat := ns.levels[k.number - 1]?.getD 0

/-- ATTN is high while the pending set holds a kind whose level is above the threshold (R191). -/
def State.attn (s : State) : Bool :=
  s.notices.pending.any fun p => decide (s.notices.threshold < s.notices.level p.notice.kind)

/-! ### The roster -/

/-- The slot of a station number. -/
def State.slot (s : State) (p : Nat) : Slot := s.roster[p]?.getD Slot.absent

/-- The roster with a slot replaced. -/
def State.setSlot (s : State) (p : Nat) (sl : Slot) : State :=
  { s with roster := s.roster.setIfInBounds p sl }

/-! ### The transmit queue (R76) -/

/-- The kinds that may be begun and are admitted in a station state (R70, R76). -/
def kindPermitted : StationState → FrameKind → Bool
  | .unconfigured, _ => false
  | .listening, _ => false
  | .joining, k => k == .beacon || k == .reciteReq
  | .receiving, k => k == .beacon || k == .reciteReq
  | .active, _ => true
  | .adrift, k => k == .beacon
  | .isolated, k => k == .beacon

/-- The number of frames of class below 5. -/
def lowCount (q : List Frame) : Nat := q.countP fun f => decide (f.cls < 5)

/-- There is room for a frame of a class (R76). -/
def roomFor (q : List Frame) (cls : Nat) : Bool :=
  decide (q.length < 12) && (decide (5 ≤ cls) || decide (lowCount q < 10))

/-- A frame placed after every held frame whose class is equal to or higher than its own (R76). -/
def insertFrame (f : Frame) : List Frame → List Frame
  | [] => [f]
  | g :: gs => if f.cls ≤ g.cls then g :: insertFrame f gs else f :: g :: gs

/-- The unit that queues the frames of a kind (R84, R86, R87, R90, R108, R126, R129). -/
def FrameKind.unit : FrameKind → QueueUnit
  | .beacon => .station
  | .propose | .endorse | .object | .ratify => .agreement
  | .reciteReq | .recital | .scaleState => .recital

/-- A frame as its unit offers it: clash count 0, not begun, no removal mark (R64, R74, R76). -/
def newFrame (kind : FrameKind) (cls : Nat) (body : List Byte) (ident : Option Ident) (serial : Nat) : Frame where
  unit := kind.unit
  kind := kind
  cls := cls
  body := body
  ident := ident
  clash := 0
  inTx := false
  removal := .none
  serial := serial
  lastMismatch := none

/-- The frame would be admitted to the transmit queue (R76). -/
def State.wouldQueue (s : State) (f : Frame) : Bool :=
  kindPermitted s.station.state f.kind && roomFor s.line.queue f.cls

/-- The transmit queue replaced. -/
def State.setQueue (s : State) (q : List Frame) : State := { s with line := { s.line with queue := q } }

/-- A unit offers a frame (R76): it is queued, or dropped with TXQ_FULL for want of room, or dropped
without a notice because its kind is not permitted. -/
def offer (f : Frame) (s : State) : State :=
  if s.wouldQueue f then s.setQueue (insertFrame f s.line.queue)
  else if kindPermitted s.station.state f.kind then raise (.txqFull f.kind f.cls f.ident) s
  else s

/-- The kinds whose frames are removed when the entry they name is freed (R35, R77). -/
def namesEntry (f : Frame) (id : Ident) : Bool :=
  (f.kind == .endorse || f.kind == .object || f.kind == .ratify) && f.ident == some id

/-- A removal mark set on a frame in transmission, where it has none. -/
def Frame.marked (f : Frame) : Frame :=
  { f with removal := match f.removal with | .none => .marked | r => r }

/-- The queue after an entry has been freed: frames that name it and have not begun are removed, one in
transmission is marked (R77). -/
def purgeNaming (id : Ident) (q : List Frame) : List Frame :=
  (q.filter fun f => !(namesEntry f id && !f.inTx)).map fun f =>
    if namesEntry f id then f.marked else f

/-! ### The Transition Table -/

/-- The entry held under an identifier. -/
def State.find (s : State) (id : Ident) : Option Entry := s.table.entries.find? fun e => decide (e.id = id)

/-- An identifier is held (R25). -/
def State.holds (s : State) (id : Ident) : Bool := (s.find id).isSome

/-- The number of entries held (R27). -/
def State.held (s : State) : Nat := s.table.entries.length

/-- The number of entries whose kind is not WITHDRAW (R27). -/
def otherCount (es : List Entry) : Nat := es.countP fun e => decide (e.kind ≠ .withdraw)

/-- The capacity test of R27 for a kind. -/
def State.hasRoom (s : State) (k : Kind) : Bool :=
  decide (s.held < 16) && (k == .withdraw || decide (otherCount s.table.entries < 16 - s.plan.u))

/-- Stamp `a` comes before stamp `b`: b - a modulo 2^32 is below 2^31 (R37). -/
def stampBefore (a b : BitVec 32) : Bool := decide ((b - a).toNat < 2147483648)

/-- Table order (R37): turnless entries first by stamp, then by turn, proposer and sequence. -/
def Entry.before (a b : Entry) : Bool :=
  match a.turn, b.turn with
  | none, none => stampBefore a.stamp b.stamp
  | none, some _ => true
  | some _, none => false
  | some ta, some tb =>
    decide (ta < tb ∨ (ta = tb ∧
      (a.id.proposer < b.id.proposer ∨ (a.id.proposer = b.id.proposer ∧ a.id.seq.toNat < b.id.seq.toNat))))

/-- An entry placed in table order (R37). -/
def insertEntry (e : Entry) : List Entry → List Entry
  | [] => [e]
  | x :: xs => if e.before x then e :: x :: xs else x :: insertEntry e xs

/-- The table with its entries replaced and the version raised by one (R38). -/
def State.setEntries (s : State) (es : List Entry) : State :=
  { s with table := { s.table with entries := es, version := s.table.version + 1 } }

/-- The entries with the one held under an identifier changed. -/
def updateEntry (id : Ident) (f : Entry → Entry) (es : List Entry) : List Entry :=
  es.map fun e => if e.id = id then f e else e

/-- A held entry changed, which raises the table version (R38). -/
def State.modify (s : State) (id : Ident) (f : Entry → Entry) : State :=
  s.setEntries (updateEntry id f s.table.entries)

/-- The entries without the one held under an identifier. -/
def eraseEntry (id : Ident) (es : List Entry) : List Entry := es.filter fun e => decide (e.id ≠ id)

/-- The reason for which the table would refuse a store, if any (R25, R27). -/
def State.storeRefusal (s : State) (r : Record) : Option Reason :=
  if s.holds r.id then some .duplicateId
  else if s.hasRoom r.kind then none
  else some .tableFull

/-- The store of a record that passes the tests of R25 and R27 (R28): next stamp, state, window, STORED,
table version. -/
def storeEntry (r : Record) (state : EntryState) (endorsers : StationSet) (flags : List CfgRule)
    (window : Option Nat) (mark : Mark) (origin : StoreOrigin) (s : State) : State :=
  let e : Entry :=
    { r with state := state, endorsers := endorsers, flags := flags, window := window,
             stamp := s.table.nextStamp, mark := mark }
  raise (.stored r.id r.kind origin state)
    { s with table :=
        { s.table with entries := insertEntry e s.table.entries, nextStamp := s.table.nextStamp + 1,
                       version := s.table.version + 1 } }

/-- An entry leaves the table with an outcome other than EXECUTED (R35): it is removed, the notice of R33
is raised, and the queued frames that name it are removed. -/
def freeEntry (id : Ident) (n : Notice) (s : State) : State :=
  let t := raise n (s.setEntries (eraseEntry id s.table.entries))
  t.setQueue (purgeNaming id t.line.queue)

/-- An entry leaves the table as EXECUTED (R31, R35): no frame is removed. -/
def freeExecuted (id : Ident) (set : StationSet) (s : State) : State :=
  raise (.ratified id set .executed) (s.setEntries (eraseEntry id s.table.entries))

/-- The announcement mark of the entry held under an identifier changed where it stands at `old`; marks
do not move the table version (R81). -/
def State.moveMark (s : State) (id : Ident) (old new : Mark) : State :=
  { s with table :=
      { s.table with entries :=
          s.table.entries.map fun e => if e.id = id ∧ e.mark = old then { e with mark := new } else e } }

/-- The announcement mark of a held entry set (R84, R90, R96). -/
def State.setMark (s : State) (id : Ident) (m : Mark) : State :=
  { s with table := { s.table with entries := updateEntry id (fun e => { e with mark := m }) s.table.entries } }

/-- Two turns conflict when the distance between them is H or less (R32). -/
def turnsConflict (h a b : Nat) : Bool := decide (a ≤ b + h ∧ b ≤ a + h)

/-- Two records with turns in one family conflict (R32). -/
def State.conflicts (s : State) (a b : Record) : Bool :=
  match a.turn, b.turn with
  | some x, some y => s.sameFamily a b && turnsConflict s.plan.h x y
  | _, _ => false

/-- The other settled entries that conflict with a record (R32). -/
def State.settledConflicts (s : State) (r : Record) : List Ident :=
  (s.table.entries.filter fun e => e.settled && decide (e.id ≠ r.id) && s.conflicts r e.toRecord).map fun e => e.id

/-! ### Scale changes (R18) -/

/-- A change on a scale: the scale after it, and whether the registry took it. An INSERT_END refused at
the limit still ends the inserted second (log entry 22). -/
def Scale.change (sc : Scale) (c : ScaleChange) (v : Int) : Scale × Bool :=
  match c with
  | .insertBegin =>
    if sc.kind ≠ .civil then (sc, false)
    else if 255 ≤ sc.value then ({ sc with insertRefused := true }, false)
    else ({ sc with inserted := true }, true)
  | .insertEnd =>
    if sc.kind ≠ .civil then (sc, false)
    else if sc.insertRefused then ({ sc with insertRefused := false, inserted := false }, false)
    else if 255 ≤ sc.value then ({ sc with inserted := false }, false)
    else ({ sc with inserted := false, value := sc.value + 1 }, true)
  | .lagDown =>
    if sc.kind ≠ .civil then (sc, false)
    else if sc.value ≤ -255 then (sc, false)
    else ({ sc with value := sc.value - 1 }, true)
  | .offsetTo =>
    if sc.kind ≠ .localScale then (sc, false) else ({ sc with value := v }, true)

/-- The record of scale `k`, one of S1 to S5, replaced. -/
def State.setScale (s : State) (k : Nat) (sc : Scale) : State :=
  if 1 ≤ k then { s with scales := s.scales.setIfInBounds (k - 1) sc } else s

/-! ### Leap warning and offset pending (R150, R151) -/

/-- The span of a warning: turn - D days to turn (R150). -/
def inSpan (s : State) (turn : Nat) : Bool :=
  decide (turn ≤ s.clock.label + s.plan.d * 86400 ∧ s.clock.label ≤ turn)

/-- The item with the earlier turn, the first of a list of items paired with their turns. -/
def earliest {α : Type} : List (Nat × α) → Option (Nat × α)
  | [] => none
  | a :: l =>
    match earliest l with
    | none => some a
    | some b => if b.1 < a.1 then some b else some a

/-- The leap warning of the family of CIVIL scale `c` (R150). -/
def State.leapWarning (s : State) (c : Nat) : Option LeapWarning :=
  (earliest (s.table.entries.filterMap fun e =>
    match e.turn with
    | some t =>
      if e.settled && (e.kind == .leapAdd || e.kind == .leapDrop) && e.scale == some c && inSpan s t then
        some (t, ({ add := e.kind == .leapAdd, id := e.id, turn := t } : LeapWarning))
      else none
    | none => none)).map Prod.snd

/-- The offset pending of scale `k` (R151); none unless it is LOCAL. -/
def State.offsetPending (s : State) (k : Nat) : Option OffsetPending :=
  if (s.scale k).kind = .localScale then
    (earliest (s.table.entries.filterMap fun e =>
      match e.turn with
      | some t =>
        if e.settled && e.kind == .offsetSet && e.scale == some k && inSpan s t then
          some (t, ({ id := e.id, turn := t, value := e.value.getD 0 } : OffsetPending))
        else none
      | none => none)).map Prod.snd
  else none

/-- The leap warning of the family of a scale; none for S0 and undefined scales. -/
def State.warningFor (s : State) (k : Nat) : Option LeapWarning := (s.family k).bind s.leapWarning

end Sys2Proof.Machine
end

