-- ==== Sys2Proof/Machine/Screening.lean ====
section
/-! DEFINITION. The Screening Unit (chapter 3): the fixed rules, the configurable rules and the verdict. -/

namespace Sys2Proof.Machine

/-! ### The fixed rules (R45 to R52) -/

/-- KIND_MISMATCH passes (R45). -/
def kindSuits (s : State) (r : Record) : Bool :=
  let k := (s.scale (r.scale.getD 0)).kind
  match r.kind with
  | .leapAdd | .leapDrop => k == .civil
  | .offsetSet => k == .localScale
  | .custody => k == .civil || k == .localScale
  | .withdraw => true

/-- A proposer passes the custody test of a scale: the custodian is NONE, is the proposer, or is a peer
whose slot is ABSENT here (R46). -/
def custodyPasses (s : State) (scale proposer : Nat) : Bool :=
  match (s.scale scale).custodian with
  | none => true
  | some c => c == proposer || (c != s.pins.stn && (s.slot c).state == .absent)

/-- NOT_CUSTODIAN passes (R46, R47). -/
def custodianSuits (s : State) (r : Record) : Bool :=
  match r.kind with
  | .withdraw =>
    match r.target.bind s.find with
    | none => true
    | some t =>
      r.id.proposer == t.id.proposer ||
        (match t.scale with
         | some k => custodyPasses s k r.id.proposer
         | none => false)
  | _ => custodyPasses s (r.scale.getD 0) r.id.proposer

/-- A turn's APPLYING start lies no later than the end of a receiver's window: turn - H ≤ now + E + 2 (R48). -/
def horizonTooNear (s : State) (turn : Nat) : Bool :=
  decide (turn ≤ s.clock.label + s.plan.e + 2 + s.plan.h)

/-- A WITHDRAW's target is in APPLYING, or its APPLYING start is too near (R48, R136). -/
def targetTooNear (s : State) (target : Option Ident) : Bool :=
  match target.bind s.find with
  | none => false
  | some t =>
    t.state == .applying ||
      (match t.turn with
       | some x => horizonTooNear s x
       | none => false)

/-- TOO_LATE passes (R48). -/
def inTime (s : State) (r : Record) : Bool :=
  match r.kind with
  | .withdraw => !targetTooNear s r.target
  | .custody => true
  | _ =>
    match r.turn with
    | some t => !horizonTooNear s t
    | none => true

/-- TOO_FAR passes (R49). -/
def nearEnough (s : State) (r : Record) : Bool :=
  match r.turn with
  | some t => decide (t ≤ s.clock.label + Config.tooFar)
  | none => true

/-- SPACING passes (R50): no other entry of the family, in any state, has a turn within H. The entry held under
the proposal's own identifier is no other entry; DUPLICATE_ID answers for it (R36, R51). -/
def spaced (s : State) (r : Record) : Bool :=
  !s.table.entries.any fun e => decide (e.id ≠ r.id) && s.conflicts r e.toRecord

/-- UNKNOWN_TARGET passes (R51). -/
def targetKnown (s : State) (r : Record) : Bool :=
  match r.kind with
  | .withdraw => (r.target.bind s.find).isSome
  | _ => true

/-- The first fixed rule that fails, in the order of R44. -/
def fixedRules (s : State) (r : Record) : Option Reason :=
  if !kindSuits s r then some .kindMismatch
  else if !custodianSuits s r then some .notCustodian
  else if !inTime s r then some .tooLate
  else if !nearEnough s r then some .tooFar
  else if !spaced s r then some .spacing
  else if !targetKnown s r then some .unknownTarget
  else if s.holds r.id then some .duplicateId
  else if !s.hasRoom r.kind then some .tableFull
  else none

/-! ### The projected state (R53) -/

/-- The settled entries of the family of a record. -/
def settledFamily (s : State) (r : Record) : List Entry :=
  s.table.entries.filter fun e => e.settled && s.sameFamily r e.toRecord

/-- The projected lag of CIVIL scale `c` at base second turn - 1: every settled leap of its family that falls by then
moves it, whichever scale of the family it names (R53). -/
def projectedLag (s : State) (c turn : Nat) (family : List Entry) : Int :=
  family.foldl (fun lag e =>
    match e.kind, e.turn with
    | .leapAdd, some t => if t + 1 ≤ turn - 1 then lag + 1 else lag
    | .leapDrop, some t => if t ≤ turn - 1 then lag - 1 else lag
    | _, _ => lag) (s.scale c).value

/-- The later of the offset found so far, with its turn, and the one that an entry sets on LOCAL scale `k` by base
second turn - 1 (R53). -/
def laterOffset (k turn : Nat) (best : Option Nat × Int) (e : Entry) : Option Nat × Int :=
  match e.kind, e.turn with
  | .offsetSet, some t =>
    if e.scale = some k ∧ t ≤ turn - 1 ∧ best.1.getD 0 ≤ t then (some t, e.value.getD 0) else best
  | _, _ => best

/-- The projected offset of LOCAL scale `k` at base second turn - 1: the value of the latest settled
OFFSET_SET that falls by then, or the present offset (R53). -/
def projectedOffset (s : State) (k turn : Nat) (family : List Entry) : Int :=
  (family.foldl (laterOffset k turn) (none, (s.scale k).value)).2

/-- The projected count of the named scale at base second turn - 1 (R53). -/
def projectedCount (s : State) (r : Record) (turn : Nat) : Int :=
  let family := settledFamily s r
  let k := r.scale.getD 0
  let c := (s.family k).getD 0
  let civil := (turn : Int) - 1 - projectedLag s c turn family
  match (s.scale k).kind with
  | .localScale => civil + projectedOffset s k turn family
  | _ => civil

/-! ### The configurable rules (R54 to R56) -/

/-- The second of the day that rule S1 asks for: 23:59:59 for a LEAP_ADD, 23:59:58 for a LEAP_DROP. -/
def monthEndSecond (k : Kind) : Nat :=
  match k with
  | .leapDrop => 58
  | _ => 59

/-- Rule S1 MONTH_END passes (R54). -/
def monthEndOk (s : State) (r : Record) (turn : Nat) : Bool :=
  match calendar (projectedCount s r turn) with
  | none => false
  | some f =>
    (match monthOf f with
     | some (_, last) => last
     | none => false) &&
    f.hour == 23 && f.minute == 59 && f.second == monthEndSecond r.kind

/-- Rule S2 HALF_YEAR passes (R54). -/
def halfYearOk (s : State) (r : Record) (turn : Nat) : Bool :=
  match (calendar (projectedCount s r turn)).bind monthOf with
  | some (m, _) => m == 6 || m == 12
  | none => false

/-- The lead of a turn is at least a bound (R55). -/
def leadOk (s : State) (turn bound : Nat) : Bool := decide (s.clock.label + bound ≤ turn)

/-- Rule S5 OFFSET_STEP passes (R56). -/
def offsetStepOk (s : State) (r : Record) (turn : Nat) : Bool :=
  let k := r.scale.getD 0
  decide ((r.value.getD 0 - projectedOffset s k turn (settledFamily s r)).natAbs ≤ s.plan.step)

/-- Rule S6 MINUTE_ALIGN passes (R56). -/
def minuteAlignOk (s : State) (r : Record) (turn : Nat) : Bool :=
  match calendar (projectedCount s r turn) with
  | some f => f.second == 59
  | none => false

/-- A configurable rule applies to a kind (R44). -/
def CfgRule.appliesTo : CfgRule → Kind → Bool
  | .monthEnd, k => k == .leapAdd || k == .leapDrop
  | .halfYear, k => k == .leapAdd || k == .leapDrop
  | .leadMin, k => k.scheduled
  | .leadAdvise, k => k.scheduled
  | .offsetStep, k => k == .offsetSet
  | .minuteAlign, k => k == .offsetSet

/-- A configurable rule passes; a rule that does not apply to the kind passes (R44). -/
def CfgRule.passes (c : CfgRule) (s : State) (r : Record) : Bool :=
  !c.appliesTo r.kind ||
  (match r.turn with
   | none => true
   | some t =>
     match c with
     | .monthEnd => monthEndOk s r t
     | .halfYear => halfYearOk s r t
     | .leadMin => leadOk s t s.plan.lmin
     | .leadAdvise => leadOk s t s.plan.la
     | .offsetStep => offsetStepOk s r t
     | .minuteAlign => minuteAlignOk s r t)

/-- The action of a configurable rule (R42). -/
def Plan.action (p : Plan) : CfgRule → RuleAction
  | .monthEnd => p.s1
  | .halfYear => p.s2
  | .leadMin => p.s3
  | .leadAdvise => p.s4
  | .offsetStep => p.s5
  | .minuteAlign => p.s6

/-- The reason that a configurable rule gives (R57). -/
def CfgRule.reason : CfgRule → Reason
  | .monthEnd => .monthEnd
  | .halfYear => .halfYear
  | .leadMin => .leadMin
  | .leadAdvise => .leadAdvise
  | .offsetStep => .offsetStep
  | .minuteAlign => .minuteAlign

/-- The configurable rules in order (R44). -/
def cfgRules : List CfgRule := [.monthEnd, .halfYear, .leadMin, .leadAdvise, .offsetStep, .minuteAlign]

/-- The configurable rules taken in order, with the flags gathered so far (R44). -/
def configurableRules (s : State) (r : Record) : List CfgRule → List CfgRule → Verdict
  | [], flags => .accept flags
  | c :: cs, flags =>
    match s.plan.action c with
    | .off => configurableRules s r cs flags
    | .reject => if c.passes s r then configurableRules s r cs flags else .reject c.reason
    | .flag => configurableRules s r cs (if c.passes s r then flags else flags ++ [c])

/-- The verdict on a proposal (R43, R44). -/
def screen (s : State) (r : Record) : Verdict :=
  match fixedRules s r with
  | some reason => .reject reason
  | none => configurableRules s r cfgRules []

end Sys2Proof.Machine
end

