-- ==== Sys2Proof/Machine/Lifecycle.lean ====
section
/-! DEFINITION. What a change of station state reaches: purged frames and their reports (R78), the recital contexts (R131, R139), the quench latches (R166), and the change itself (R123). -/

namespace Sys2Proof.Machine

/-! ### Quench latches (R165 to R167) -/

/-- The latch is set: it has a cause. -/
def Latch.set (l : Latch) : Bool := l.group || l.adrift || l.isolated

/-- A latch with a cause added; RELEASED is no cause. -/
def Latch.add (l : Latch) : QuenchDetail → Latch
  | .group => { l with group := true }
  | .adrift => { l with adrift := true }
  | .isolated => { l with isolated := true }
  | .released => l

/-- Output `n` replaced. -/
def State.setOutput (s : State) (n : Fin 8) (o : Output) : State :=
  { s with outputs := s.outputs.set n o }

/-- An output whose latch is set with a cause: SPn goes low, a record owed is discarded and a pending
release is cleared (R165 to R167). -/
def Output.quenched (o : Output) (cause : QuenchDetail) : Output :=
  { o with latch := o.latch.add cause, releasePending := false, owed := none, sp := false }

/-- Quench one output with a cause, if it is RUNNING; QUENCH is raised if its latch was clear (R165, R166). -/
def quenchOutput (cause : QuenchDetail) (s : State) (n : Fin 8) : State :=
  let o := s.outputs[n]
  if o.running then
    let t := s.setOutput n (o.quenched cause)
    if o.latch.set then t else raise (.quench n.val cause s.clock.label) t
  else s

/-- Quench those of the eight outputs that a test picks, in ascending number (log entry 33). -/
def quenchWhere (p : Fin 8 → Output → Bool) (cause : QuenchDetail) (s : State) : State :=
  (List.finRange 8).foldl (fun t n => if p n t.outputs[n] then quenchOutput cause t n else t) s

/-- The adrift policy of an output is QUENCH (R155). -/
def Output.quenchesAdrift (o : Output) : Bool :=
  match o.binding with
  | some b => b.quench
  | none => false

/-- The outputs that the entry to a station state quenches (R166). -/
def quenchOnState (st : StationState) (s : State) : State :=
  match st with
  | .adrift => quenchWhere (fun _ o => o.quenchesAdrift) .adrift s
  | .isolated => quenchWhere (fun _ _ => true) .isolated s
  | _ => s

/-! ### The fate of frames as their units learn it -/

/-- The sending context becomes absent (R131). -/
def abandonRecital (s : State) : State := { s with sending := none }

/-- The request state of the receiving context of the attempt that offered a frame (R126); a report for
a frame of an earlier attempt is disregarded. -/
def setRequest (serial : Nat) (req : ReqState) (s : State) : State :=
  match s.receiving with
  | some c => if c.serial = serial then { s with receiving := some { c with req := req } } else s
  | none => s

/-- The frame is one of the recital now being sent. -/
def ofSending (serial : Nat) (s : State) : Bool :=
  match s.sending with
  | some c => c.serial == serial
  | none => false

/-- A unit is told PURGED for a frame (R77, R78): an owed announcement becomes due again (R81), a
RECITE_REQ becomes DUE (R126), a recital is abandoned (R130). -/
def reportPurged (s : State) (f : Frame) : State :=
  match f.kind, f.ident with
  | .propose, some id => s.moveMark id .proposeQueued .proposeDue
  | .ratify, some id => s.moveMark id .ratifyQueued .ratifyDue
  | .reciteReq, _ => setRequest f.serial .due s
  | .recital, _ => if ofSending f.serial s then abandonRecital s else s
  | .scaleState, _ => if ofSending f.serial s then abandonRecital s else s
  | _, _ => s

/-- The line side of a change of station state (R78): frames that have not begun and whose kind is not
permitted are removed and their units told PURGED; one in transmission is marked. -/
def purgeForbidden (s : State) : State :=
  let bad (f : Frame) : Bool := !kindPermitted s.station.state f.kind
  let gone := s.line.queue.filter fun f => bad f && !f.inTx
  let kept := (s.line.queue.filter fun f => !(bad f && !f.inTx)).map fun f => if bad f then f.marked else f
  gone.foldl reportPurged (s.setQueue kept)

/-! ### The change of station state -/

/-- The adoption arrangement when the station leaves ADRIFT or is line reset: WAITING and COUNTING are
dropped, REQUESTED is left to the Base Clock (R116). -/
def Adoption.dropped : Adoption → Adoption
  | .requested v => .requested v
  | _ => .absent

/-- A state in which the station takes full part or listens (R119, R120). -/
def StationState.settledIn : StationState → Bool
  | .active | .listening => true
  | _ => false

/-- The items of the Station Controller after a change of state: listening starts at 0 (R118) and its count stands
once JOINING has ended (log entry 35), the discord history is emptied (R117) and the rejoin indication cleared (R122)
on entering ACTIVE or LISTENING, and the arrangement dropped on leaving ADRIFT (R116). -/
def Station.entered (st : Station) (new : StationState) : Station :=
  { state := new
    listen := if new = .joining then 0 else st.listen
    history := if new.settledIn then [] else st.history
    adoption := if st.state = .adrift then st.adoption.dropped else st.adoption
    rejoin := if new.settledIn then false else st.rejoin }

/-- The recital contexts when the station leaves a state: the sending one is abandoned on leaving ACTIVE
(R131), the receiving one dropped on leaving RECEIVING or ACTIVE (R120, R139). -/
def dropContexts (old : StationState) (s : State) : State :=
  match old with
  | .active => { s with sending := none, receiving := none }
  | .receiving => { s with receiving := none }
  | _ => s

/-- The station enters a state; nothing happens where it is in that state already (R123). -/
def enterState (new : StationState) (s : State) : State :=
  if s.station.state = new then s
  else
    quenchOnState new
      (purgeForbidden (dropContexts s.station.state { s with station := s.station.entered new }))

/-- The state that the end of listening, or a recital, gives by the level of ATT (R119, R120). -/
def State.attState (s : State) : StationState := if s.pins.att then .active else .listening

end Sys2Proof.Machine
end

