-- ==== Sys2Proof/Machine/RecitalOps.lean ====
section
/-! DEFINITION. Asking for a recital (R126), its failures (R133), and sending one (R128 to R131). -/

namespace Sys2Proof.Machine

/-! ### Asking (R126) -/

/-- The RECITE_REQ of the present attempt is offered, and the request state follows (R126). -/
def offerRequest (s : State) : State :=
  match s.receiving with
  | none => s
  | some c =>
    let f := newFrame .reciteReq FrameKind.reciteReq.plainClass (reciteReqBody c.target) none c.serial
    let t := offer f s
    { t with receiving := some { c with req := if s.wouldQueue f then .queued else .due } }

/-- No record has been merged yet. -/
def Tallies.zero : Tallies where
  inserted := 0
  advanced := 0
  unchanged := 0
  skipped := 0
  conflicts := 0

/-- A recital is asked of the Recital Unit: a receiving context is created and its RECITE_REQ offered; one
already present is left running (R126). -/
def askRecital (origin : RecvOrigin) (target : Nat) (s : State) : State :=
  match s.receiving with
  | some _ => s
  | none =>
    offerRequest
      { s with
        serial := s.serial + 1
        receiving := some
          { origin := origin, target := target, req := .queued, source := none, expected := 1, total := none,
            wait := 0, tried := noStations, attempts := [], tallies := Tallies.zero, serial := s.serial } }

/-- A slot takes part in the majority evaluations (R110). -/
def Slot.counted (sl : Slot) : Bool :=
  (sl.state == .present || sl.state == .divergent || sl.state == .mismatched) && sl.record.isSome

/-- A slot is PRESENT and its beacon record shows station state ACTIVE (R119, R133). -/
def Slot.activePeer (sl : Slot) : Bool :=
  sl.state == .present &&
    (match sl.record with
     | some r => r.state == .active
     | none => false)

/-- The stations whose slots pass a test, in ascending order. -/
def State.stationsWhere (s : State) (p : Slot → Bool) : List Nat := (List.range 16).filter fun k => p (s.slot k)

/-- The station returns to JOINING because a recital round has failed (R120). -/
def roundFailed (origin : RecvOrigin) (s : State) : State :=
  match origin with
  | .joining => enterState .joining s
  | _ => s

/-- An attempt fails (R133): it is recorded, and the next ACTIVE peer is tried or the round has failed. -/
def failAttempt (cause : AttemptCause) (s : State) : State :=
  match s.receiving with
  | none => s
  | some c =>
    let tried := addStation (addStation c.tried c.target) (c.source.getD c.target)
    let attempts := c.attempts ++ [(c.source.getD c.target, cause)]
    match s.stationsWhere (fun sl => sl.activePeer) |>.find? (fun k => !hasStation tried k) with
    | some next =>
      offerRequest
        { s with
          serial := s.serial + 1
          receiving := some
            { c with target := next, req := .queued, source := none, expected := 1, total := none, wait := 0,
                     tried := tried, attempts := attempts, serial := s.serial } }
    | none =>
      roundFailed c.origin
        (raise (.recitalFailed c.origin attempts c.tallies) { s with receiving := none })

/-! ### Sending (R128 to R131) -/

/-- The total of a sending context: the length of the snapshot plus one (R125). -/
def SendCtx.total (c : SendCtx) : Nat := c.snapshot.length + 1

/-- The window remaining that a recital frame carries: window less label for a PROPOSED entry, 0 otherwise
(R129). -/
def windowRemaining (s : State) (e : Entry) : Nat :=
  if e.state = .proposed then e.window.getD 0 - s.clock.label else 0

/-- The frame of the present index, assembled from the table and the scales as they stand (R129). -/
def assembleRecital (s : State) (c : SendCtx) : Frame :=
  if c.next ≤ c.snapshot.length then
    let body :=
      match (c.snapshot[c.next - 1]?).bind s.find with
      | some e => recitalBody c.next c.total e (windowRemaining s e)
      | none => vacantBody c.next c.total
    newFrame .recital FrameKind.recital.plainClass body none c.serial
  else
    newFrame .scaleState FrameKind.scaleState.plainClass
      (scaleStateBody c.next c.total s.clock.label s.scales) none c.serial

/-- The frame of the present index did not leave the line: the failed offers rise, the frame is DUE, and
at 4 the recital is abandoned (R130). -/
def recitalOfferFailed (s : State) : State :=
  match s.sending with
  | none => s
  | some c =>
    if 4 ≤ c.failed + 1 then abandonRecital s
    else { s with sending := some { c with offer := .due, failed := c.failed + 1 } }

/-- The frame of the present index is assembled and offered (R129, R130). -/
def offerRecitalFrame (s : State) : State :=
  match s.sending with
  | none => s
  | some c =>
    let f := assembleRecital s c
    let t := offer f s
    if s.wouldQueue f then { t with sending := some { c with offer := .queued } } else recitalOfferFailed t

/-- A recital starts for an audience (R128). -/
def startRecital (audience : StationSet) (s : State) : State :=
  offerRecitalFrame
    { s with
      serial := s.serial + 1
      sending := some
        { snapshot := s.table.entries.map fun e => e.id
          next := 1
          offer := .queued
          failed := 0
          audience := audience
          deferred := noStations
          serial := s.serial } }

/-- SENT is reported for a RECITAL frame: the next frame is assembled and offered at once (R129). -/
def recitalFrameSent (s : State) : State :=
  match s.sending with
  | none => s
  | some c => offerRecitalFrame { s with sending := some { c with next := c.next + 1, failed := 0 } }

/-- SENT is reported for the SCALE_STATE frame: the recital ends, and a new one starts for a deferred
audience (R130). -/
def recitalEnded (s : State) : State :=
  match s.sending with
  | none => s
  | some c =>
    if c.deferred = noStations then { s with sending := none }
    else startRecital c.deferred { s with sending := none }

end Sys2Proof.Machine
end

