-- ==== Sys2Proof/Machine/AgreementOps.lean ====
section
/-! DEFINITION. The Agreement Engine's shared operations: announcements (R81, R84, R96), ratification (R31, R90) and the withdrawal of entries (R31, R99). -/

namespace Sys2Proof.Machine

/-! ### Announcements -/

/-- The PROPOSE frame of an entry (R84). -/
def proposeFrame (e : Record) : Frame :=
  newFrame .propose e.kind.proposeClass (proposeBody e) (some e.id) 0

/-- The RATIFY frame of an identifier with an endorser set (R90). -/
def ratifyFrame (id : Ident) (set : StationSet) : Frame :=
  newFrame .ratify FrameKind.ratify.plainClass (ratifyBody id set) (some id) 0

/-- The PROPOSE frame of an own entry is offered and its mark follows (R84). -/
def offerPropose (r : Record) (s : State) : State :=
  (offer (proposeFrame r) s).setMark r.id
    (if s.wouldQueue (proposeFrame r) then .proposeQueued else .proposeDue)

/-- The RATIFY frame of an own settled entry is offered and its mark follows (R90, R96). -/
def offerRatify (id : Ident) (set : StationSet) (s : State) : State :=
  (offer (ratifyFrame id set) s).setMark id
    (if s.wouldQueue (ratifyFrame id set) then .ratifyQueued else .ratifyDue)

/-! ### Ratification -/

/-- The PROPOSED WITHDRAW entries that name an entry which the pass or a merge has brought into APPLYING lapse OVERTAKEN
(R31, R135, R136, R144). Of several the first in table order lapses first (log entry 33). -/
def lapseOvertaken (id : Ident) (s : State) : State :=
  ((s.table.entries.filter fun e => e.kind == .withdraw && e.state == .proposed && e.target == some id).map
    fun e => e.id).foldl (fun t w => freeEntry w (.lapsed w true) t) s

/-- The target of a ratified WITHDRAW (R31, R99). -/
def withdrawTarget (target withdraw : Ident) (s : State) : State :=
  match s.find target with
  | none => s
  | some t =>
    if t.state = .applying then raise (.withdrawTooLate target withdraw) s
    else freeEntry target (.withdrawn target withdraw) s

/-- The ratification claim on a held PROPOSED entry, with the endorser set given (R31). A WITHDRAW that names itself
is freed WITHDRAWN as its own target, and is then still reported EXECUTED (log entry 45). -/
def ratifyClaim (e : Entry) (set : StationSet) (s : State) : State :=
  match e.kind with
  | .custody =>
    let k := e.scale.getD 0
    freeExecuted e.id set (s.setScale k { s.scale k with custodian := e.value.map Int.toNat })
  | .withdraw => freeExecuted e.id set (withdrawTarget (e.target.getD default) e.id s)
  | _ =>
    if s.settledConflicts e.toRecord = [] then
      raise (.ratified e.id set .none)
        (s.modify e.id fun x => { x with state := .ratified, window := none, endorsers := set })
    else freeEntry e.id (.refused e.id .spacing s.pins.stn) s

/-- The entry held under an identifier is settled. -/
def State.settledId (s : State) (id : Ident) : Bool :=
  match s.find id with
  | some e => e.settled
  | none => false

/-- The proposer ratifies its own PROPOSED entry, whose endorser set has reached Q (R85, R90). On a shelf
of one station no frame is offered; a station that is not ACTIVE offers none and leaves a CUSTODY or
WITHDRAW entry for a later boundary. -/
def ratifyOwn (id : Ident) (s : State) : State :=
  match s.find id with
  | none => s
  | some e =>
    if e.kind.scheduled then
      let t := ratifyClaim e e.endorsers s
      if s.plan.n ≤ 1 then t
      else if t.settledId id then
        if s.station.state = .active then offerRatify id e.endorsers t else t.setMark id .ratifyDue
      else t
    else if s.station.state = .active then
      ratifyClaim e e.endorsers (if s.plan.n ≤ 1 then s else offer (ratifyFrame id e.endorsers) s)
    else s

/-- Endorsers are added to a PROPOSED entry; if this brings an own entry's set from below Q to Q or more,
it is ratified (R89, R90, R135). -/
def addEndorsers (id : Ident) (set : StationSet) (s : State) : State :=
  match s.find id with
  | none => s
  | some e =>
    let new := e.endorsers ||| set
    if new = e.endorsers then s
    else
      let t := s.modify id fun x => { x with endorsers := new }
      if e.id.proposer = s.pins.stn ∧ countStations e.endorsers < s.quorum ∧ s.quorum ≤ countStations new then
        ratifyOwn id t
      else t

/-! ### The engine's work at a boundary -/

/-- Identifiers of the entries that pass a test, in table order. -/
def State.idsWhere (s : State) (p : Entry → Bool) : List Ident :=
  (s.table.entries.filter p).map fun e => e.id

/-- The engine offers nothing unless the station is ACTIVE (R82). -/
def whenActive (f : State → State) (s : State) : State := if s.station.state = .active then f s else s

/-- The quorum test of own PROPOSED CUSTODY and WITHDRAW entries at a boundary (R90). -/
def retestQuorum : State → State :=
  whenActive fun s =>
    (s.idsWhere fun e =>
      e.state == .proposed && !e.kind.scheduled && e.id.proposer == s.pins.stn &&
        decide (s.quorum ≤ countStations e.endorsers)).foldl (fun t id => ratifyOwn id t) s

/-- The RATIFY frames that are due are offered again (R96). -/
def reofferRatify : State → State :=
  whenActive fun s =>
    (s.idsWhere fun e => e.mark == .ratifyDue && e.settled && e.id.proposer == s.pins.stn).foldl
      (fun t id =>
        match t.find id with
        | some e => offerRatify id e.endorsers t
        | none => t) s

/-- The PROPOSE frames that are due are offered again (R84). -/
def reofferPropose : State → State :=
  whenActive fun s =>
    (s.idsWhere fun e => e.mark == .proposeDue && e.state == .proposed && e.id.proposer == s.pins.stn).foldl
      (fun t id =>
        match t.find id with
        | some e => offerPropose e.toRecord t
        | none => t) s

/-- The expiry of one window (R97): a PROPOSED entry whose window is at or below the label is freed. -/
def expireEntry (id : Ident) (s : State) : State :=
  match s.find id with
  | some e =>
    if e.state = .proposed ∧ e.window.any (fun w => decide (w ≤ s.clock.label)) then
      freeEntry id (.lapsed id false) s
    else s
  | none => s

/-- The expiry of windows at a boundary (R29, R97). -/
def expireWindows (s : State) : State :=
  (s.idsWhere fun e => e.state == .proposed).foldl (fun t id => expireEntry id t) s

end Sys2Proof.Machine
end

