-- ==== Sys2Proof/Machine/RecitalMerge.lean ====
section
/-! DEFINITION. Receiving a recital (R132), merging its records (R135 to R137) and adopting its scale state (R20, R138). -/

namespace Sys2Proof.Machine

/-! ### Tallies -/

/-- The tallies of the receiving context changed. -/
def tally (f : Tallies → Tallies) (s : State) : State :=
  { s with receiving := s.receiving.map fun c => { c with tallies := f c.tallies } }

/-- A record inserted. -/
def Tallies.insert (t : Tallies) : Tallies := { t with inserted := t.inserted + 1 }

/-- A held entry advanced. -/
def Tallies.advance (t : Tallies) : Tallies := { t with advanced := t.advanced + 1 }

/-- A held entry whose state stays (log entry 21). -/
def Tallies.keep (t : Tallies) : Tallies := { t with unchanged := t.unchanged + 1 }

/-- A record skipped. -/
def Tallies.skip (t : Tallies) : Tallies := { t with skipped := t.skipped + 1 }

/-- A record skipped with MERGE_CONFLICT. -/
def Tallies.conflict (t : Tallies) : Tallies := { t with skipped := t.skipped + 1, conflicts := t.conflicts + 1 }

/-! ### Sequence recovery (R137) -/

/-- The next sequence is raised past an own identifier that stands ahead of it by less than 32,768 (R137). -/
def recoverSequence (id : Ident) (s : State) : State :=
  if id.proposer = s.pins.stn ∧ (id.seq - s.table.nextSeq).toNat < 32768 then
    { s with table := { s.table with nextSeq := id.seq + 1 } }
  else s

/-- The identifier of a record, and its target identifier where present, are examined (R137). -/
def recoverSequences (r : Record) (s : State) : State :=
  let t := recoverSequence r.id s
  match r.target with
  | some id => recoverSequence id t
  | none => t

/-! ### Merging (R135, R136) -/

/-- A record that would place two settled turns of one family within H is skipped with MERGE_CONFLICT; if
several held entries conflict, which of them is named is a free value (log entry 9). -/
def skipConflict (r : Record) (s : State) : State :=
  let held := (choose s.free (s.settledConflicts r)).getD r.id
  tally Tallies.conflict (raise (.mergeConflict r.id held) s).drawn

/-- The order of the states PROPOSED, RATIFIED, APPLYING (R135). -/
def EntryState.later (a b : EntryState) : Bool := decide (b.code < a.code)

/-- A held entry is advanced to a record's state (R135): endorsers replaced, window removed, an own mark
NONE, RATIFIED marked MERGED (log entry 20); an entry now APPLYING overtakes its WITHDRAWs (R31). -/
def advanceEntry (rr : RecitalRecord) (s : State) : State :=
  let id := rr.record.id
  let t := raise (.ratified id rr.endorsers .merged)
    (s.modify id fun x => { x with state := rr.state, endorsers := rr.endorsers, window := none, mark := .none })
  tally Tallies.advance (if rr.state = .applying then lapseOvertaken id t else t)

/-- A record whose identifier is held (R135). The spacing test is made with the held entry, whose fields stay where
the record's differ; a CUSTODY or WITHDRAW entry, held PROPOSED only, is not advanced (R30; log entry 39). -/
def mergeHeld (rr : RecitalRecord) (e : Entry) (s : State) : State :=
  if rr.state.later e.state then
    if !e.kind.scheduled then tally Tallies.keep s
    else if s.settledConflicts e.toRecord = [] then advanceEntry rr s else skipConflict e.toRecord s
  else if e.state = .proposed then
    addEndorsers e.id rr.endorsers (tally Tallies.keep s)
  else tally Tallies.keep s

/-- The transition of a record would already be complete at the current label (R136, test 1). -/
def alreadyApplied (s : State) (r : Record) : Bool :=
  match r.kind, r.turn with
  | .leapAdd, some t => decide (t + 1 ≤ s.clock.label)
  | .leapDrop, some t => decide (t ≤ s.clock.label)
  | .offsetSet, some t => decide (t ≤ s.clock.label)
  | _, _ => false

/-- A PROPOSED record comes too late to be agreed (R136, test 3). -/
def tooLateToAgree (s : State) (r : Record) : Bool :=
  match r.kind with
  | .withdraw => targetTooNear s r.target
  | .custody => false
  | _ =>
    match r.turn with
    | some t => horizonTooNear s t
    | none => false

/-- The state in which a record is inserted: a settled one is APPLYING once turn - H is reached (R136). -/
def insertionState (s : State) (rr : RecitalRecord) : EntryState :=
  match rr.state with
  | .proposed => .proposed
  | st =>
    match rr.record.turn with
    | some t => if t ≤ s.clock.label + s.plan.h then .applying else st
    | none => st

/-- A record is stored with origin MERGE (R136, test 6). -/
def insertRecord (rr : RecitalRecord) (s : State) : State :=
  let st := insertionState s rr
  let window := if st = .proposed then some (s.clock.label + rr.remaining) else none
  let t := storeEntry rr.record st rr.endorsers [] window .none .merge s
  tally Tallies.insert (if st = .applying then lapseOvertaken rr.record.id t else t)

/-- A record whose identifier is not held: the tests of R136 in order. -/
def mergeNew (rr : RecitalRecord) (s : State) : State :=
  let r := rr.record
  if alreadyApplied s r then tally Tallies.skip s
  else if rr.state = .proposed ∧ r.id.proposer = s.pins.stn then tally Tallies.skip s
  else if rr.state = .proposed ∧ tooLateToAgree s r = true then tally Tallies.skip s
  else if rr.state ≠ .proposed ∧ s.settledConflicts r ≠ [] then skipConflict r s
  else if !s.hasRoom r.kind then failAttempt .mergeFull s
  else insertRecord rr s

/-- A record is merged, after the sequence recovery (R135 to R137). -/
def mergeRecord (rr : RecitalRecord) (s : State) : State :=
  let t := recoverSequences rr.record s
  match t.find rr.record.id with
  | some e => mergeHeld rr e t
  | none => mergeNew rr t

/-! ### Taking the frames (R132) -/

/-- A record of a recital frame is well formed for this station (R132). The window remaining of a PROPOSED record is
not tested against the 122 of R62 (log entry 44). -/
def recitalRecordOk (s : State) (rr : RecitalRecord) : Bool :=
  rr.record.wellFormed s.plan.n rr.endorsers &&
  (match rr.state with
   | .proposed => rr.window && rr.remaining != 0
   | _ =>
     !rr.window && rr.remaining == 0 && rr.record.kind.scheduled &&
       decide (s.quorum ≤ countStations rr.endorsers))

/-- What a recital frame that is taken carries. -/
inductive RecitalContent where
  | vacant
  | entry (rr : RecitalRecord)
  | scales (label : Nat) (body : List Byte)
  deriving DecidableEq, Repr

/-- The form test of a frame taken in order (R132); none where it fails. The total is not tested against the 17 of
R62 and R125 (log entry 44). -/
def recitalContent (s : State) (scaleState : Bool) (total : Nat) (body : List Byte) : Option RecitalContent :=
  let index := field body 0 1
  if field body 1 1 ≠ total then none
  else if scaleState then
    if index = total then some (.scales (field body 2 5) body) else none
  else if total ≤ index then none
  else if body.length = 2 then some .vacant
  else
    match recitalRecord body with
    | some rr => if recitalRecordOk s rr then some (.entry rr) else none
    | none => none

/-- The attempt fails with cause GAP because a frame fails its form test (R132). -/
def failForm (kind : FrameKind) (sender : Nat) (body : List Byte) (s : State) : State :=
  failAttempt .gap (raise (.rxError .formContent sender kind.code body.length s.clock.label) s)

/-! ### Scale-state adoption (R20, R138) -/

/-- The value that a SCALE_STATE body carries for S1 to S5, by position 0 to 4. -/
def carriedValue (body : List Byte) (i : Nat) : Int := signed24 (field body (7 + 4 * i) 3)

/-- The custodian that a SCALE_STATE body carries for S1 to S5, by position 0 to 4. -/
def carriedCustodian (body : List Byte) (i : Nat) : Option Nat := custodianOf (field body (10 + 4 * i) 1)

/-- What a frame carries for a scale lies within the receiver's ranges (R20). -/
def carriedOk (n : Nat) (sc : Scale) (v : Int) (c : Option Nat) : Bool :=
  let custodianOk := c.all fun k => decide (k < n)
  match sc.kind with
  | .undefined => true
  | .civil => decide (-255 ≤ v ∧ v ≤ 255) && custodianOk
  | .localScale => decide (-86400 ≤ v ∧ v ≤ 86400) && custodianOk

/-- The registry would adopt a SCALE_STATE frame (R20). -/
def adoptable (s : State) (label : Nat) (body : List Byte) : Bool :=
  decide (label = s.clock.label) &&
  (List.finRange 5).all fun i =>
    carriedOk s.plan.n s.scales[i] (carriedValue body i.val) (carriedCustodian body i.val)

/-- A defined scale takes the carried value and custodian; its marker and flag stay (R20). -/
def Scale.adopt (sc : Scale) (v : Int) (c : Option Nat) : Scale :=
  match sc.kind with
  | .undefined => sc
  | _ => { sc with value := v, custodian := c }

/-- The scales after an adoption (R20). -/
def adoptedScales (scales : Vector Scale 5) (body : List Byte) : Vector Scale 5 :=
  #v[scales[0].adopt (carriedValue body 0) (carriedCustodian body 0),
     scales[1].adopt (carriedValue body 1) (carriedCustodian body 1),
     scales[2].adopt (carriedValue body 2) (carriedCustodian body 2),
     scales[3].adopt (carriedValue body 3) (carriedCustodian body 3),
     scales[4].adopt (carriedValue body 4) (carriedCustodian body 4)]

/-- An open window moves its first count with the count of the bound scale (R181). -/
def SmearCtx.move (d : Int) : SmearCtx → SmearCtx
  | .opened leap k c => .opened leap k (c + d)
  | ctx => ctx

/-- An output learns by how much the count of its scale changed (R20, R163, R181). -/
def Output.countMoved (o : Output) (d : Nat → Int) : Output :=
  match o.binding with
  | some b =>
    if o.running && d b.scale != 0 then { o with realign := true, smear := o.smear.move (d b.scale) } else o
  | none => o

/-- The registry adopts a SCALE_STATE frame and tells the outputs (R20). -/
def adoptScales (body : List Byte) (s : State) : State :=
  let t := { s with scales := adoptedScales s.scales body }
  { t with outputs := s.outputs.map fun o => o.countMoved fun k => t.count k - s.count k }

/-- The recital is complete (R138). -/
def recitalDone (source : Nat) (s : State) : State :=
  match s.receiving with
  | none => s
  | some c =>
    let t := raise (.recitalDone source c.origin c.tallies) { s with receiving := none }
    match c.origin with
    | .joining => enterState t.attState t
    | _ => t

/-- A SCALE_STATE taken in order is handed to the registry (R138). -/
def handScales (sender label : Nat) (body : List Byte) (s : State) : State :=
  if adoptable s label body then recitalDone sender (adoptScales body s) else failAttempt .overtaken s

/-- A frame taken in order from its source (R132). -/
def takeInOrder (kind : FrameKind) (sender : Nat) (body : List Byte) (c : RecvCtx) (total : Nat) (s : State) : State :=
  match recitalContent s (kind == .scaleState) total body with
  | none => failForm kind sender body s
  | some content =>
    let t := { s with receiving := some { c with wait := 0, expected := c.expected + 1 } }
    match content with
    | .vacant => t
    | .entry rr => mergeRecord rr t
    | .scales label b => handScales sender label b t

/-- The sender's slot is DIVERGENT or MISMATCHED (R82, R127, R132). -/
def State.disagreeing (s : State) (sender : Nat) : Bool :=
  (s.slot sender).state == .divergent || (s.slot sender).state == .mismatched

/-- A RECITAL or SCALE_STATE frame delivered to the Recital Unit (R132). -/
def takeRecitalFrame (kind : FrameKind) (sender : Nat) (body : List Byte) (s : State) : State :=
  match s.receiving with
  | none => s
  | some c =>
    if s.disagreeing sender then s
    else
      let index := field body 0 1
      match c.source with
      | none =>
        if index = 1 then
          let total := field body 1 1
          let c' := { c with source := some sender, total := some total }
          takeInOrder kind sender body c' total { s with receiving := some c' }
        else s
      | some src =>
        if src ≠ sender then s
        else if index = c.expected then takeInOrder kind sender body c (c.total.getD 0) s
        else failAttempt .gap s

end Sys2Proof.Machine
end

