-- ==== Sys2Proof/Machine/ApplyOps.lean ====
section
/-! DEFINITION. The Apply Unit's pass (R142 to R149) and its report (R141, R152). -/

namespace Sys2Proof.Machine

/-! ### Handing a change to the registry (R18, R152) -/

/-- The change record of scale `k` set for this second. -/
def State.setChange (s : State) (k : Nat) (cr : ChangeRecord) : State :=
  if 1 ≤ k then { s with report := { s.report with change := s.report.change.setIfInBounds (k - 1) (some cr) } } else s

/-- The scales whose record shows a change: the whole family of a CIVIL scale, or the LOCAL scale that an
OFFSET_TO names (R152). A refused change of a merged leap that names a LOCAL scale, and a refused OFFSET_TO of a merged
entry that names a scale that is not LOCAL here, show on the named scale alone (log entry 48). -/
def touchedScales (s : State) (c : ScaleChange) (k : Nat) : List Nat :=
  match c with
  | .offsetTo => [k]
  | _ => scaleNumbers.filter fun x => x == k || s.family x == some k

/-- The registry would take a change handed for scale `k` (R18). -/
def changeTaken (s : State) (c : ScaleChange) (k : Nat) (v : Int) : Bool := ((s.scale k).change c v).2

/-- A change is handed to the registry for an entry, and reported to the outputs (R18, R152). -/
def handChange (c : ScaleChange) (k : Nat) (v : Int) (id : Ident) (s : State) : State :=
  let cr : ChangeRecord := { change := c, id := id, taken := changeTaken s c k v }
  (touchedScales s c k).foldl (fun t x => t.setChange x cr) (s.setScale k ((s.scale k).change c v).1)

/-- The change that completes an entry is handed, and the entry is freed APPLIED, with LIMIT where the
registry refused the change (R148). -/
def completeEntry (c : ScaleChange) (e : Entry) (s : State) : State :=
  let k := e.scale.getD 0
  let v := e.value.getD 0
  freeEntry e.id (.applied e.id e.kind e.scale !(changeTaken s c k v)) (handChange c k v e.id s)

/-! ### The pass (R142) -/

/-- A RATIFIED entry whose horizon has come moves to APPLYING (R143) and overtakes its WITHDRAWs (R144). -/
def enterApplying (id : Ident) (s : State) : State :=
  lapseOvertaken id (s.modify id fun x => { x with state := .applying })

/-- The scale change of an entry in APPLYING that is due at the label (R142, R145 to R147). -/
def actWhenDue (e : Entry) (turn : Nat) (s : State) : State :=
  match e.kind with
  | .leapAdd =>
    if s.clock.label = turn then handChange .insertBegin (e.scale.getD 0) 0 e.id s
    else if turn + 1 ≤ s.clock.label then completeEntry .insertEnd e s
    else s
  | .leapDrop => if turn ≤ s.clock.label then completeEntry .lagDown e s else s
  | .offsetSet => if turn ≤ s.clock.label then completeEntry .offsetTo e s else s
  | _ => s

/-- The actions due for one settled entry (R142). -/
def applyEntry (id : Ident) (s : State) : State :=
  match s.find id with
  | none => s
  | some e =>
    match e.turn with
    | none => s
    | some t =>
      match e.state with
      | .proposed => s
      | .ratified =>
        if t ≤ s.clock.label + s.plan.h then actWhenDue e t (enterApplying id s) else s
      | .applying => actWhenDue e t s

/-- The applying entry of the family of CIVIL scale `c` (R141). -/
def applyingOf (s : State) (c : Nat) : Option Record :=
  (s.table.entries.find? fun e => e.state == .applying && s.familyOf e.toRecord == some c).map fun e => e.toRecord

/-- The applying entries of the report, formed at the end of the pass (R141, R142). -/
def formReport (s : State) : State :=
  { s with report :=
      { s.report with applying :=
          #v[applyingOf s 1, applyingOf s 2, applyingOf s 3, applyingOf s 4, applyingOf s 5] } }

/-- Every change record reads none (R152). -/
def clearChanges (s : State) : State :=
  { s with report := { s.report with change := Vector.replicate 5 none } }

/-- The pass at a boundary (R142), made in every state after START (R153). -/
def applyPass (s : State) : State :=
  if s.station.state = .unconfigured then s
  else formReport ((s.idsWhere fun e => e.settled).foldl (fun t id => applyEntry id t) (clearChanges s))

end Sys2Proof.Machine
end

