-- ==== Sys2Proof/Machine/Flags.lean ====
section
/-! DEFINITION. The flags and fields of the time-code record (R161, R162). -/

namespace Sys2Proof.Machine

/-- What the presentation logic gives for the second that begins: the calendar form, none for UNDATED, and
the smearing, held and offset-change flags (R161, R172 to R177). -/
structure Display where
  form : Option CalForm
  smearing : Bool
  held : Bool
  offsetChange : Bool
  deriving DecidableEq, Repr

/-- The bits set of a list of flags with their positions. -/
def flagBits (fs : List (Bool × Nat)) : Byte :=
  fs.foldl (fun b f => if f.1 then b ||| BitVec.twoPow 8 f.2 else b) 0

/-- The transition flags: byte 12 (R162). -/
def transitionFlags (s : State) (k : Nat) (d : Display) (realign : Bool) : Byte :=
  let w := s.warningFor k
  flagBits
    [(w.any fun x => x.add, 0), (w.any fun x => !x.add, 1), ((s.offsetPending k).isSome, 2), (d.smearing, 3),
     (d.held, 4), (d.offsetChange, 5), (realign, 6), (d.form.isNone, 7)]

/-- The station flags: byte 13 (R162). -/
def stationFlags (s : State) : Byte :=
  BitVec.ofNat 8 (s.station.state.code + (if s.clock.lock = .locked then 8 else 0))

/-- The days-to-turn field: byte 14 (R161). -/
def daysToTurn (s : State) (k : Nat) : Nat :=
  let days (t : Nat) : Nat := (t - s.clock.label) / 86400
  match s.warningFor k, s.offsetPending k with
  | none, none => 255
  | some w, none => days w.turn
  | none, some p => days p.turn
  | some w, some p => days (min w.turn p.turn)

/-- The value field: the lag or offset of the bound scale, 0 for S0 (R161). -/
def valueField (s : State) (k : Nat) : Int := if k = 0 then 0 else (s.scale k).value

/-- The label bytes of a record: zero when UNDATED (R161, R162). -/
def labelBytes : Option CalForm → List Byte
  | some f => be 2 f.year ++ be 2 f.day ++ be 1 f.hour ++ be 1 f.minute ++ be 1 f.second
  | none => be 7 0

/-- The 16 bytes of the record of a second (R161, R162). -/
def composeRecord (s : State) (n : Fin 8) (k : Nat) (d : Display) (realign : Bool) : List Byte :=
  let bs := be 1 0x24 ++ be 1 (n.val * 16 + k) ++ labelBytes d.form ++ be 3 (twos24 (valueField s k)) ++
    [transitionFlags s k d realign, stationFlags s] ++ be 1 (daysToTurn s k)
  bs ++ [checkByte bs]

/-- A record carries the realigned flag: bit 6 of byte 12 (R162). -/
def carriesRealigned (bytes : List Byte) : Bool :=
  match bytes[12]? with
  | some b => b.getLsbD 6
  | none => false

end Sys2Proof.Machine
end

