-- ==== Sys2Proof/Machine/OutputOps.lean ====
section
/-! DEFINITION. The Output Units: presentation (chapter 10), output seconds, pulses and records (chapter 9). -/

namespace Sys2Proof.Machine

/-! ### Presentation -/

/-- The change record of a scale in the report; none for S0 and for an undefined scale (R141). -/
def State.changeOf (s : State) (k : Nat) : Option ChangeRecord :=
  if 1 ≤ k ∧ (s.scale k).kind ≠ .undefined then (s.report.change[k - 1]?).getD none else none

/-- The change record of a scale shows a change taken. -/
def State.tookChange (s : State) (k : Nat) (c : ScaleChange) : Bool :=
  (s.changeOf k).any fun r => r.change == c && r.taken

/-- The applying entry of the family of a scale, as the report gives it (R141, R175). -/
def State.applyingFor (s : State) (k : Nat) : Option Record :=
  match s.family k with
  | some c => if 1 ≤ c then (s.report.applying[c - 1]?).getD none else none
  | none => none

/-- The smear period in ticks (R176). -/
def smearPeriod (add : Bool) (w : Nat) : Nat :=
  if add then Config.nominalSecond + Config.nominalSecond / w else Config.nominalSecond - Config.nominalSecond / w

/-- The leap for which a SMEAR output arms at the label just begun (R175). -/
def armingLeap (s : State) (k w : Nat) : Option SmearLeap :=
  match s.applyingFor k with
  | none => none
  | some r =>
    let lag := (s.scale ((s.family k).getD 0)).value
    match r.kind, r.turn with
    | .leapAdd, some t =>
      if s.clock.label + w + 1 = t ∧ lag < 255 then
        some { add := true, id := r.id, turn := t, period := smearPeriod true w }
      else none
    | .leapDrop, some t =>
      if s.clock.label + w = t ∧ -255 < lag then
        some { add := false, id := r.id, turn := t, period := smearPeriod false w }
      else none
    | _, _ => none

/-- The label at whose start a window ends (R178). -/
def SmearLeap.endLabel (l : SmearLeap) : Nat := if l.add then l.turn + 1 else l.turn

/-- The calendar form as the registry gives it, with the offset-change flag of R174 at a base boundary. -/
def plainDisplay (s : State) (k : Nat) (atBoundary : Bool) : Display where
  form := s.calendarForm k
  smearing := false
  held := false
  offsetChange := atBoundary && s.tookChange k .offsetTo

/-- HOLD shows the label of turn - 1 again, with the held flag, when INSERT_BEGIN was taken (R173). -/
def holds (s : State) (k : Nat) (atBoundary : Bool) : Bool := atBoundary && s.tookChange k .insertBegin

/-- The display of a held second (R173). -/
def heldDisplay (s : State) (k : Nat) (atBoundary : Bool) : Display :=
  { plainDisplay s k atBoundary with form := calendar (s.count k), held := true }

/-- The display of second `k` of an open window with first count `c` (R177). -/
def smearDisplay (k : Nat) (c : Int) : Display where
  form := calendar (c + k - 1)
  smearing := true
  held := false
  offsetChange := false

/-- The next period and the context of a window's second `k` that begins: BOUNDARY is written at second
W - 1 (R176). -/
def openSecond (o : Output) (w : Nat) (leap : SmearLeap) (k : Nat) (c : Int) : Output :=
  { o with smear := .opened leap k c, nextPeriod := if k + 1 = w then .boundary else o.nextPeriod }

/-- The presentation logic at an output-second start (R172 to R177): the output after it has set force
full, the next period and the smear context, and what the record shows. -/
def present (s : State) (b : Binding) (atBoundary : Bool) (o : Output) : Output × Display :=
  match b.presentation with
  | .step => ({ o with forceFull := false }, plainDisplay s b.scale atBoundary)
  | .hold =>
    if holds s b.scale atBoundary then ({ o with forceFull := true }, heldDisplay s b.scale atBoundary)
    else ({ o with forceFull := false }, plainDisplay s b.scale atBoundary)
  | .smear w =>
    let o' := { o with forceFull := false }
    match o.smear with
    | .armed leap => (openSecond o' w leap 1 (s.count b.scale), smearDisplay 1 (s.count b.scale))
    | .opened leap k c => (openSecond o' w leap (k + 1) c, smearDisplay (k + 1) c)
    | .absent =>
      match (if atBoundary then armingLeap s b.scale w else none) with
      | some leap =>
        ({ o' with smear := .armed leap, nextPeriod := .ticks leap.period }, plainDisplay s b.scale atBoundary)
      | none => (o', plainDisplay s b.scale atBoundary)

/-! ### The output second (R157) -/

/-- The next width and period are loaded and the second tick count restarts (R157, steps 2 and 3). -/
def Output.load (o : Output) : Output :=
  { o with curWidth := o.nextWidth, curPeriod := o.nextPeriod, tick := 0 }

/-- A pending release clears the latch (R157, step 1; R168). -/
def Output.release (o : Output) : Output :=
  if o.releasePending then { o with latch := Latch.clear, releasePending := false } else o

/-- SPn and TCn are driven for the second that begins, or held silent (R157, step 6; R159, R164, R167). -/
def Output.drive (o : Output) (bytes : List Byte) : Output :=
  if o.latch.set then { o with last := some bytes, sp := false }
  else
    { o with
      last := some bytes
      sp := o.forceFull || decide (0 < o.curWidth)
      underWay := match o.underWay with
        | none => some { bytes := bytes, twelfths := 0 }
        | some u => some u
      owed := match o.underWay with
        | none => o.owed
        | some _ => some bytes }

/-- An output second of output `n` begins (R157). -/
def startSecond (n : Fin 8) (atBoundary : Bool) (s : State) : State :=
  let o := s.outputs[n]
  match o.binding with
  | none => s
  | some b =>
    let t := if o.releasePending then raise (.quench n.val .released s.clock.label) s else s
    let p := present s b atBoundary o.release.load
    t.setOutput n (p.1.drive (composeRecord s n b.scale p.2 p.1.realign))

/-! ### Base boundaries as the outputs take them (R157, R178, R179) -/

/-- What a base boundary does to the smear window of an output before any second begins: at the window's
end boundary a window at index W is completed, one below W is cut (R178, R179). -/
def Output.closeWindow (o : Output) (label : Nat) : Output :=
  match o.smear, o.binding with
  | .opened leap k _, some { presentation := .smear w, .. } =>
    if label = leap.endLabel then
      if k = w then { o with smear := .absent, result := .completed leap.id }
      else { o with smear := .absent, result := .cut leap.id, nextPeriod := .boundary }
    else o
  | _, _ => o

/-- The presentation logic holds a base boundary: the window is open at index W and this is not its end
boundary (R178). -/
def Output.holdsBoundary (o : Output) (label : Nat) : Bool :=
  match o.smear, o.binding with
  | .opened leap k _, some { presentation := .smear w, .. } => k == w && label != leap.endLabel
  | _, _ => false

/-- A base boundary reaches a RUNNING output (R157, R178, R179). -/
def outputBoundary (s : State) (n : Fin 8) : State :=
  let o := s.outputs[n]
  if !o.running || o.holdsBoundary s.clock.label then s
  else
    let t := s.setOutput n (o.closeWindow s.clock.label)
    if o.curPeriod = .boundary then startSecond n true t else t

/-- A base boundary reaches the eight outputs, in ascending number (log entry 33). -/
def outputsBoundary (s : State) : State := (List.finRange 8).foldl outputBoundary s

/-- A label adoption sets realign pending on every RUNNING output (R163). -/
def Output.realigned (o : Output) : Output := if o.running then { o with realign := true } else o

/-! ### Ends of seconds, pulses and records -/

/-- The tick period of the output second under way has run out (R157). -/
def Output.secondDue (o : Output) : Bool :=
  o.running &&
  (match o.curPeriod with
   | .ticks p => decide (p ≤ o.tick)
   | .boundary => false)

/-- The pulse of an output has reached its width (R159). Where the next start falls at the same tick the
start comes first, and the width keeps SPn high throughout (log entry 32). -/
def Output.pulseDue (o : Output) (c : Clock) : Bool :=
  o.running && o.sp && !o.forceFull && decide (o.curWidth ≤ o.tick) && !o.secondDue &&
  !(o.curPeriod == .boundary && decide (Config.substituteAt ≤ c.tick))

/-- The record under way has been sent to its last stop bit (R164). -/
def Output.recordDue (o : Output) : Bool :=
  match o.underWay with
  | some u => decide (Config.recordSpan ≤ u.twelfths)
  | none => false

/-- The record under way ends: realign pending clears if it carried the flag (R163), and a record owed is
begun at once, from the end of the earlier one on (R164). -/
def Output.endRecord (o : Output) : Output :=
  match o.underWay with
  | none => o
  | some u =>
    { o with
      realign := if carriesRealigned u.bytes then false else o.realign
      underWay := o.owed.map fun bytes => { bytes := bytes, twelfths := u.twelfths - Config.recordSpan }
      owed := none }

/-- The number of characters of a record under way still to send (R155). -/
def UnderWay.charsLeft (u : UnderWay) : Nat := 16 - u.twelfths / (10 * Config.recordBit)

/-- The level of TCn: each character is a start bit, eight data bits, least significant first, and a stop
bit; TCn rests at mark (R162, R164). -/
def Output.tc (o : Output) : Bool :=
  match o.underWay with
  | none => true
  | some u =>
    let bit := u.twelfths / Config.recordBit
    match u.bytes[bit / 10]? with
    | none => true
    | some b => if bit % 10 = 0 then false else if bit % 10 = 9 then true else b.getLsbD (bit % 10 - 1)

end Sys2Proof.Machine
end

