-- ==== Sys2Proof/Machine/StationOps.lean ====
section
/-! DEFINITION. The Station Controller: the roster (R110 to R112), the evaluations (R113 to R117), adoption (R116), listening (R119), the beacon (R108), and the line reset (R122). -/

namespace Sys2Proof.Machine

/-! ### The roster -/

/-- A slot is replaced, and a change of its state raises PEER_CHANGE (R110). -/
def changeSlot (p : Nat) (new : Slot) (cause : PeerCause) (s : State) : State :=
  let old := s.slot p
  let t := s.setSlot p new
  if old.state = new.state then t else raise (.peerChange p old.state new.state cause) t

/-- The sender of a valid frame is reported (R111). -/
def reportSender (p : Nat) (s : State) : State :=
  let sl := s.slot p
  if sl.state = .absent ∨ sl.state = .silent then
    changeSlot p { sl with state := .present, silence := 0, record := none } .frame s
  else s

/-- The slot is in one of the states whose silence count rises (R112). -/
def Slot.heard (sl : Slot) : Bool := sl.state != .absent

/-- What a silence count that has reached a threshold makes of a slot: ABSENT at 8, with age 0 (log entry 38), SILENT
at 3 (R112). -/
def Slot.silenced (sl : Slot) : Slot :=
  if sl.state = .absent then sl
  else if 8 ≤ sl.silence then Slot.absent
  else if 3 ≤ sl.silence then { sl with state := .silent }
  else sl

/-- A silence count that has reached a threshold changes the slot's state (R112). -/
def silenceSlot (p : Nat) (s : State) : State := changeSlot p (s.slot p).silenced .silence s

/-- The silence count of one slot advances, that of a beacon taken just before this beacon time to 1 (R112, R124; log
entry 51). -/
def advanceSilence (s : State) (p : Nat) : State :=
  let sl := s.slot p
  if sl.heard then silenceSlot p (s.setSlot p { sl with silence := sl.silence + 1 }) else s

/-- The silence counts of the roster advance (R108, step 2). -/
def advanceSilences (s : State) : State := (List.range 16).foldl advanceSilence s

/-- The age of a slot's record rises to at most 255 (R110). -/
def Slot.older (sl : Slot) : Slot := if sl.record.isSome then { sl with age := min 255 (sl.age + 1) } else sl

/-! ### The evaluations (R113) -/

/-- The other side of an evaluation and the own side, self included, as station numbers (R113). -/
def sides (s : State) (takes other : Slot → Bool) : List Nat × List Nat :=
  (s.pins.stn :: s.stationsWhere (fun sl => sl.counted && takes sl && !other sl),
   s.stationsWhere (fun sl => sl.counted && takes sl && other sl))

/-- The lowest station number of a side; 16 for an empty side. -/
def lowest (l : List Nat) : Nat := l.foldl min 16

/-- An evaluation is LOST when the other side is larger, or as large and holds the lowest number (R113). -/
def evaluationLost (own other : List Nat) : Bool :=
  decide (own.length < other.length) || (own.length == other.length && decide (lowest other < lowest own))

/-- The sides of the plan evaluation. -/
def planSides (s : State) : List Nat × List Nat := sides s (fun _ => true) fun sl => sl.state == .mismatched

/-- The sides of the label evaluation. -/
def labelSides (s : State) : List Nat × List Nat := sides s (fun _ => true) fun sl => sl.state == .divergent

/-- A slot's beacon showed another shelf digest than the own one. -/
def Slot.disagrees (sl : Slot) : Bool := sl.record.any fun r => !r.agrees

/-- The sides of the discord evaluation, which counts PRESENT slots alone. -/
def discordSides (s : State) : List Nat × List Nat :=
  sides s (fun sl => sl.state == .present) fun sl => sl.disagrees

/-- The plan evaluation (R114). -/
def evaluatePlan (s : State) : State :=
  let d := planSides s
  if evaluationLost d.1 d.2 ∧ s.station.state ≠ .isolated then
    enterState .isolated (raise (.isolated s.planDigest d.1.length d.2.length) s)
  else s

/-- The offset of a slot's beacon record. -/
def Slot.offset (sl : Slot) : Int :=
  match sl.record with
  | some r => r.offset
  | none => 0

/-- The offset of the majority group: among the counted DIVERGENT slots, the offset that most of them show,
a tie going to the group with the lowest station number (R116). -/
def majorityOffset (s : State) : Int :=
  let group := s.stationsWhere fun sl => sl.counted && sl.state == .divergent
  let size (d : Int) : Nat := group.countP fun k => decide ((s.slot k).offset = d)
  (group.foldl (fun (best : Nat × Int) k =>
    let d := (s.slot k).offset
    if best.1 < size d then (size d, d) else best) (0, 0)).2

/-- The label evaluation can set the station adrift from these states (R115). -/
def StationState.mayDrift : StationState → Bool
  | .joining | .receiving | .active | .listening => true
  | _ => false

/-- Arming: an arrangement that is absent or WAITING becomes WAITING with the majority's offset (R116). -/
def armAdoption (s : State) : State :=
  if s.plan.adopt then
    match s.station.adoption with
    | .absent | .waiting _ => { s with station := { s.station with adoption := .waiting (majorityOffset s) } }
    | _ => s
  else s

/-- The label evaluation (R115), with the arming of an adoption when it leaves the station ADRIFT (R116). -/
def evaluateLabel (s : State) : State :=
  let d := labelSides s
  if evaluationLost d.1 d.2 then
    if s.station.state.mayDrift then
      armAdoption (enterState .adrift
        (raise (.adrift s.clock.label d.1.length d.2.length (majorityOffset s)) s))
    else if s.station.state = .adrift then armAdoption s
    else s
  else if s.station.state = .adrift then enterState .joining s
  else s

/-- A result appended to the discord history, which keeps the two most recent (R117). -/
def appendResult (history : List EvalResult) (r : EvalResult) : List EvalResult :=
  let l := history ++ [r]
  l.drop (l.length - 2)

/-- The discord evaluation (R117). -/
def evaluateDiscord (s : State) : State :=
  let d := discordSides s
  let r := if evaluationLost d.1 d.2 then EvalResult.lost else .won
  let t := { s with station := { s.station with history := appendResult s.station.history r } }
  if t.station.state = .active ∧ t.station.history = [.lost, .lost] then
    match t.stationsWhere fun sl => sl.counted && sl.activePeer && sl.disagrees with
    | p :: _ => { askRecital .discord p t with station := { t.station with history := [] } }
    | [] => t
  else t

/-! ### Listening (R118, R119) -/

/-- The end of listening: RECEIVING with a recital asked where an ACTIVE peer is heard, or founding (R119). -/
def endListening (s : State) : State :=
  match s.stationsWhere fun sl => sl.counted && sl.activePeer with
  | p :: _ => askRecital .joining p (enterState .receiving s)
  | [] => enterState s.attState s

/-- Listening ends where the station is JOINING and the listen count has reached 3. -/
def endListeningIfDue (s : State) : State :=
  if s.station.state = .joining ∧ 3 ≤ s.station.listen then endListening s else s

/-- One beacon time of listening (R108, step 6). -/
def advanceListening (s : State) : State :=
  if s.station.state = .joining then
    endListeningIfDue { s with station := { s.station with listen := s.station.listen + 1 } }
  else s

/-! ### The beacon (R108) -/

/-- The states in which a beacon is offered (R108, step 7). -/
def StationState.beacons : StationState → Bool
  | .joining | .receiving | .active | .adrift | .isolated => true
  | _ => false

/-- The BEACON as it would now be assembled (R64, R108). -/
def beaconFrame (s : State) : Frame :=
  newFrame .beacon FrameKind.beacon.plainClass
    (beaconBody s.clock.label s.station.state.code s.shelfDigest s.planDigest s.sending.isSome) none 0

/-- A BEACON is offered, unless an earlier one is still held (R108, step 7). -/
def offerBeacon (s : State) : State :=
  if s.station.state.beacons ∧ !s.line.queue.any (fun f => f.kind == .beacon) then offer (beaconFrame s) s else s

/-! ### Adoption (R116) -/

/-- A counting arrangement whose number is 0 asks the Base Clock to adopt its value (R10, R116). -/
def requestIfDue (s : State) : State :=
  match s.station.adoption with
  | .counting v 0 =>
    { s with
      clock := { s.clock with pendingLabel := some { value := v, origin := .adoption } }
      station := { s.station with adoption := .requested v } }
  | _ => s

/-- The remaining number of a counting arrangement falls by one at an own boundary (R116). -/
def advanceAdoption (s : State) : State :=
  match s.station.adoption with
  | .counting v (k + 1) => requestIfDue { s with station := { s.station with adoption := .counting v k } }
  | _ => s

/-- How a boundary came by its label: plainly, set by SET_BASE_LABEL, adopted, or with an adoption blocked.
`jump` is the new label less the one that it would otherwise have been (R8, R10, R29). -/
inductive LabelReport where
  | plain
  | set (jump : Int)
  | adopted (jump : Int)
  | blocked
  deriving DecidableEq, Repr

/-- A slot after an adopted jump of the own label (R116). -/
def Slot.jumped (sl : Slot) (jump : Int) : Slot :=
  match sl.record with
  | none => sl
  | some r =>
    let r' := { r with offset := r.offset - jump }
    if sl.state = .present ∨ sl.state = .divergent then
      { sl with record := some r', state := if r'.offset = 0 then .present else .divergent }
    else { sl with record := some r' }

/-- The station after its label was adopted: an ADRIFT station joins, a JOINING one listens afresh (R116). -/
def afterAdoption (s : State) : State :=
  match s.station.state with
  | .adrift => enterState .joining s
  | .joining => { s with station := { s.station with listen := 0 } }
  | _ => s

/-- The adoption arrangement removed. -/
def clearAdoption (s : State) : State := { s with station := { s.station with adoption := .absent } }

/-- The Station Controller takes the Base Clock's report of an adoption (R116). -/
def takeReport (rep : LabelReport) (s : State) : State :=
  match rep with
  | .adopted jump =>
    afterAdoption (clearAdoption
      ((List.range 16).foldl (fun t p => changeSlot p ((t.slot p).jumped jump) .adoption t) s))
  | .blocked => clearAdoption s
  | _ => s

/-! ### The beacon time (R108) -/

/-- The label is a multiple of B (R108). -/
def State.beaconTime (s : State) : Bool := s.clock.label % s.plan.b == 0

/-- Steps 2 to 7 of a beacon time, in their order (R108). -/
def beaconWork (s : State) : State :=
  offerBeacon (advanceListening (evaluateDiscord (evaluateLabel (evaluatePlan (advanceSilences s)))))

/-- The Station Controller's work at a boundary: the ages, the adoption report, the adoption count, and at
a beacon time the rest of R108 (R108, R110, R116). The count falls before the evaluations (log entry 23). -/
def stationWork (rep : LabelReport) (s : State) : State :=
  if s.station.state = .unconfigured then s
  else
    let t := advanceAdoption (takeReport rep { s with roster := s.roster.map Slot.older })
    if t.beaconTime then beaconWork t else t

/-! ### Received beacons (R109) -/

/-- The slot state that a beacon gives (R109). -/
def classify (planAgrees : Bool) (offset : Int) : SlotState :=
  if !planAgrees then .mismatched else if offset ≠ 0 then .divergent else .present

/-- The offset of a beacon's label: 0 when the labels agree, or b - s (R109). -/
def beaconOffset (c : Clock) (b : Nat) : Int :=
  if b = c.label ∨ (c.tick < Config.beaconGrace ∧ b + 1 = c.label) then 0 else (b : Int) - (c.label : Int)

/-- A WAITING arrangement meets a beacon that carries the majority's label (R116). -/
def meetBeacon (new : Slot) (label : Nat) (s : State) : State :=
  match s.station.adoption with
  | .waiting d =>
    if new.state = .divergent ∧ new.offset = d then
      requestIfDue { s with station :=
        { s.station with adoption := .counting (label + s.plan.b) (s.plan.b - 1) } }
    else s
  | _ => s

/-- The slot that a BEACON body gives its sender (R109); none where the body fails its test. -/
def beaconSlot (s : State) (body : List Byte) : Option Slot :=
  match StationState.ofBeaconCode (field body 5 1) with
  | none => none
  | some st =>
    if 1 < field body 10 1 then none
    else
      let b := field body 0 5
      let offset := beaconOffset s.clock b
      let digest : Word := BitVec.ofNat 16 (field body 6 2)
      let planDigest : Word := BitVec.ofNat 16 (field body 8 2)
      some
        { state := classify (planDigest == s.planDigest) offset
          silence := 0
          record := some
            { label := b, offset := offset, digest := digest, agrees := digest == s.shelfDigest,
              planDigest := planDigest, state := st, busy := field body 10 1 == 1 }
          age := 0 }

/-- A BEACON is taken (R109). -/
def takeBeacon (sender : Nat) (body : List Byte) (s : State) : State :=
  match beaconSlot s body with
  | none => raise (.rxError .formContent sender FrameKind.beacon.code body.length s.clock.label) s
  | some new => meetBeacon new (field body 0 5) (changeSlot sender new .beacon s)

/-! ### The line reset (R41, R80, R104, R122, R131, R139) -/

/-- The entries that a line reset leaves, with their marks: PROPOSED ones are purged, a RATIFY that was
queued is due (R41, R104). -/
def keptByLineReset (es : List Entry) : List Entry :=
  (es.filter Entry.settled).map fun e =>
    if e.mark = .ratifyQueued then { e with mark := .ratifyDue } else e

/-- The table after a line reset: the version rises once where an entry was purged (R41; log entry 19). -/
def Table.lineReset (t : Table) : Table :=
  { t with
    entries := keptByLineReset t.entries
    version := if t.entries.any (fun e => !e.settled) then t.version + 1 else t.version }

/-- The line after a line reset (R80). Leaving TAKING begins a bit time (log entry 42). -/
def Line.lineReset (l : Line) : Line :=
  let queue := (l.queue.filter fun f => f.inTx).map fun f => { f with removal := .silent }
  match l.state with
  | .detached => l
  | .taking => { l with queue := queue, state := .hunting, quiet := 0, bits := [], bitPos := 0, phase := 0 }
  | _ => { l with queue := queue }

/-- The Station Controller's items after a line reset (R122). -/
def Station.lineReset (st : Station) : Station :=
  { st with history := [], adoption := st.adoption.dropped, rejoin := true }

/-- The station state after a line reset: JOINING with listen count 0, but ISOLATED stays (R122). -/
def joinAfterReset (s : State) : State :=
  match s.station.state with
  | .isolated => s
  | _ => let t := enterState .joining s; { t with station := { t.station with listen := 0 } }

/-- A line reset at every unit that it reaches; in UNCONFIGURED it has no effect (R122). -/
def lineReset (source : ResetSource) (s : State) : State :=
  if s.station.state = .unconfigured then s
  else
    let purged := s.table.entries.countP fun e => !e.settled
    raise (.lineReset source purged)
      (joinAfterReset
        { s with
          table := s.table.lineReset
          line := s.line.lineReset
          sending := none
          receiving := none
          roster := Vector.replicate 16 Slot.absent
          station := s.station.lineReset })

end Sys2Proof.Machine
end

