-- ==== Sys2Proof/Machine/BoundaryOps.lean ====
section
/-! DEFINITION. A base-second boundary: the label it takes (R8 to R10), the windows it moves (R29), and the work of the units at it. -/

namespace Sys2Proof.Machine

/-! ### The adoption test (R10) -/

/-- An entry blocks the adoption of a value (R10). Where entries move to APPLYING before the test at this
boundary, a RATIFIED entry whose turn - H has come by the label otherwise taken counts as APPLYING (R154). An entry
in APPLYING blocks in either order, one that this boundary completes too (log entry 52). -/
def blocks (h value otherwise : Nat) (passBeforeTest : Bool) (e : Entry) : Bool :=
  e.state == .applying ||
  (e.state == .ratified &&
    e.turn.any fun t => decide (t ≤ value + h) || (passBeforeTest && decide (t ≤ otherwise + h)))

/-- The identifiers of the entries that block an adoption. -/
def State.blockers (s : State) (value otherwise : Nat) (passBeforeTest : Bool) : List Ident :=
  s.idsWhere (blocks s.plan.h value otherwise passBeforeTest)

/-! ### The label (R8) -/

/-- The label that a boundary takes without a pending label (R8). -/
def Clock.otherwise (c : Clock) : Nat := (c.label + 1) % labelSpan

/-- The label taken, and no label pending. -/
def State.withLabel (s : State) (v : Nat) : State :=
  { s with clock := { s.clock with label := v, pendingLabel := none } }

/-- A pending label at a boundary takes the label's place, where an adoption passes its test; a test that
fails is reported with ADOPTION_BLOCKED (R8, R10). Of several blocking entries the one named is a free
value (log entry 9). -/
def takeLabel (passBeforeTest : Bool) (s : State) : LabelReport × State :=
  let o := s.clock.otherwise
  match s.clock.pendingLabel with
  | none => (.plain, s.withLabel o)
  | some { value := v, origin := .setting } => (.set ((v : Int) - o), s.withLabel v)
  | some { value := v, origin := .adoption } =>
    match choose s.free (s.blockers v o passBeforeTest) with
    | none => (.adopted (((v % labelSpan : Nat) : Int) - o), s.withLabel (v % labelSpan))
    | some id => (.blocked, raise (.adoptionBlocked v id) (s.withLabel o).drawn)

/-- The jump of a label: the label taken less the one otherwise taken. -/
def LabelReport.jump : LabelReport → Int
  | .set j => j
  | .adopted j => j
  | _ => 0

/-- The window of a PROPOSED entry moved by a jump (R29). -/
def Entry.moveWindow (j : Int) (e : Entry) : Entry :=
  if e.state = .proposed then { e with window := e.window.map fun w => ((w : Int) + j).toNat } else e

/-- Every window is moved by the jump of the label; a jump that moves at least one window raises the
version by one (R29). -/
def moveWindows (j : Int) (s : State) : State :=
  if j ≠ 0 ∧ s.table.entries.any (fun e => e.state == .proposed && e.window.isSome) = true then
    s.setEntries (s.table.entries.map (Entry.moveWindow j))
  else s

/-! ### The work of the units -/

/-- The stages in the order of a list: each listed stage at its first place, and the missing ones after
them in the order of `Stage.all`. -/
def completeOrder (stages : List Stage) : List Stage :=
  (stages ++ Stage.all).foldl (fun acc x => if acc.contains x then acc else acc ++ [x]) []

/-- A recital frame that is DUE is assembled afresh and offered (R130). -/
def reofferRecital (s : State) : State :=
  match s.sending with
  | some c => if c.offer = .due then offerRecitalFrame s else s
  | none => s

/-- The wait count of a receiving context reaches 4 and its attempt fails TIMEOUT (R134). -/
def timeoutIfDue (s : State) : State :=
  match s.receiving with
  | some c => if 4 ≤ c.wait then failAttempt .timeout s else s
  | none => s

/-- The receiving context at an own beacon time: the wait count rises, the attempt may fail TIMEOUT, and
a RECITE_REQ that is DUE is offered again while no source has been taken (R126, R134). The timeout comes first, so
that an attempt that fails offers nothing more (log entry 50). -/
def receiveWork (s : State) : State :=
  match s.receiving with
  | none => s
  | some c =>
    if s.beaconTime ∧ s.station.state ≠ .unconfigured then
      if 4 ≤ c.wait + 1 then failAttempt .timeout { s with receiving := some { c with wait := c.wait + 1 } }
      else
        let t := { s with receiving := some { c with wait := c.wait + 1 } }
        if c.req = .due ∧ c.source = none then offerRequest t else t
    else s

/-- One stage of a boundary. -/
def runStage (rep : LabelReport) (st : Stage) (s : State) : State :=
  match st with
  | .apply => applyPass s
  | .expiry => expireWindows s
  | .station => stationWork rep s
  | .retest => retestQuorum s
  | .ratifyOffers => reofferRatify s
  | .proposeOffers => reofferPropose s
  | .recitalSend => reofferRecital s
  | .recitalReceive => receiveWork s

/-- The stages of a boundary in their order. -/
def runStages (ord : BoundaryOrder) (rep : LabelReport) (s : State) : State :=
  (completeOrder ord.stages).foldl (fun t st => runStage rep st t) s

/-- A label adoption sets realign pending on every RUNNING output (R163). -/
def realignIfAdopted (rep : LabelReport) (s : State) : State :=
  match rep with
  | .adopted _ => { s with outputs := s.outputs.map Output.realigned }
  | _ => s

/-- A boundary, once the Base Clock's tick count and lock have been set: the label, the windows, the work
of the units, and the outputs, whose records show the second that begins (R8, R157). -/
def boundary (ord : BoundaryOrder) (s : State) : State :=
  let l := takeLabel ord.passBeforeTest s
  outputsBoundary (realignIfAdopted l.1 (runStages ord l.1 (moveWindows l.1.jump l.2)))

/-! ### The Base Clock at a boundary and at an edge (R2 to R7) -/

/-- The clock at an accepted edge of a PHASED station: the run rises to at most 4, and at 4 the lock state
is LOCKED (R2, R5). -/
def Clock.accept (c : Clock) : Clock :=
  { c with
    tick := 0
    run := min 4 (c.run + 1)
    lock := if 4 ≤ c.run + 1 then .locked else c.lock
    capRun := 0 }

/-- The clock at the first edge of an UNPHASED station (R6). -/
def Clock.phase (c : Clock) : Clock := { c with tick := 0, run := 1, phased := true, capRun := 0 }

/-- The clock at a substituted boundary (R4). -/
def Clock.substitute (c : Clock) : Clock := { c with tick := 0, lock := .free, run := 0 }

/-- The elapsed distance of the capture record lies within the acceptance window (R7). -/
def Clock.steady (c : Clock) : Bool :=
  decide (Config.acceptFrom ≤ c.capElapsed ∧ c.capElapsed ≤ Config.substituteAt)

/-- The capture run after a spurious edge taken in FREE (R7). -/
def Clock.nextCapRun (c : Clock) : Nat := if c.capRun ≠ 0 ∧ c.steady = true then c.capRun + 1 else 1

/-- The clock at a spurious edge in FREE that makes no boundary (R3, R7). -/
def Clock.capture (c : Clock) : Clock := { c with run := 0, capRun := c.nextCapRun, capElapsed := 0 }

/-- The clock at a recaptured boundary (R7). -/
def Clock.recapture (c : Clock) : Clock := { c with tick := 0, run := 1, capRun := 0, capElapsed := 0 }

/-- The clock replaced. -/
def State.setClock (s : State) (c : Clock) : State := { s with clock := c }

/-- A spurious edge (R3, R7). In LOCKED the elapsed distance of the capture record runs on (log entry 46). A
recaptured boundary raises one SECIN_SPURIOUS, marked RECAPTURED, with the label and tick count at which the edge
arrived (log entry 17). -/
def spuriousEdge (ord : BoundaryOrder) (s : State) : State :=
  let c := s.clock
  match c.lock with
  | .locked => raise (.secinSpurious c.label c.tick false) s
  | .free =>
    if 4 ≤ c.nextCapRun then
      raise (.secinSpurious c.label c.tick true) (boundary ord (s.setClock c.recapture))
    else raise (.secinSpurious c.label c.tick false) (s.setClock c.capture)

/-- A SECIN rising edge (R2, R3, R6, R7). An edge beyond the acceptance window is accepted, since the
substituted boundary that is due has not been taken (log entry 18). -/
def secinEdge (ord : BoundaryOrder) (s : State) : State :=
  if s.clock.phased then
    if s.clock.tick < Config.acceptFrom then spuriousEdge ord s
    else boundary ord (s.setClock s.clock.accept)
  else boundary ord (s.setClock s.clock.phase)

/-- A substituted boundary, which is made once the tick count has reached 10,000,100 (R4). -/
def substitutedBoundary (ord : BoundaryOrder) (s : State) : State :=
  if Config.substituteAt ≤ s.clock.tick then
    let t := boundary ord (s.setClock s.clock.substitute)
    raise (.secinLost t.clock.label) t
  else s

end Sys2Proof.Machine
end

