-- ==== Sys2Proof/Machine/LineOps.lean ====
section
/-! DEFINITION. The Line Interface at work: synchronisation (R66), beginning and sending frames (R69 to R73), clashes (R72, R74, R75), and the receive checks (R65, R67). -/

namespace Sys2Proof.Machine

/-- The line part replaced. -/
def State.setLine (s : State) (l : Line) : State := { s with line := l }

/-- The line becomes IDLE with an idle count (R65, R66, R73). The bit times counted from then on begin at this
step (log entry 42). -/
def Line.toIdle (l : Line) (idle : Nat) : Line :=
  { l with state := .idle, idle := idle, bits := [], bitPos := 0, phase := 0 }

/-- The line becomes HUNTING with a quiet count (R66). The bit times counted from then on begin at this step (log
entry 42). -/
def Line.toHunting (l : Line) (quiet : Nat) : Line :=
  { l with state := .hunting, quiet := quiet, bits := [], bitPos := 0, phase := 0 }

/-- The line becomes TAKING with the bits read so far of the frame (R65, R72). The bit time of the next bit begins
at this step (log entry 42). -/
def Line.toTaking (l : Line) (bits : List Bool) : Line :=
  { l with state := .taking, bits := bits, bitPos := 0, phase := 0 }

/-- Synchronisation: in HUNTING, a quiet count of 11 gives IDLE with idle count 8 (R66). -/
def synchronise (s : State) : State :=
  if s.line.state = .hunting ∧ 11 ≤ s.line.quiet then s.setLine (s.line.toIdle 8) else s

/-! ### Beginning (R69, R70) -/

/-- The gap of a frame of class `c` at station `stn` in bit times (R69). -/
def gap (c stn : Nat) : Nat := 8 + 16 * (7 - c) + stn

/-- The idle count has reached the gap of a frame (R69). -/
def State.gapReached (s : State) (f : Frame) : Bool := decide (gap f.cls s.pins.stn ≤ s.line.idle)

/-- A frame that would be begun but whose kind is not permitted (R70). -/
def State.headPurged (s : State) (f : Frame) : Bool :=
  s.gapReached f && !kindPermitted s.station.state f.kind

/-- The head frame is begun once its gap is reached: SENDING, in transmission, at bit 1 (R69). -/
def beginHead (s : State) : State :=
  match s.line.queue with
  | [] => s
  | f :: fs =>
    if s.gapReached f then
      s.setLine { s.line with state := .sending, bitPos := 1, phase := 0, queue := { f with inTx := true } :: fs }
    else s

/-- In IDLE, head frames whose kind is not permitted are removed as their gap is reached, their units told
PURGED, and the frame then at the head is begun once its gap is reached (R69, R70). -/
def frameBegin (s : State) : State :=
  if s.line.state = .idle then
    beginHead ((s.line.queue.takeWhile s.headPurged).foldl reportPurged
      (s.setQueue (s.line.queue.dropWhile s.headPurged)))
  else s

/-- Another station's start mark is read in IDLE: the line is TAKING (R65, R71). -/
def deferTo (s : State) : State :=
  if s.line.state = .idle then s.setLine (s.line.toTaking [false]) else s

/-! ### The frame in transmission -/

/-- The frame in transmission. -/
def State.inTx (s : State) : Option Frame := s.line.queue.find? fun f => f.inTx

/-- The queue without the frame in transmission. -/
def dropInTx (q : List Frame) : List Frame := q.eraseP fun f => f.inTx

/-- The frame in transmission changed. -/
def updateInTx (g : Frame → Frame) (q : List Frame) : List Frame := q.map fun f => if f.inTx then g f else f

/-- The unit that queued a frame is told SENT (R73, R81, R126, R129, R130). -/
def reportSent (s : State) (f : Frame) : State :=
  match f.kind, f.ident with
  | .propose, some id => s.moveMark id .proposeQueued .none
  | .ratify, some id => s.moveMark id .ratifyQueued .none
  | .reciteReq, _ => setRequest f.serial .sent s
  | .recital, _ => if ofSending f.serial s then recitalFrameSent s else s
  | .scaleState, _ => if ofSending f.serial s then recitalEnded s else s
  | _, _ => s

/-- The unit that queued a frame is told ABANDONED (R75, R81, R126, R130). -/
def reportAbandoned (s : State) (f : Frame) : State :=
  match f.kind, f.ident with
  | .propose, some id => s.moveMark id .proposeQueued .proposeDue
  | .ratify, some id => s.moveMark id .ratifyQueued .ratifyDue
  | .reciteReq, _ => setRequest f.serial .due s
  | .recital, _ => if ofSending f.serial s then recitalOfferFailed s else s
  | .scaleState, _ => if ofSending f.serial s then recitalOfferFailed s else s
  | _, _ => s

/-- A report to the unit that queued a frame, which a frame removed by a line reset does not make (R80). -/
def unlessSilent (report : State → Frame → State) (s : State) (f : Frame) : State :=
  match f.removal with
  | .silent => s
  | _ => report s f

/-- The frame in transmission has been read back to the end of its end mark: it is removed, its unit told
SENT, and the line is IDLE with idle count 0 (R73). -/
def frameSent (s : State) : State :=
  match s.line.state, s.inTx with
  | .sending, some f =>
    if frameLength f < s.line.bitPos then
      unlessSilent reportSent ((s.setLine (s.line.toIdle 0)).setQueue (dropInTx s.line.queue)) f
    else s
  | _, _ => s

/-! ### Clashes (R72, R74, R75) -/

/-- The bit of the frame in transmission that is now being sent: true where CLD is released. -/
def sentBit (s : State) (f : Frame) : Bool := ((frameBits s.pins.stn f)[s.line.bitPos - 1]?).getD true

/-- The level that this station leaves on CLD, true for released: it drives the line for each 0 bit in SENDING and
releases it in every other line state (R59, R60). -/
def State.cld (s : State) : Bool :=
  match s.line.state, s.inTx with
  | .sending, some f => sentBit s f
  | _, _ => true

/-- The kind of the mismatch in the bit time under way (R72). -/
def mismatchOf (s : State) (f : Frame) : Mismatch :=
  if sentBit s f then .dominantWhereReleased else .recessiveWhereDriven

/-- The line after a mismatch (R72): a dominant bit before the end mark leaves another station's frame to
take, every other mismatch sends the interface to HUNTING. -/
def lineAfterClash (s : State) (f : Frame) : Line :=
  if sentBit s f ∧ s.line.bitPos + 3 ≤ frameLength f then
    s.line.toTaking ((frameBits s.pins.stn f).take (s.line.bitPos - 1) ++ [false])
  else s.line.toHunting 0

/-- A frame after a mismatch: one more clash, not in transmission (R72, R74). -/
def Frame.clashed (f : Frame) (m : Mismatch) (pos : Nat) : Frame :=
  { f with clash := f.clash + 1, inTx := false, lastMismatch := some (m, pos) }

/-- A frame is abandoned: its unit is told ABANDONED and LINE_FAULT is raised (R75). -/
def abandonFrame (f : Frame) (s : State) : State :=
  raise (.lineFault f.kind f.cls f.ident f.lastMismatch) (reportAbandoned s f)

/-- The read-back mismatch of the bit time under way (R72). A frame marked for removal is removed and its
unit told PURGED, at its eighth clash too (log entry 37). -/
def clashNow (s : State) : State :=
  match s.line.state, s.inTx with
  | .sending, some f =>
    if s.line.bitPos ≤ frameLength f then
      let g := f.clashed (mismatchOf s f) s.line.bitPos
      let t := s.setLine (lineAfterClash s f)
      match f.removal with
      | .silent => t.setQueue (dropInTx s.line.queue)
      | .marked => reportPurged (t.setQueue (dropInTx s.line.queue)) f
      | .none =>
        if 8 ≤ g.clash then abandonFrame g (t.setQueue (dropInTx s.line.queue))
        else t.setQueue (updateInTx (fun x => x.clashed (mismatchOf s f) s.line.bitPos) s.line.queue)
    else s
  | _, _ => s

/-- A held frame whose clash count has reached 8 is abandoned (R75). -/
def abandonStanding (s : State) : State :=
  match s.line.queue.find? fun f => !f.inTx && decide (8 ≤ f.clash) with
  | some f => abandonFrame f (s.setQueue (s.line.queue.eraseP fun f => !f.inTx && decide (8 ≤ f.clash)))
  | none => s

/-- The frame in transmission has clashed seven times, so that a mismatch brings its count to 8. -/
def State.eighthNext (s : State) : Bool := s.inTx.any fun f => f.clash == 7

/-- Abandonment (R75): of a frame that stands at a clash count of 8, or by the mismatch, now read, that
brings the count of the frame in transmission to 8 (log entry 2). -/
def abandonNow (s : State) : State :=
  if s.line.queue.any (fun f => !f.inTx && decide (8 ≤ f.clash)) then abandonStanding s
  else if s.eighthNext then clashNow s
  else s

/-! ### The receive checks (R65, R67) -/

/-- The value of the `n` bits that begin at place `i` of a frame, counted from 0, most significant first. -/
def bitField (bits : List Bool) (i n : Nat) : Nat :=
  ((bits.drop i).take n).foldl (fun v b => 2 * v + b.toNat) 0

/-- The body length that the length field gives, any of 0 to 31 (R61, R65). -/
def takenLength (bits : List Bool) : Nat := bitField bits 12 5

/-- The bits of the end mark read so far: those after the start mark, the header, the body and the check. -/
def endMarkBits (bits : List Bool) : List Bool := bits.drop (33 + 8 * takenLength bits)

/-- The frame that the bits read make, once reading has ended: at the end of a whole end mark, or at a dominant
bit within it (R65). -/
def readFrame (bits : List Bool) : Option RawFrame :=
  if 17 ≤ bits.length ∧ (3 ≤ (endMarkBits bits).length ∨ false ∈ endMarkBits bits) then
    let l := takenLength bits
    some
      { cls := BitVec.ofNat 3 (bitField bits 1 3), sender := BitVec.ofNat 4 (bitField bits 4 4),
        kind := BitVec.ofNat 4 (bitField bits 8 4), length := BitVec.ofNat 5 l,
        body := (List.range l).map fun i => BitVec.ofNat 8 (bitField bits (17 + 8 * i) 8),
        check := BitVec.ofNat 16 (bitField bits (17 + 8 * l) 16),
        endMark := !(endMarkBits bits).contains false }
  else none

/-- The ends that a frame may have been read to: three recessive bits, or a dominant bit within them (R65). -/
def endMarks (whole : Bool) : List (List Bool) :=
  if whole then [[true, true, true]] else [[false], [true, false], [true, true, false]]

/-- The bits read so far are the first bits of a frame. -/
def beginsWith (f : RawFrame) (bits : List Bool) : Bool :=
  (endMarks f.endMark).any fun e => bits.isPrefixOf (fieldBits f ++ e)

/-- A frame may be read to its end here: in TAKING where it goes on from the bits read so far, or in IDLE when its
start mark was given no command of its own (R65; log entry 3). -/
def State.hears (s : State) (f : RawFrame) : Bool :=
  match s.line.state with
  | .idle => true
  | .taking => beginsWith f s.line.bits
  | _ => false

/-- Tests 4 and 5 of R67. -/
def senderFault (s : State) (sender : Nat) : Option RxCause :=
  if sender = s.pins.stn then some .ownNumber
  else if s.plan.n ≤ sender then some .senderRange
  else none

/-- The line after a frame was discarded for a cause (R65 to R67). -/
def Line.afterFault (l : Line) (cause : RxCause) (endMark : Bool) : Line :=
  match cause with
  | .length | .check => l.toHunting (if endMark then 3 else 0)
  | .endMark => l.toHunting 0
  | _ => l.toIdle 0

/-- A frame is discarded with RX_ERROR (R67). -/
def discardFrame (cause : RxCause) (endMark : Bool) (sender kind length : Nat) (s : State) : State :=
  raise (.rxError cause sender kind length s.clock.label) (s.setLine (s.line.afterFault cause endMark))

/-- The first failing test of R67 for a frame given by its kind, sender and body, whose class, length and
check fields are those of R61 to R63 (log entry 15). -/
def typedFault (s : State) (k : FrameKind) (sender : Nat) (body : List Byte) : Option RxCause :=
  if 28 < body.length then some .length
  else
    match senderFault s sender with
    | some c => some c
    | none => if lengthPermitted k body then none else some .form

/-- Test 6 of R67: the kind code, the class field and the body length. -/
def rawForm (f : RawFrame) : Option FrameKind :=
  match FrameKind.ofCode f.kind.toNat with
  | none => none
  | some k => if f.cls.toNat + frameClass k f.body = 7 ∧ lengthPermitted k f.body = true then some k else none

/-- The first failing test of R67 for a frame as read, or its kind. -/
def rawFault (s : State) (f : RawFrame) : Except RxCause FrameKind :=
  if 28 < f.length.toNat then .error .length
  else if frameCheck f.cls f.sender f.kind f.length f.body ≠ f.check then .error .check
  else if !f.endMark then .error .endMark
  else
    match senderFault s f.sender.toNat with
    | some c => .error c
    | none =>
      match rawForm f with
      | none => .error .form
      | some k => .ok k

end Sys2Proof.Machine
end

