-- ==== Sys2Proof/Machine/FrameOps.lean ====
section
/-! DEFINITION. What the units do with a valid frame (R68): the Agreement Engine (R82, R86 to R95) and the Recital Unit (R127). -/

namespace Sys2Proof.Machine

/-! ### Admission (R82) -/

/-- The states in which a PROPOSE is screened (R82). -/
def StationState.screens : StationState → Bool
  | .active | .receiving | .listening => true
  | _ => false

/-- The states in which an ENDORSE, OBJECT or RATIFY is taken (R82). -/
def StationState.takes : StationState → Bool
  | .unconfigured | .isolated => false
  | _ => true

/-- RX_ERROR with the cause a unit gives for the contents of a frame (R86, R92, R94, R127). -/
def contentError (cause : RxCause) (k : FrameKind) (sender : Nat) (body : List Byte) (s : State) : State :=
  raise (.rxError cause sender k.code body.length s.clock.label) s

/-! ### PROPOSE (R86, R87) -/

/-- The ENDORSE frame of an identifier. -/
def endorseFrame (id : Ident) : Frame :=
  newFrame .endorse FrameKind.endorse.plainClass (endorseBody id) (some id) 0

/-- The OBJECT frame of an identifier with a reason. -/
def objectFrame (id : Ident) (r : Reason) : Frame :=
  newFrame .object FrameKind.object.plainClass (objectBody id r) (some id) 0

/-- A proposal from the line is rejected: an ACTIVE station offers an OBJECT (R87). -/
def rejectProposal (id : Ident) (r : Reason) (s : State) : State :=
  if s.station.state = .active then offer (objectFrame id r) s else s

/-- FLAGGED follows STORED where the flags list is not empty (R57). -/
def raiseFlagged (id : Ident) (flags : List CfgRule) (s : State) : State :=
  if flags = [] then s else raise (.flagged id flags) s

/-- The endorser set with which a proposal from the line is stored (R86). -/
def receivedEndorsers (s : State) (proposer : Nat) : StationSet :=
  if s.station.state = .active then addStation (addStation noStations proposer) s.pins.stn
  else addStation noStations proposer

/-- An accepted proposal from the line is stored; FLAGGED follows, then an ACTIVE station's ENDORSE (R86). -/
def storeProposal (r : Record) (flags : List CfgRule) (s : State) : State :=
  let t := raiseFlagged r.id flags
    (storeEntry r .proposed (receivedEndorsers s r.id.proposer) flags
      (some (s.clock.label + s.plan.e + 2)) .none .line s)
  if s.station.state = .active then offer (endorseFrame r.id) t else t

/-- A verdict is on its way to the Agreement Engine (R58, R88). -/
def State.awaiting (s : State) (v : PendingVerdict) : State := { s with verdicts := s.verdicts ++ [v] }

/-- The verdict on a proposal from the line reaches the Agreement Engine, which acts on it in the station state
that then holds: in a state that screens no proposals it is dropped (R86 to R88). -/
def takeVerdict (r : Record) (v : Verdict) (s : State) : State :=
  if !s.station.state.screens then s
  else
    match v with
    | .reject reason => rejectProposal r.id reason s
    | .accept flags =>
      match s.storeRefusal r with
      | some reason => rejectProposal r.id reason s
      | none => storeProposal r flags s

/-- A well-formed proposal from the line is screened, and its verdict taken at once or later (R86, R88; log entry
27). -/
def judgeProposal (w : VerdictTime) (r : Record) (s : State) : State :=
  match w with
  | .atOnce | .stored => takeVerdict r (screen s r) s
  | .later => s.awaiting (.line r (screen s r))

/-- A PROPOSE frame delivered to the Agreement Engine (R82, R86). -/
def takePropose (w : VerdictTime) (sender : Nat) (body : List Byte) (s : State) : State :=
  if !s.station.state.screens || s.disagreeing sender then s
  else
    match proposeRecord sender body with
    | none => contentError .formContent .propose sender body s
    | some r => if r.fieldsOk s.plan.n then judgeProposal w r s else contentError .formContent .propose sender body s

/-! ### ENDORSE (R89) and OBJECT (R92) -/

/-- An ENDORSE frame delivered to the Agreement Engine (R82, R89). -/
def takeEndorse (sender : Nat) (body : List Byte) (s : State) : State :=
  if !s.station.state.takes || s.disagreeing sender then s
  else
    match s.find (identAt body 0) with
    | some e => if e.state = .proposed then addEndorsers e.id (addStation noStations sender) s else s
    | none => s

/-- An OBJECT frame delivered to the Agreement Engine (R82, R92). -/
def takeObject (sender : Nat) (body : List Byte) (s : State) : State :=
  if !s.station.state.takes || s.disagreeing sender then s
  else
    match Reason.ofCode (field body 3 1) with
    | none => contentError .formContent .object sender body s
    | some r =>
      match s.find (identAt body 0) with
      | none => s
      | some e =>
        if e.state = .proposed then freeEntry e.id (.refused e.id r sender) s
        else raise (.lateObjection e.id sender r) s

/-! ### RATIFY (R94, R95) -/

/-- The first failing test of R94 on a RATIFY frame. -/
def ratifyFault (s : State) (sender : Nat) (id : Ident) (set : StationSet) : Option RxCause :=
  if sender ≠ id.proposer then some .notProposer
  else if !stationsBelow s.plan.n set then some .setRange
  else if countStations set < s.quorum then some .shortSet
  else if !hasStation set id.proposer then some .setRange
  else none

/-- A ratified identifier that is not held: MISSED_ENTRY, and at an ACTIVE station a recital asked of the
proposer (R95). -/
def missEntry (id : Ident) (set : StationSet) (s : State) : State :=
  let t := raise (.missedEntry id set s.clock.label) s
  if s.station.state = .active then askRecital .missedEntry id.proposer t else t

/-- A RATIFY frame delivered to the Agreement Engine (R82, R94). -/
def takeRatify (sender : Nat) (body : List Byte) (s : State) : State :=
  if !s.station.state.takes || s.disagreeing sender then s
  else
    let id := identAt body 0
    let set : StationSet := BitVec.ofNat 16 (field body 3 2)
    match ratifyFault s sender id set with
    | some cause => contentError cause .ratify sender body s
    | none =>
      match s.find id with
      | none => missEntry id set s
      | some e => if e.state = .proposed then ratifyClaim e set s else s

/-! ### RECITE_REQ (R127) -/

/-- A requester is placed: a recital is started for it, or it joins the deferred audience (R127). -/
def placeRequester (p : Nat) (s : State) : State :=
  match s.sending with
  | none => startRecital (addStation noStations p) s
  | some c =>
    { s with sending := some { c with audience := dropStation c.audience p, deferred := addStation c.deferred p } }

/-- A RECITE_REQ frame delivered to the Recital Unit (R127). -/
def takeReciteReq (sender : Nat) (body : List Byte) (s : State) : State :=
  let target := field body 0 1
  if s.plan.n ≤ target then contentError .formContent .reciteReq sender body s
  else if target ≠ s.pins.stn ∨ s.station.state ≠ .active ∨ s.disagreeing sender = true then s
  else placeRequester sender s

/-! ### Delivery (R68) -/

/-- A valid frame is delivered to the unit that serves its kind (R68); `w` is when the verdict on a PROPOSE is
taken. -/
def deliver (w : VerdictTime) (k : FrameKind) (sender : Nat) (body : List Byte) : State → State :=
  match k with
  | .beacon => takeBeacon sender body
  | .propose => takePropose w sender body
  | .endorse => takeEndorse sender body
  | .object => takeObject sender body
  | .ratify => takeRatify sender body
  | .reciteReq => takeReciteReq sender body
  | .recital => takeRecitalFrame .recital sender body
  | .scaleState => takeRecitalFrame .scaleState sender body

/-- A valid frame is handed on: the line is IDLE, the sender is reported, and the frame is delivered (R65,
R68). The sender report of a slot that is SILENT or ABSENT and the classification of a BEACON by another state than
PRESENT raise a PEER_CHANGE each (R109, R111; log entry 43). -/
def handOn (w : VerdictTime) (k : FrameKind) (sender : Nat) (body : List Byte) (s : State) : State :=
  deliver w k sender body (reportSender sender (s.setLine (s.line.toIdle 0)))

/-- A frame of a known kind is read to its end (R65 to R68). -/
def receiveTyped (w : VerdictTime) (k : FrameKind) (sender : Nat) (body : List Byte) (s : State) : State :=
  if s.hears (soundFrame (frameClass k body) sender k body) then
    match typedFault s k sender body with
    | some cause => discardFrame cause true sender k.code body.length s
    | none => handOn w k sender body s
  else s

/-- A frame as read is tested and discarded, or handed on where it passes every test (R67, R68). -/
def receiveRaw (f : RawFrame) (s : State) : State :=
  if s.hears f then
    match rawFault s f with
    | .error cause => discardFrame cause f.endMark f.sender.toNat f.kind.toNat f.length.toNat s
    | .ok k => handOn .atOnce k f.sender.toNat f.body s
  else s

end Sys2Proof.Machine
end

