-- ==== Sys2Proof/Machine/PortOps.lean ====
section
/-! DEFINITION. The Request Port's shared operations: judging a request (R184), answering it (R183), the ranges of arguments (R189), the START checks (R187), local proposals (R83) and the views that reads return. -/

namespace Sys2Proof.Machine

/-! ### Requests and answers (R183, R184, R188) -/

/-- The body length of a request code (R188). -/
def requestBody : Nat → Option Nat
  | 0 => some 0
  | 1 => some 26
  | 2 => some 7
  | 3 => some 10
  | 4 => some 3
  | 5 => some 5
  | 6 => some 2
  | 7 => some 0
  | 16 => some 7
  | 17 => some 9
  | 18 => some 2
  | 19 => some 3
  | 32 => some 0
  | 33 => some 1
  | 34 => some 1
  | 35 => some 1
  | 36 => some 1
  | 48 => some 4
  | 49 => some 1
  | 50 => some 0
  | 64 => some 0
  | 65 => some 0
  | _ => none

/-- The bytes read in a transaction make a request that is taken (R184). -/
def requestGood (bytes : List Byte) : Bool :=
  match bytes with
  | [] => false
  | c :: _ =>
    match requestBody c.toNat with
    | none => false
    | some b => decide (b + 2 ≤ bytes.length) && (bytes.take (b + 2)).foldl (· + ·) 0 == 0

/-- The answer to a request becomes the held response, and nothing is being read (R184). The request is that of the
command, whatever bytes the port had read of a transaction (log entry 40). -/
def respond (code : Byte) (st : Status) (reason : Nat) (d : Data) (s : State) : State :=
  { s with port := { held := some { code := code, status := st, reason := reason, data := d }, reading := [] } }

/-- The bytes read hold the first b + 2 bytes of a request of R188, after which the port disregards what is
clocked (R183). -/
def requestWhole (bytes : List Byte) : Bool :=
  match bytes with
  | [] => false
  | c :: _ => (requestBody c.toNat).any fun b => decide (b + 2 ≤ bytes.length)

/-- The port as the card ends clocking a byte, if it does (R183). -/
def Port.clocked (p : Port) (b : Option Byte) : Port :=
  if requestWhole p.reading then p else { p with reading := p.reading ++ b.toList }

/-- The level of LSO in bit `i` of a transaction, counted from 0: the response frame of the held response, most
significant bit first, and 0 after its last byte (R183). -/
def Port.lso (p : Port) (i : Nat) : Bool := (byteBits (responseFrame p.held))[i]?.getD false

/-- A request is answered OK. -/
def answerOk (code : Byte) (d : Data) (s : State) : State := respond code .ok 0 d s

/-- A request is answered by a refusing status, with no data. -/
def refuse (code : Byte) (st : Status) (s : State) : State := respond code st 0 .none s

/-- A configuration request: STATE outside UNCONFIGURED; RANGE where the arguments give no change; else the
change is made and answered OK (R185, R188). -/
def configure (code : Byte) (change : Option (State → State)) (s : State) : State :=
  if s.station.state ≠ .unconfigured then refuse code .state s
  else
    match change with
    | none => refuse code .range s
    | some f => answerOk code .none (f s)

/-! ### Arguments of configuration requests (R189) -/

/-- The plan of SET_PLAN, if every item lies in its range (R185, R189). -/
def planOf (a : PlanArgs) : Option Plan :=
  match RuleAction.ofCode a.s1.toNat, RuleAction.ofCode a.s2.toNat, RuleAction.ofCode a.s3.toNat,
      RuleAction.ofCode a.s4.toNat, RuleAction.ofCode a.s5.toNat, RuleAction.ofCode a.s6.toNat with
  | some s1, some s2, some s3, some s4, some s5, some s6 =>
    if (1 ≤ a.n.toNat ∧ a.n.toNat ≤ 16) ∧ (a.b = 1 ∨ a.b = 2 ∨ a.b = 4 ∨ a.b = 8) ∧
        (2 ≤ a.e.toNat ∧ a.e.toNat ≤ 120) ∧ (2 ≤ a.h.toNat ∧ a.h.toNat ≤ 86400) ∧
        (1 ≤ a.d.toNat ∧ a.d.toNat ≤ 31) ∧ a.u.toNat ≤ 4 ∧ a.lmin.toNat ≤ 16777216 ∧
        a.la.toNat ≤ 16777216 ∧ (1 ≤ a.step.toNat ∧ a.step.toNat ≤ 86400) ∧ a.adopt.toNat ≤ 1 then
      some
        { n := a.n.toNat, b := a.b.toNat, e := a.e.toNat, h := a.h.toNat, d := a.d.toNat, u := a.u.toNat,
          s1 := s1, s2 := s2, s3 := s3, s4 := s4, s5 := s5, s6 := s6,
          lmin := a.lmin.toNat, la := a.la.toNat, step := a.step.toNat, adopt := a.adopt == 1 }
    else none
  | _, _, _, _, _, _ => none

/-- An initial custodian is a station number 0 to 15 or NONE (R189). -/
def custodianCodeOk (c : Nat) : Bool := decide (c ≤ 15) || c == 255

/-- The scale that DEFINE_SCALE makes of its arguments, if they lie in their ranges (R11, R189). -/
def definedScale (k kind parent : Nat) (value : Int) (custodian : Nat) : Option Scale :=
  if k = 0 ∨ 5 < k then none
  else
    match ScaleKind.ofCode kind with
    | none => none
    | some .undefined => some Scale.undefined
    | some .civil =>
      if -255 ≤ value ∧ value ≤ 255 ∧ custodianCodeOk custodian = true then
        some { Scale.undefined with kind := .civil, value := value, custodian := custodianOf custodian }
      else none
    | some .localScale =>
      if -86400 ≤ value ∧ value ≤ 86400 ∧ custodianCodeOk custodian = true ∧
          1 ≤ parent ∧ parent ≤ 5 ∧ parent ≠ k then
        some { Scale.undefined with
          kind := .localScale, parent := some parent, value := value, custodian := custodianOf custodian }
      else none

/-- The smear windows of R156. -/
def smearWindows : List Nat := [1000, 2000, 5000, 10000, 20000, 50000]

/-- The presentation of a code and a window argument (R156, R189). -/
def presentationOf (code w : Nat) : Option Presentation :=
  match code with
  | 0 => some .step
  | 1 => some .hold
  | 2 => if smearWindows.contains w then some (.smear w) else none
  | _ => none

/-- The binding that BIND_OUTPUT makes of its arguments: `some none` for UNBOUND, `none` where an argument is
out of range (R156). With the scale NONE the other codes are tested all the same (log entry 26). -/
def bindingOf (scale presentation w policy : Nat) : Option (Option Binding) :=
  match presentationOf presentation w with
  | none => none
  | some p =>
    if 1 < policy then none
    else if scale = 255 then some none
    else if 5 < scale then none
    else some (some { scale := scale, presentation := p, quench := policy == 1 })

/-- An output as BIND_OUTPUT leaves it (R156). -/
def Output.bound (o : Output) (b : Option Binding) (width : Nat) : Output :=
  let w := if b.isSome then width else 1000000
  { o with binding := b, curWidth := w, nextWidth := w, curPeriod := .boundary, nextPeriod := .boundary }

/-- A code that is 0 or 1. -/
def bitOf : Nat → Option Bool
  | 0 => some false
  | 1 => some true
  | _ => none

/-! ### Quench inputs (R165) -/

/-- The group that serves an output (R165). -/
def groupOf (n : Fin 8) : Group := if n.val < 4 then .qa else .qb

/-- The settings of a group. -/
def State.quenchCfg (s : State) : Group → QuenchCfg
  | .qa => s.qaCfg
  | .qb => s.qbCfg

/-- The settings of a group replaced. -/
def State.setQuenchCfg (s : State) (g : Group) (c : QuenchCfg) : State :=
  match g with
  | .qa => { s with qaCfg := c }
  | .qb => { s with qbCfg := c }

/-- The level of a group's input. -/
def State.quenchLevel (s : State) : Group → Bool
  | .qa => s.pins.qa
  | .qb => s.pins.qb

/-- The level of a group's input replaced. -/
def State.setQuenchLevel (s : State) (g : Group) (high : Bool) : State :=
  match g with
  | .qa => { s with pins := { s.pins with qa := high } }
  | .qb => { s with pins := { s.pins with qb := high } }

/-- The input of a group stands at its active level. -/
def State.quenchActive (s : State) (g : Group) : Bool := s.quenchLevel g != (s.quenchCfg g).activeLow

/-- The input of a group counts as asserted for release: LEVEL trigger and active level (R168). -/
def State.quenchAsserted (s : State) (g : Group) : Bool := !(s.quenchCfg g).edge && s.quenchActive g

/-- An assertion of a group quenches its RUNNING outputs (R165). -/
def quenchGroup (g : Group) (s : State) : State := quenchWhere (fun n _ => groupOf n == g) .group s

/-- The input of a group takes a level. A change to the active level after START is an assertion; the input
is not acted on in UNCONFIGURED (R165). -/
def driveQuench (g : Group) (active : Bool) (s : State) : State :=
  let t := s.setQuenchLevel g (active != (s.quenchCfg g).activeLow)
  if active && !s.quenchActive g && s.station.state != .unconfigured then quenchGroup g t else t

/-! ### START (R187) -/

/-- A scale's parent makes check 2 fail: it is LOCAL and its parent is not CIVIL (R12). -/
def parentBad (s : State) (k : Nat) : Bool :=
  (s.scale k).kind == .localScale && (s.scale ((s.scale k).parent.getD 0)).kind != .civil

/-- A scale's custodian makes check 3 fail (R12). -/
def custodianBad (s : State) (k : Nat) : Bool := (s.scale k).custodian.any fun c => decide (s.plan.n ≤ c)

/-- An output makes check 4 fail: its scale is undefined. -/
def bindingBad (s : State) (n : Fin 8) : Bool :=
  s.outputs[n].binding.any fun b => b.scale != 0 && (s.scale b.scale).kind == .undefined

/-- An output makes check 5 fail: a SMEAR window with W + 1 > H. -/
def windowBad (s : State) (n : Fin 8) : Bool :=
  s.outputs[n].binding.any fun b =>
    match b.presentation with
    | .smear w => decide (s.plan.h < w + 1)
    | _ => false

/-- The offending items of the five checks of START, in order, with their check numbers (R187). -/
def startChecks (s : State) : List (Nat × List Nat) :=
  [(1, if s.pins.stn < s.plan.n then [] else [s.pins.stn]),
   (2, scaleNumbers.filter (parentBad s)),
   (3, scaleNumbers.filter (custodianBad s)),
   (4, ((List.finRange 8).filter (bindingBad s)).map Fin.val),
   (5, ((List.finRange 8).filter (windowBad s)).map Fin.val)]

/-- The first check that fails, with its offending items (R187). -/
def startFault (s : State) : Option (Nat × List Nat) := (startChecks s).find? fun c => !c.2.isEmpty

/-- A bound output becomes RUNNING (R156). -/
def Output.started (o : Output) : Output := { o with running := o.binding.isSome }

/-- A group whose input stands active in LEVEL trigger is taken as asserted at START (R165, R187). -/
def quenchAtStart (g : Group) (s : State) : State := if s.quenchAsserted g then quenchGroup g s else s

/-- START takes effect at every unit, QA before QB (R26, R60, R81, R106, R107, R156, R187; log entry 33). -/
def startUp (s : State) : State :=
  quenchAtStart .qb (quenchAtStart .qa
    { s with
      quorum := s.plan.n / 2 + 1
      planDigest := planDigestOf s.plan s.scales
      table := { s.table with nextSeq := BitVec.ofNat 16 s.clock.label }
      station := { s.station with state := .joining, listen := 0, history := [] }
      line := s.line.toHunting 0
      outputs := s.outputs.map Output.started })

/-! ### Local proposals (R83) -/

/-- The sequence found from a value: the first from there on, wrapping, under which no own entry is held
(R26, step 3). -/
def freeSequence (s : State) : Nat → Word → Word
  | 0, q => q
  | k + 1, q => if s.holds { proposer := s.pins.stn, seq := q } then freeSequence s k (q + 1) else q

/-- The next sequence set. -/
def State.setSeq (s : State) (q : Word) : State := { s with table := { s.table with nextSeq := q } }

/-- The answer to a refused proposal (R57). -/
def refuseProposal (code : Byte) (r : Reason) (s : State) : State :=
  match r with
  | .notCustodian => refuse code .notCustodian s
  | .tableFull => refuse code .tableFull s
  | r => respond code .screen r.code .none s

/-- An accepted local proposal is stored, with FLAGGED after STORED, and the next sequence rises by one (R26, R83,
steps 6 and 8). -/
def storeOwn (r : Record) (flags : List CfgRule) (s : State) : State :=
  raiseFlagged r.id flags
    ((storeEntry r .proposed (addStation noStations s.pins.stn) flags (some (s.clock.label + s.plan.e)) .none
      .ownPort s).setSeq (s.table.nextSeq + 1))

/-- A ratification that is still to be made joins the claims on their way: behind the ratifications that wait
already, ahead of the verdicts (R85; log entry 49). -/
def claimNext (id : Ident) : List PendingVerdict → List PendingVerdict
  | .ratify x :: vs => .ratify x :: claimNext id vs
  | vs => .ratify id :: vs

/-- The ratification of a stored local proposal is a claim of its own, still to be made (R85). -/
def State.claiming (s : State) (id : Ident) : State := { s with verdicts := claimNext id s.verdicts }

/-- A stored local proposal is announced and answered; on a shelf of one station it is ratified in its stead, in the
same step (`whole`) or by a later claim, before which a READ_ENTRY finds it PROPOSED (R83 to R85; log entry 49). -/
def announce (whole : Bool) (code : Byte) (r : Record) (flags : List CfgRule) (s : State) : State :=
  if s.plan.n ≤ 1 then
    answerOk code (.proposal r.id flags) (if whole then ratifyOwn r.id s else s.claiming r.id)
  else
    respond code (if s.wouldQueue (proposeFrame r) then .ok else .queueFull) 0 (.proposal r.id flags)
      (offerPropose r s)

/-- The verdict on a local proposal reaches the Agreement Engine: outside ACTIVE the request is answered STATE
(R83, steps 5 to 8; R88). -/
def takeOwnVerdict (whole : Bool) (code : Byte) (r : Record) (v : Verdict) (s : State) : State :=
  if s.station.state ≠ .active then refuse code .state s
  else
    match v with
    | .reject reason => refuseProposal code reason s
    | .accept flags =>
      match s.storeRefusal r with
      | some reason => refuseProposal code reason s
      | none => announce whole code r flags (storeOwn r flags s)

/-- A record with its sequence chosen is screened, and its verdict taken at once, or later, until when the held
response is empty (R83, step 4; R88; log entry 27). A second local proposal taken in between finds the same sequence, and
the one whose verdict arrives later is refused DUPLICATE_ID while the first is held, which R26 does not foresee (log
entry 27). -/
def judgeOwn (w : VerdictTime) (code : Byte) (r : Record) (s : State) : State :=
  match w with
  | .atOnce => takeOwnVerdict true code r (screen s r) s
  | .stored => takeOwnVerdict false code r (screen s r) s
  | .later => { s with port := { held := none, reading := [] } }.awaiting (.port code r (screen s r))

/-- The ratification of a stored local proposal on a shelf of one station, made as a claim of its own where the entry
is still held PROPOSED (R31, R85, R90). -/
def ratifyStored (id : Ident) (s : State) : State :=
  match s.find id with
  | some e => if e.state = .proposed then ratifyOwn id s else s
  | none => s

/-- A verdict reaches the Agreement Engine (R88), or it makes a ratification that is due (R85). -/
def PendingVerdict.take (v : PendingVerdict) (s : State) : State :=
  match v with
  | .line r v => takeVerdict r v s
  | .port code r v => takeOwnVerdict false code r v s
  | .ratify id => ratifyStored id s

/-- A local proposal request (R83): `mk` forms the record of a sequence, and is absent where an argument is
out of its range. -/
def proposeOwn (w : VerdictTime) (code : Byte) (mk : Option (Word → Record)) (s : State) : State :=
  if s.station.state ≠ .active then refuse code .state s
  else
    match mk with
    | none => refuse code .range s
    | some f =>
      if (f 0).fieldsOk s.plan.n then
        let q := freeSequence s s.held s.table.nextSeq
        judgeOwn w code (f q) (s.setSeq q)
      else refuse code .range s

/-! ### Reads (R188) -/

/-- What READ_STATUS returns of the sending context. -/
def SendCtx.view (c : SendCtx) : SendView where
  audience := countStations c.audience
  deferred := countStations c.deferred
  next := c.next
  total := c.total

/-- What READ_STATUS returns of the receiving context. -/
def RecvCtx.view (c : RecvCtx) : RecvView where
  origin := c.origin
  target := c.target
  source := c.source
  expected := c.expected

/-- The items of READ_STATUS (R188). -/
def State.statusView (s : State) : StatusView where
  label := s.clock.label
  lock := s.clock.lock
  pendingLabel := s.clock.pendingLabel.map fun p => p.origin
  nextSeq := s.table.nextSeq
  held := s.held
  otherHeld := otherCount s.table.entries
  version := s.table.version
  digest := s.shelfDigest
  planDigest := s.planDigest
  station := s.station
  lineState := s.line.state
  queueHeld := s.line.queue.length
  queueLow := lowCount s.line.queue
  headClash := s.line.queue.head?.map fun f => f.clash
  sending := s.sending.map SendCtx.view
  receiving := s.receiving.map RecvCtx.view
  qaLevel := s.pins.qa
  qaAsserted := s.quenchAsserted .qa
  qbLevel := s.pins.qb
  qbAsserted := s.quenchAsserted .qb
  pendingKinds := s.notices.pending.length
  attn := s.attn

/-- The count of a scale through its parents (R15); none for an undefined scale and where the parents do not
lead to a CIVIL scale. -/
def countChain (s : State) : Nat → Nat → Option Int
  | 0, _ => none
  | fuel + 1, k =>
    if k = 0 then some s.clock.label
    else
      match (s.scale k).kind with
      | .undefined => none
      | .civil => some (civilCount s.clock.label (s.scale k))
      | .localScale => (countChain s fuel ((s.scale k).parent.getD 6)).map fun c => c + (s.scale k).value

/-- The count that READ_SCALE shows: absent for an undefined scale, a free value for a LOCAL scale whose
count R15 does not give (log entry 36). -/
def shownCount (s : State) (k : Nat) : Option Int :=
  match countChain s 6 k with
  | some c => some c
  | none => if k ≠ 0 ∧ (s.scale k).kind = .localScale then some (Config.orphanCount s.free) else none

/-- The items of READ_SCALE (R15, R141). -/
def State.scaleView (s : State) (k : Nat) : ScaleView where
  scale := k
  kind := (s.scale k).kind
  base := k == 0
  parent := (s.scale k).parent
  state := if k = 0 ∨ (s.scale k).kind = .undefined then none else some ((s.scale k).value, (s.scale k).custodian)
  inserted := s.familyInserted k
  insertRefused := (s.scale k).insertRefused
  count := shownCount s k
  calendar := (shownCount s k).bind fun c => calendarMarked c (s.familyInserted k)
  warning := s.warningFor k
  offsetPending := s.offsetPending k
  change := s.changeOf k

/-- The items of READ_OUTPUT (R155, R171). -/
def State.outputView (s : State) (n : Fin 8) : OutputView :=
  let o := s.outputs[n]
  { n := n.val, binding := o.binding, running := o.running, curWidth := o.curWidth, nextWidth := o.nextWidth,
    curPeriod := o.curPeriod, nextPeriod := o.nextPeriod, latch := o.latch, releasePending := o.releasePending,
    realign := o.realign, last := o.last, smear := o.smear, result := o.result }

/-- The output of a request's number, where it is one of 0 to 7. -/
def outputNumber (n : Nat) : Option (Fin 8) := if h : n < 8 then some ⟨n, h⟩ else none

/-! ### Notices (R192) -/

/-- Record `a` is selected before record `b`: a higher level, or the lower number among equal levels. -/
def Notices.first (ns : Notices) (a b : PendingNotice) : Bool :=
  decide (ns.level b.notice.kind < ns.level a.notice.kind) ||
    (ns.level b.notice.kind == ns.level a.notice.kind &&
      decide (a.notice.kind.number < b.notice.kind.number))

/-- The record selected of a list (R192). -/
def Notices.pick (ns : Notices) : List PendingNotice → Option PendingNotice
  | [] => none
  | p :: ps =>
    match Notices.pick ns ps with
    | none => some p
    | some q => if ns.first p q then some p else some q

/-- The record that TAKE_NOTICE and PEEK_NOTICE select (R192). -/
def Notices.selected (ns : Notices) : Option PendingNotice := ns.pick ns.pending

/-- The data of the answer to TAKE_NOTICE and PEEK_NOTICE (R192). -/
def Notices.answer (ns : Notices) : Data :=
  match ns.selected with
  | none => .noNotice
  | some p => .notice (ns.level p.notice.kind) p

/-- The notices after the selected record has been removed (R192). -/
def Notices.taken (ns : Notices) : Notices :=
  match ns.selected with
  | none => ns
  | some p => { ns with pending := ns.pending.filter fun q => decide (q.notice.kind ≠ p.notice.kind) }

end Sys2Proof.Machine
end

