-- ==== Sys2Proof/Decode.lean ====
section
/-! DEFINITION. The commands that a word of the table spells (none, since no row gives bits), and the request frames of the local port: how the part reads them and how a processor forms them (R183, R184, R188, R189). -/

namespace Sys2Proof

open Sys2Proof.Machine

/-- The command that a word spells by the table's bits: none, because no row of the table gives bits. -/
def decodeTableWord (_nbits _w : Nat) : Option Instr := none

/-! ### Reading a request frame -/

/-- Byte `i` of a request frame. -/
def byteAt (f : List Byte) (i : Nat) : Byte := f.getD i 0

/-- The value of `n` bytes from byte `i` of a request frame, high byte first, as `w` bits. -/
def wordAt (w : Nat) (f : List Byte) (i n : Nat) : BitVec w := BitVec.ofNat w (field f i n)

/-- The arguments of SET_PLAN at their bytes (R189). -/
def planAt (f : List Byte) : PlanArgs where
  n := byteAt f 1
  b := byteAt f 2
  e := byteAt f 3
  h := wordAt 24 f 4 3
  d := byteAt f 7
  u := byteAt f 8
  s1 := byteAt f 9
  s2 := byteAt f 10
  s3 := byteAt f 11
  s4 := byteAt f 12
  s5 := byteAt f 13
  s6 := byteAt f 14
  lmin := wordAt 32 f 15 4
  la := wordAt 32 f 19 4
  step := wordAt 24 f 23 3
  adopt := byteAt f 26

/-- The request of a code with its arguments at the bytes of R189. -/
def requestOf (code : Nat) (f : List Byte) : Option Instr :=
  match code with
  | 0 => some .nop
  | 1 => some (.setPlan (planAt f))
  | 2 => some (.defineScale (byteAt f 1) (byteAt f 2) (byteAt f 3) (wordAt 24 f 4 3) (byteAt f 7))
  | 3 => some (.bindOutput (byteAt f 1) (byteAt f 2) (byteAt f 3) (wordAt 24 f 4 3) (wordAt 24 f 7 3) (byteAt f 10))
  | 4 => some (.setQuench (byteAt f 1) (byteAt f 2) (byteAt f 3))
  | 5 => some (.setBaseLabel (wordAt 40 f 1 5))
  | 6 => some (.setNoticeLevels (byteAt f 1) (byteAt f 2))
  | 7 => some .start
  | 16 => some (.proposeLeap (byteAt f 1) (byteAt f 2) ⟨wordAt 40 f 3 5, .atOnce⟩)
  | 17 => some (.proposeOffset (byteAt f 1) (wordAt 40 f 2 5) ⟨wordAt 24 f 7 3, .atOnce⟩)
  | 18 => some (.proposeCustody (byteAt f 1) ⟨byteAt f 2, .atOnce⟩)
  | 19 => some (.proposeWithdraw (byteAt f 1) ⟨wordAt 16 f 2 2, .atOnce⟩)
  | 32 => some .readStatus
  | 33 => some (.readEntry (byteAt f 1))
  | 34 => some (.readScale (byteAt f 1))
  | 35 => some (.readRoster (byteAt f 1))
  | 36 => some (.readOutput (byteAt f 1))
  | 48 => some (.setWidth (byteAt f 1) (wordAt 24 f 2 3))
  | 49 => some (.releaseOutput (byteAt f 1))
  | 50 => some .rejoin
  | 64 => some .takeNotice
  | 65 => some .peekNotice
  | _ => none

/-- The command that the bytes of one transaction make: a request, or BAD_CHECK (R184). The verdict on a proposal
is taken at once. -/
def readTransaction (bytes : List Byte) : Instr :=
  if requestGood bytes then (requestOf (byteAt bytes 0).toNat bytes).getD (.badCheck bytes) else .badCheck bytes

/-! ### Forming a request frame -/

/-- The body of SET_PLAN (R189). -/
def planBody (a : PlanArgs) : List Byte :=
  [a.n, a.b, a.e] ++ be 3 a.h.toNat ++ [a.d, a.u, a.s1, a.s2, a.s3, a.s4, a.s5, a.s6] ++ be 4 a.lmin.toNat ++
    be 4 a.la.toNat ++ be 3 a.step.toNat ++ [a.adopt]

/-- The code and body of a request; none for a command that is no request (R188, R189). -/
def requestBytes : Instr → Option (List Byte)
  | .nop => some [0]
  | .setPlan a => some (1 :: planBody a)
  | .defineScale k kind parent value custodian => some (2 :: [k, kind, parent] ++ be 3 value.toNat ++ [custodian])
  | .bindOutput n k p w width policy => some (3 :: [n, k, p] ++ be 3 w.toNat ++ be 3 width.toNat ++ [policy])
  | .setQuench g t p => some [4, g, t, p]
  | .setBaseLabel v => some (5 :: be 5 v.toNat)
  | .setNoticeLevels sel level => some [6, sel, level]
  | .start => some [7]
  | .proposeLeap k kind turn => some (16 :: [k, kind] ++ be 5 turn.arg.toNat)
  | .proposeOffset k turn offset => some (17 :: [k] ++ be 5 turn.toNat ++ be 3 offset.arg.toNat)
  | .proposeCustody k c => some [18, k, c.arg]
  | .proposeWithdraw p seq => some (19 :: [p] ++ be 2 seq.arg.toNat)
  | .readStatus => some [32]
  | .readEntry i => some [33, i]
  | .readScale k => some [34, k]
  | .readRoster p => some [35, p]
  | .readOutput n => some [36, n]
  | .setWidth n w => some (48 :: [n] ++ be 3 w.toNat)
  | .releaseOutput n => some [49, n]
  | .rejoin => some [50]
  | .takeNotice => some [64]
  | .peekNotice => some [65]
  | _ => none

/-- A request whose verdict, if it is screened, is taken at once; when it is taken is no part of its frame. -/
def Instr.atOnce : Instr → Instr
  | .proposeLeap k kind turn => .proposeLeap k kind ⟨turn.arg, .atOnce⟩
  | .proposeOffset k turn offset => .proposeOffset k turn ⟨offset.arg, .atOnce⟩
  | .proposeCustody k c => .proposeCustody k ⟨c.arg, .atOnce⟩
  | .proposeWithdraw p seq => .proposeWithdraw p ⟨seq.arg, .atOnce⟩
  | i => i

/-- The request frame of a request, with its check byte (R183). -/
def requestFrame (i : Instr) : Option (List Byte) := (requestBytes i).map fun bs => bs ++ [checkByte bs]

end Sys2Proof
end

