-- ==== Sys2Proof/Machine/ClockEvents.lean ====
section
/-! DEFINITION. The meanings of the Base Clock's events and of the expiry of a window. -/

namespace Sys2Proof.Machine

/-- SECIN_EDGE: a SECIN rising edge, accepted or spurious (R2, R3, R6, R7). -/
def execSecinEdge (ord : BoundaryOrder) (s : State) : Host.Outcome State Fault Refusal := .next (secinEdge ord s)

/-- SUBSTITUTED_BOUNDARY: made when the tick count has reached 10,000,100 (R4). -/
def execSubstitutedBoundary (ord : BoundaryOrder) (s : State) : Host.Outcome State Fault Refusal :=
  .next (substitutedBoundary ord s)

/-- WINDOW_EXPIRY: a PROPOSED entry whose window has been reached is freed LAPSED (R97). -/
def execWindowExpiry (id : Ident) (s : State) : Host.Outcome State Fault Refusal := .next (expireEntry id s)

end Sys2Proof.Machine
end

