-- ==== Sys2Proof/Machine/Configuration.lean ====
section
/-! DEFINITION. The meanings of the configuration requests, of START, and of what the port makes of no request (chapters 11.1, 11.2). -/

namespace Sys2Proof.Machine

/-- NOP: taken in every state, leaves the held response empty (R184). -/
def execNop (s : State) : Host.Outcome State Fault Refusal :=
  .next { s with port := { held := none, reading := [] } }

/-- BAD_CHECK: bytes that are no request make a BAD_CHECK response with the code as read; with no whole byte
read the code is a free value (R184; log entry 8). Bytes that are a good request are no BAD_CHECK and change
nothing (log entry 16). -/
def execBadCheck (bytes : List Byte) (s : State) : Host.Outcome State Fault Refusal :=
  if requestGood bytes then .next s
  else
    match bytes with
    | [] => .next (refuse (Config.unreadCode s.free) .badCheck s.drawn)
    | c :: _ => .next (refuse c .badCheck s)

/-- SET_PLAN replaces the whole plan (R185). -/
def execSetPlan (a : PlanArgs) (s : State) : Host.Outcome State Fault Refusal :=
  .next (configure 1 ((planOf a).map fun p t => { t with plan := p }) s)

/-- DEFINE_SCALE replaces the plan record and the state of one of S1 to S5 (R11, R13). -/
def execDefineScale (scale kind parent : Byte) (value : BitVec 24) (custodian : Byte) (s : State) :
    Host.Outcome State Fault Refusal :=
  .next (configure 2
    ((definedScale scale.toNat kind.toNat parent.toNat value.toInt custodian.toNat).map fun sc t =>
      t.setScale scale.toNat sc) s)

/-- BIND_OUTPUT replaces the binding of an output and loads its widths and periods (R156). -/
def execBindOutput (n scale presentation : Byte) (w width : BitVec 24) (policy : Byte) (s : State) :
    Host.Outcome State Fault Refusal :=
  .next (configure 3
    (match outputNumber n.toNat, bindingOf scale.toNat presentation.toNat w.toNat policy.toNat with
     | some i, some b => some fun t => t.setOutput i (t.outputs[i].bound b width.toNat)
     | _, _ => none) s)

/-- SET_QUENCH gives a group its trigger and polarity (R165). -/
def execSetQuench (group trigger polarity : Byte) (s : State) : Host.Outcome State Fault Refusal :=
  .next (configure 4
    (match bitOf group.toNat, bitOf trigger.toNat, bitOf polarity.toNat with
     | some g, some e, some p => some fun t =>
       t.setQuenchCfg (if g then .qb else .qa) { edge := e, activeLow := p }
     | _, _, _ => none) s)

/-- SET_BASE_LABEL makes a value the pending label with origin SETTING (R9). -/
def execSetBaseLabel (v : BitVec 40) (s : State) : Host.Outcome State Fault Refusal :=
  .next (configure 5
    (some fun t => t.setClock { t.clock with pendingLabel := some { value := v.toNat, origin := .setting } }) s)

/-- SET_NOTICE_LEVELS sets the threshold or the level of one notice kind (R186). -/
def execSetNoticeLevels (selector level : Byte) (s : State) : Host.Outcome State Fault Refusal :=
  .next (configure 6
    (if 23 < selector.toNat ∨ 7 < level.toNat then none
     else if selector = 0 then some fun t => { t with notices := { t.notices with threshold := level.toNat } }
     else some fun t =>
       { t with notices :=
          { t.notices with levels := t.notices.levels.setIfInBounds (selector.toNat - 1) level.toNat } }) s)

/-- START makes its five checks and takes effect at every unit, or is refused with RANGE, the number of the
check and one offending item, which is a free value where there are several (R187; log entry 9). -/
def execStart (s : State) : Host.Outcome State Fault Refusal :=
  if s.station.state ≠ .unconfigured then .next (refuse 7 .state s)
  else
    match startFault s with
    | some c => .next (respond 7 .range c.1 (.item ((choose s.free c.2).getD 0)) s.drawn)
    | none => .next (answerOk 7 .none (startUp s))

end Sys2Proof.Machine
end

