-- ==== Sys2Proof/Machine/Frames.lean ====
section
/-! DEFINITION. The meanings of the eight received frames (R62, R68). -/

namespace Sys2Proof.Machine

/-- BEACON: compared with the own label and digests; the sender's slot is reclassified (R109). -/
def execBeacon (sender : BitVec 4) (body : List Byte) (s : State) : Host.Outcome State Fault Refusal :=
  .next (receiveTyped .atOnce .beacon sender.toNat body s)

/-- PROPOSE: screened, and stored with an ENDORSE or answered with an OBJECT (R86 to R88). -/
def execPropose (sender : BitVec 4) (body : Screened (List Byte)) (s : State) : Host.Outcome State Fault Refusal :=
  .next (receiveTyped body.verdict .propose sender.toNat body.arg s)

/-- ENDORSE: its sender joins the endorser set of a PROPOSED entry (R89, R90). -/
def execEndorse (sender : BitVec 4) (body : List Byte) (s : State) : Host.Outcome State Fault Refusal :=
  .next (receiveTyped .atOnce .endorse sender.toNat body s)

/-- OBJECT: frees a PROPOSED entry REFUSED, or raises LATE_OBJECTION (R92). -/
def execObject (sender : BitVec 4) (body : List Byte) (s : State) : Host.Outcome State Fault Refusal :=
  .next (receiveTyped .atOnce .object sender.toNat body s)

/-- RATIFY: ratifies a PROPOSED entry, or raises MISSED_ENTRY (R94, R95). -/
def execRatify (sender : BitVec 4) (body : List Byte) (s : State) : Host.Outcome State Fault Refusal :=
  .next (receiveTyped .atOnce .ratify sender.toNat body s)

/-- RECITE_REQ: starts a recital, or places the requester in the deferred audience (R127). -/
def execReciteReq (sender : BitVec 4) (body : List Byte) (s : State) : Host.Outcome State Fault Refusal :=
  .next (receiveTyped .atOnce .reciteReq sender.toNat body s)

/-- RECITAL: taken in order from its source, its record merged (R132, R135 to R137). -/
def execRecital (sender : BitVec 4) (body : List Byte) (s : State) : Host.Outcome State Fault Refusal :=
  .next (receiveTyped .atOnce .recital sender.toNat body s)

/-- SCALE_STATE: taken in order and handed to the registry (R132, R138). -/
def execScaleState (sender : BitVec 4) (body : List Byte) (s : State) : Host.Outcome State Fault Refusal :=
  .next (receiveTyped .atOnce .scaleState sender.toNat body s)

end Sys2Proof.Machine
end

