-- ==== Sys2Proof/Machine/LineEvents.lean ====
section
/-! DEFINITION. The meanings of the Line Interface's events but the valid frames (R66 to R75). -/

namespace Sys2Proof.Machine

/-- LINE_SYNCHRONISED: a quiet count of 11 takes HUNTING to IDLE (R66). -/
def execLineSynchronised (s : State) : Host.Outcome State Fault Refusal := .next (synchronise s)

/-- FRAME_BEGIN: the head frame is begun when the idle count has reached its gap (R69, R70). -/
def execFrameBegin (s : State) : Host.Outcome State Fault Refusal := .next (frameBegin s)

/-- FRAME_DEFER: another station's start mark takes IDLE to TAKING (R65, R71). -/
def execFrameDefer (s : State) : Host.Outcome State Fault Refusal := .next (deferTo s)

/-- FRAME_SENT: the frame in transmission has been read back to its end (R73). -/
def execFrameSent (s : State) : Host.Outcome State Fault Refusal := .next (frameSent s)

/-- CLASH: the bit time under way is read back other than it was sent (R72, R74). -/
def execClash (s : State) : Host.Outcome State Fault Refusal := .next (clashNow s)

/-- FRAME_ABANDONED: a clash count reaches 8 (R75). -/
def execFrameAbandoned (s : State) : Host.Outcome State Fault Refusal := .next (abandonNow s)

/-- RX_FRAME_INVALID: a frame as read is tested, and discarded by the first test that fails (R67). -/
def execRxFrameInvalid (f : RawFrame) (s : State) : Host.Outcome State Fault Refusal := .next (receiveRaw f s)

end Sys2Proof.Machine
end

