-- ==== Sys2Proof/Machine/OutputEvents.lean ====
section
/-! DEFINITION. The meanings of the events of the Output Units. -/

namespace Sys2Proof.Machine

/-- OUTPUT_SECOND_START: an output whose tick period has run out begins its next output second; the starts
at a base boundary are made within the boundary (R157). -/
def execOutputSecondStart (n : Fin 8) (s : State) : Host.Outcome State Fault Refusal :=
  .next (if s.outputs[n].secondDue then startSecond n false s else s)

/-- PULSE_END: the second tick count has reached the current width and SPn goes low (R159). -/
def execPulseEnd (n : Fin 8) (s : State) : Host.Outcome State Fault Refusal :=
  .next (if s.outputs[n].pulseDue s.clock then s.setOutput n { s.outputs[n] with sp := false } else s)

/-- RECORD_SENT: the record under way has been sent to its last stop bit (R163, R164). -/
def execRecordSent (n : Fin 8) (s : State) : Host.Outcome State Fault Refusal :=
  .next (if s.outputs[n].recordDue then s.setOutput n s.outputs[n].endRecord else s)

end Sys2Proof.Machine
end

