-- ==== Sys2Proof/Machine/PinEvents.lean ====
section
/-! DEFINITION. The meanings of the events on the part's pins but SECIN: RESET, LRESET, ATT, QA and QB. -/

namespace Sys2Proof.Machine

/-- RESET is asserted and released: every unit takes its reset state and the straps are sampled. The levels
of ATT, QA and QB, the queue of commands and the model's counters stand (R59, R105; log entries 10, 30). -/
def execReset (stn : BitVec 4) (lrate : BitVec 2) (s : State) : Host.Outcome State Fault Refusal :=
  .next
    { State.reset with
      pins := { s.pins with stn := stn.toNat, lrate := lrate }
      free := s.free
      serial := s.serial
      pending := s.pending }

/-- LRESET is asserted: a line reset with source LRESET (R122). -/
def execLreset (s : State) : Host.Outcome State Fault Refusal := .next (lineReset .lreset s)

/-- What a rise of ATT makes of a LISTENING station (R121). -/
def riseTarget (history : List EvalResult) : StationState :=
  if history = [.won, .won] then .active else .joining

/-- ATT_CHANGE: a fall takes ACTIVE to LISTENING, a rise takes LISTENING to ACTIVE or JOINING; a level that
ATT has already is no change (R121). -/
def execAttChange (high : Bool) (s : State) : Host.Outcome State Fault Refusal :=
  let t := { s with pins := { s.pins with att := high } }
  if s.pins.att = high then .next s
  else
    match s.station.state, high with
    | .active, false => .next (enterState .listening t)
    | .listening, true => .next (enterState (riseTarget s.station.history) t)
    | _, _ => .next t

/-- QUENCH_ASSERTION: the input of a group goes to its active level (R165). -/
def execQuenchAssertion (g : Group) (s : State) : Host.Outcome State Fault Refusal :=
  .next (driveQuench g true s)

/-- QUENCH_INPUT_INACTIVE: the input of a group goes to its inactive level, which clears no latch (R165). -/
def execQuenchInputInactive (g : Group) (s : State) : Host.Outcome State Fault Refusal :=
  .next (driveQuench g false s)

end Sys2Proof.Machine
end

