-- ==== Sys2Proof/Machine/Proposals.lean ====
section
/-! DEFINITION. The meanings of the local proposal requests (R83). -/

namespace Sys2Proof.Machine

/-- The kind that a kind code of PROPOSE_LEAP names (R188). -/
def leapKind (code : Nat) : Option Kind :=
  match code with
  | 1 => some .leapAdd
  | 2 => some .leapDrop
  | _ => none

/-- PROPOSE_LEAP proposes a LEAP_ADD or a LEAP_DROP (R83). -/
def execProposeLeap (scale kind : Byte) (turn : Screened (BitVec 40)) (s : State) : Host.Outcome State Fault Refusal :=
  .next (proposeOwn turn.verdict 16
    ((leapKind kind.toNat).map fun k q =>
      { id := { proposer := s.pins.stn, seq := q }, kind := k, scale := some scale.toNat, turn := some turn.arg.toNat,
        value := none, target := none }) s)

/-- PROPOSE_OFFSET proposes an OFFSET_SET (R83). -/
def execProposeOffset (scale : Byte) (turn : BitVec 40) (offset : Screened (BitVec 24))
    (s : State) : Host.Outcome State Fault Refusal :=
  .next (proposeOwn offset.verdict 17
    (some fun q =>
      { id := { proposer := s.pins.stn, seq := q }, kind := .offsetSet, scale := some scale.toNat,
        turn := some turn.toNat, value := some offset.arg.toInt, target := none }) s)

/-- PROPOSE_CUSTODY proposes a CUSTODY change (R83). -/
def execProposeCustody (scale : Byte) (custodian : Screened Byte) (s : State) : Host.Outcome State Fault Refusal :=
  .next (proposeOwn custodian.verdict 18
    (some fun q =>
      { id := { proposer := s.pins.stn, seq := q }, kind := .custody, scale := some scale.toNat, turn := none,
        value := some (custodian.arg.toNat : Int), target := none }) s)

/-- PROPOSE_WITHDRAW proposes the WITHDRAW of a target, whose proposer is 0 to 15 (R83, R189). -/
def execProposeWithdraw (proposer : Byte) (seq : Screened Word) (s : State) : Host.Outcome State Fault Refusal :=
  .next (proposeOwn seq.verdict 19
    (if 15 < proposer.toNat then none
     else some fun q =>
      { id := { proposer := s.pins.stn, seq := q }, kind := .withdraw, scale := none, turn := none, value := none,
        target := some { proposer := proposer.toNat, seq := seq.arg } }) s)

end Sys2Proof.Machine
end

