-- ==== Sys2Proof/Machine/Reads.lean ====
section
/-! DEFINITION. The meanings of the read requests (R188), taken in every state. -/

namespace Sys2Proof.Machine

/-- READ_STATUS returns the status items as they stand when it is taken (R188). -/
def execReadStatus (s : State) : Host.Outcome State Fault Refusal :=
  .next (answerOk 32 (.status s.statusView) s)

/-- READ_ENTRY returns the entry at a position of table order, or RANGE with the held count and the table
version (R38). -/
def execReadEntry (i : Byte) (s : State) : Host.Outcome State Fault Refusal :=
  match s.table.entries[i.toNat]? with
  | some e => .next (answerOk 33 (.entry s.held i.toNat s.table.version e) s)
  | none => .next (respond 33 .range 0 (.noEntry s.held s.table.version) s)

/-- READ_SCALE returns the items of a scale 0 to 5 (R15, R141). -/
def execReadScale (scale : Byte) (s : State) : Host.Outcome State Fault Refusal :=
  if 5 < scale.toNat then .next (refuse 34 .range s)
  else .next (answerOk 34 (.scale (s.scaleView scale.toNat)) s.drawn)

/-- READ_ROSTER returns the slot of a station 0 to 15 (R110). -/
def execReadRoster (p : Byte) (s : State) : Host.Outcome State Fault Refusal :=
  if 15 < p.toNat then .next (refuse 35 .range s)
  else .next (answerOk 35 (.roster p.toNat (s.slot p.toNat)) s)

/-- READ_OUTPUT returns the items of an output 0 to 7 (R155, R171). -/
def execReadOutput (n : Byte) (s : State) : Host.Outcome State Fault Refusal :=
  match outputNumber n.toNat with
  | none => .next (refuse 36 .range s)
  | some i => .next (answerOk 36 (.output (s.outputView i)) s)

end Sys2Proof.Machine
end

