-- ==== Sys2Proof/Machine/RunRequests.lean ====
section
/-! DEFINITION. The meanings of the run requests on outputs, line and notices (R160, R168, R190, R192). -/

namespace Sys2Proof.Machine

/-- SET_WIDTH writes the next width of a RUNNING output (R160). -/
def execSetWidth (n : Byte) (w : BitVec 24) (s : State) : Host.Outcome State Fault Refusal :=
  if s.station.state = .unconfigured then .next (refuse 48 .state s)
  else
    match outputNumber n.toNat with
    | none => .next (refuse 48 .range s)
    | some i =>
      if s.outputs[i].running then
        .next (answerOk 48 .none (s.setOutput i { s.outputs[i] with nextWidth := w.toNat }))
      else .next (refuse 48 .state s)

/-- A condition that forbids the release of an output is in force (R168). -/
def releaseBarred (s : State) (n : Fin 8) : Bool :=
  s.quenchAsserted (groupOf n) || (s.station.state == .adrift && s.outputs[n].quenchesAdrift) ||
    s.station.state == .isolated

/-- RELEASE_OUTPUT sets release pending for a quenched output when no condition bars it (R168). -/
def execReleaseOutput (n : Byte) (s : State) : Host.Outcome State Fault Refusal :=
  if s.station.state = .unconfigured then .next (refuse 49 .state s)
  else
    match outputNumber n.toNat with
    | none => .next (refuse 49 .range s)
    | some i =>
      if !s.outputs[i].running then .next (refuse 49 .state s)
      else if !s.outputs[i].latch.set then .next (answerOk 49 .none s)
      else if releaseBarred s i then .next (refuse 49 .state s)
      else .next (answerOk 49 .none (s.setOutput i { s.outputs[i] with releasePending := true }))

/-- REJOIN makes a line reset with source REJOIN (R190). -/
def execRejoin (s : State) : Host.Outcome State Fault Refusal :=
  if s.station.state = .unconfigured then .next (refuse 50 .state s)
  else .next (answerOk 50 .none (lineReset .rejoin s))

/-- TAKE_NOTICE returns the selected record and removes it (R192). -/
def execTakeNotice (s : State) : Host.Outcome State Fault Refusal :=
  .next (answerOk 64 s.notices.answer { s with notices := s.notices.taken })

/-- PEEK_NOTICE returns the selected record and removes nothing (R192). -/
def execPeekNotice (s : State) : Host.Outcome State Fault Refusal :=
  .next (answerOk 65 s.notices.answer s)

end Sys2Proof.Machine
end

