-- ==== Sys2Proof/Machine/StationEvents.lean ====
section
/-! DEFINITION. The meanings of the events of the Station Controller and the Recital Unit. -/

namespace Sys2Proof.Machine

/-- PEER_SILENCE: a slot whose silence count has reached 3 or 8 becomes SILENT or ABSENT (R112). -/
def execPeerSilence (p : Fin 16) (s : State) : Host.Outcome State Fault Refusal := .next (silenceSlot p.val s)

/-- END_OF_LISTENING: a JOINING station whose listen count has reached 3 ends listening (R119). -/
def execEndOfListening (s : State) : Host.Outcome State Fault Refusal := .next (endListeningIfDue s)

/-- ADOPTION_REQUEST: a counting arrangement that has reached 0 asks for the adoption (R10, R116). -/
def execAdoptionRequest (s : State) : Host.Outcome State Fault Refusal := .next (requestIfDue s)

/-- RECITAL_TIMEOUT: an attempt whose wait count has reached 4 fails TIMEOUT (R134). -/
def execRecitalTimeout (s : State) : Host.Outcome State Fault Refusal := .next (timeoutIfDue s)

/-- RECITAL_ABANDON: a sending context whose index has failed four times, or whose station is not ACTIVE,
becomes absent (R131). -/
def execRecitalAbandon (s : State) : Host.Outcome State Fault Refusal :=
  .next (if s.station.state ≠ .active ∨ s.sending.any (fun c => decide (4 ≤ c.failed)) = true then abandonRecital s else s)

end Sys2Proof.Machine
end

