-- ==== Sys2Proof/Machine/Dispatch.lean ====
section
/-! DEFINITION. What each command does: one arm for each constructor of `Instr`. -/

namespace Sys2Proof.Machine

/-- The effect of a command on everything but the queue of commands. -/
def exec (i : Instr) (s : State) : Host.Outcome State Fault Refusal :=
  match i with
  | .nop => Sys2Proof.Machine.execNop s
  | .badCheck bytes => Sys2Proof.Machine.execBadCheck bytes s
  | .setPlan a => Sys2Proof.Machine.execSetPlan a s
  | .defineScale scale kind parent value custodian => Sys2Proof.Machine.execDefineScale scale kind parent value custodian s
  | .bindOutput n scale presentation w width policy => Sys2Proof.Machine.execBindOutput n scale presentation w width policy s
  | .setQuench group trigger polarity => Sys2Proof.Machine.execSetQuench group trigger polarity s
  | .setBaseLabel v => Sys2Proof.Machine.execSetBaseLabel v s
  | .setNoticeLevels selector level => Sys2Proof.Machine.execSetNoticeLevels selector level s
  | .start => Sys2Proof.Machine.execStart s
  | .proposeLeap scale kind turn => Sys2Proof.Machine.execProposeLeap scale kind turn s
  | .proposeOffset scale turn offset => Sys2Proof.Machine.execProposeOffset scale turn offset s
  | .proposeCustody scale custodian => Sys2Proof.Machine.execProposeCustody scale custodian s
  | .proposeWithdraw proposer seq => Sys2Proof.Machine.execProposeWithdraw proposer seq s
  | .readStatus => Sys2Proof.Machine.execReadStatus s
  | .readEntry pos => Sys2Proof.Machine.execReadEntry pos s
  | .readScale scale => Sys2Proof.Machine.execReadScale scale s
  | .readRoster p => Sys2Proof.Machine.execReadRoster p s
  | .readOutput n => Sys2Proof.Machine.execReadOutput n s
  | .setWidth n w => Sys2Proof.Machine.execSetWidth n w s
  | .releaseOutput n => Sys2Proof.Machine.execReleaseOutput n s
  | .rejoin => Sys2Proof.Machine.execRejoin s
  | .takeNotice => Sys2Proof.Machine.execTakeNotice s
  | .peekNotice => Sys2Proof.Machine.execPeekNotice s
  | .reset stn lrate => Sys2Proof.Machine.execReset stn lrate s
  | .lreset => Sys2Proof.Machine.execLreset s
  | .attChange high => Sys2Proof.Machine.execAttChange high s
  | .quenchAssertion g => Sys2Proof.Machine.execQuenchAssertion g s
  | .secinEdge ord => Sys2Proof.Machine.execSecinEdge ord s
  | .substitutedBoundary ord => Sys2Proof.Machine.execSubstitutedBoundary ord s
  | .windowExpiry id => Sys2Proof.Machine.execWindowExpiry id s
  | .peerSilence p => Sys2Proof.Machine.execPeerSilence p s
  | .endOfListening => Sys2Proof.Machine.execEndOfListening s
  | .adoptionRequest => Sys2Proof.Machine.execAdoptionRequest s
  | .recitalTimeout => Sys2Proof.Machine.execRecitalTimeout s
  | .lineSynchronised => Sys2Proof.Machine.execLineSynchronised s
  | .frameBegin => Sys2Proof.Machine.execFrameBegin s
  | .frameDefer => Sys2Proof.Machine.execFrameDefer s
  | .frameSent => Sys2Proof.Machine.execFrameSent s
  | .clash => Sys2Proof.Machine.execClash s
  | .frameAbandoned => Sys2Proof.Machine.execFrameAbandoned s
  | .rxFrameInvalid f => Sys2Proof.Machine.execRxFrameInvalid f s
  | .beacon sender body => Sys2Proof.Machine.execBeacon sender body s
  | .propose sender body => Sys2Proof.Machine.execPropose sender body s
  | .endorse sender body => Sys2Proof.Machine.execEndorse sender body s
  | .object sender body => Sys2Proof.Machine.execObject sender body s
  | .ratify sender body => Sys2Proof.Machine.execRatify sender body s
  | .reciteReq sender body => Sys2Proof.Machine.execReciteReq sender body s
  | .recital sender body => Sys2Proof.Machine.execRecital sender body s
  | .scaleState sender body => Sys2Proof.Machine.execScaleState sender body s
  | .recitalAbandon => Sys2Proof.Machine.execRecitalAbandon s
  | .outputSecondStart n => Sys2Proof.Machine.execOutputSecondStart n s
  | .pulseEnd n => Sys2Proof.Machine.execPulseEnd n s
  | .recordSent n => Sys2Proof.Machine.execRecordSent n s
  | .quenchInputInactive g => Sys2Proof.Machine.execQuenchInputInactive g s

end Sys2Proof.Machine
end

