-- ==== Sys2Proof/Machine/Tick.lean ====
section
/-! DEFINITION. One REFCLK tick, and the events that the part makes by itself once their condition holds (log entries 1 and 5). -/

namespace Sys2Proof.Machine

/-! ### A tick of REFCLK -/

/-- The bit time in ticks, by the line rate strap (R59). -/
def bitTicks (lrate : BitVec 2) : Nat :=
  match lrate.toNat with
  | 0 => 80
  | 1 => 40
  | 2 => 20
  | _ => 10

/-- The line at the end of a bit time, with the level read: the idle count rises in IDLE, the quiet count
rises or returns to 0 in HUNTING, a bit of the frame is read in TAKING until its end has been read, and the next
bit is sent in SENDING (R60, R65, R66, R69, R72). -/
def Line.bitEnd (l : Line) (recessive : Bool) : Line :=
  match l.state with
  | .detached => l
  | .taking => if (readFrame l.bits).isSome then l else { l with bits := l.bits ++ [recessive] }
  | .idle => { l with idle := l.idle + 1 }
  | .hunting => { l with quiet := if recessive then l.quiet + 1 else 0 }
  | .sending => { l with bitPos := l.bitPos + 1 }

/-- The line after one tick (R59). -/
def Line.tick (l : Line) (lrate : BitVec 2) (recessive : Bool) : Line :=
  if l.state = .detached then l
  else if bitTicks lrate ≤ l.phase + 1 then { l with phase := 0 }.bitEnd recessive
  else { l with phase := l.phase + 1 }

/-- An output after one tick: the second tick count of a RUNNING output, and the place within the record
under way (R155, R164). -/
def Output.advance (o : Output) : Output :=
  { o with
    tick := if o.running then o.tick + 1 else o.tick
    underWay := o.underWay.map fun u => { u with twelfths := u.twelfths + 12 } }

/-- The Base Clock after one tick (R2, R7). -/
def Clock.advance (c : Clock) : Clock := { c with tick := c.tick + 1, capElapsed := c.capElapsed + 1 }

/-- One tick of REFCLK. The level read on the line in HUNTING and TAKING, and the byte that the card clocks into the
port, are free values (log entries 7 and 40). -/
def tick (s : State) : State :=
  { s with
    clock := s.clock.advance
    line := s.line.tick s.pins.lrate (Config.lineLevel s.free)
    outputs := s.outputs.map Output.advance
    port := s.port.clocked (Config.clockedByte s.free)
    free := s.free + 1 }

/-! ### The events that are due -/

/-- A command where its condition holds. -/
def dueWhen (c : Bool) (i : Instr) : List Instr := if c then [i] else []

/-- The head frame's gap is reached, at the start of a bit time in IDLE (R69). -/
def State.beginDue (s : State) : Bool :=
  s.line.state == .idle && s.line.phase == 0 &&
    (match s.line.queue with
     | [] => false
     | f :: _ => s.gapReached f)

/-- The frame in transmission has been sent to its end (R73). -/
def State.sentDue (s : State) : Bool :=
  s.line.state == .sending && s.inTx.any fun f => decide (frameLength f < s.line.bitPos)

/-- The window of an entry has been reached (R97). -/
def Entry.expired (e : Entry) (label : Nat) : Bool :=
  e.state == .proposed && e.window.any fun w => decide (w ≤ label)

/-- A counting arrangement has reached 0 (R116). -/
def Adoption.countedDown : Adoption → Bool
  | .counting _ 0 => true
  | _ => false

/-- The sending context is to be abandoned (R131). -/
def State.recitalLost (s : State) : Bool :=
  s.sending.any fun c => decide (s.station.state ≠ .active) || decide (4 ≤ c.failed)

/-- The events of one output that are due (R157, R159, R164). -/
def State.outputsDue (s : State) (n : Fin 8) : List Instr :=
  dueWhen s.outputs[n].secondDue (.outputSecondStart n) ++
  dueWhen (s.outputs[n].pulseDue s.clock) (.pulseEnd n) ++
  dueWhen s.outputs[n].recordDue (.recordSent n)

/-- The events of the clock, the table and the station that are due. -/
def State.unitsDue (s : State) : List Instr :=
  dueWhen (decide (Config.substituteAt ≤ s.clock.tick)) (.substitutedBoundary (Config.boundaryOrder s.free)) ++
  (s.idsWhere fun e => e.expired s.clock.label).map Instr.windowExpiry ++
  ((List.finRange 16).filter fun p => (s.slot p.val).silenced.state != (s.slot p.val).state).map Instr.peerSilence ++
  dueWhen (s.station.state == .joining && decide (3 ≤ s.station.listen)) .endOfListening ++
  dueWhen s.station.adoption.countedDown .adoptionRequest ++
  dueWhen (s.receiving.any fun c => decide (4 ≤ c.wait)) .recitalTimeout ++
  dueWhen s.recitalLost .recitalAbandon

/-- The frame that the line has read to its end (R65). -/
def State.frameRead (s : State) : Option RawFrame := if s.line.state = .taking then readFrame s.line.bits else none

/-- The events of the line that are due. A frame read to its end is tested, and handed on where it passes. -/
def State.lineDue (s : State) : List Instr :=
  s.frameRead.toList.map Instr.rxFrameInvalid ++
  dueWhen (s.line.state == .hunting && decide (11 ≤ s.line.quiet)) .lineSynchronised ++
  dueWhen s.beginDue .frameBegin ++
  dueWhen s.sentDue .frameSent ++
  dueWhen (s.line.queue.any fun f => !f.inTx && decide (8 ≤ f.clash)) .frameAbandoned

/-- Every event that the part makes by itself and whose condition now holds. -/
def State.dueEvents (s : State) : List Instr :=
  s.unitsDue ++ s.lineDue ++ (List.finRange 8).flatMap s.outputsDue

/-- The event that is taken next; of several it is a free value (log entry 5). -/
def State.nextDue (s : State) : Option Instr := choose s.free s.dueEvents

/-! ### Verdicts on their way -/

/-- The first claim on its way is made: a ratification that is due, or else the oldest verdict (R85, R88); none where
none is on its way. -/
def State.verdictArrives (s : State) : Option State :=
  match s.verdicts with
  | [] => none
  | v :: vs => some (v.take { s with verdicts := vs })

end Sys2Proof.Machine
end

