-- ==== Sys2Proof/Machine/Step.lean ====
section
/-! DEFINITION. One step: the command at the front of the queue, or on an empty queue a verdict that arrives or a ratification that is due, an event that is due, or one tick of REFCLK. -/

namespace Sys2Proof.Machine

/-- What the part does by itself: a verdict on its way arrives or a ratification is made (R85, R88), an event that is
due is taken, or one tick of REFCLK passes (log entry 1). -/
def idleStep (s : State) : Host.Outcome State Fault Refusal :=
  match s.verdictArrives with
  | some t => .next t
  | none =>
    match s.nextDue with
    | some c => exec c s.drawn
    | none => .next (tick s)

/-- One step. -/
def step (s : State) : Host.Outcome State Fault Refusal :=
  match s.pending with
  | c :: rest => exec c { s with pending := rest }
  | [] => idleStep s

/-- The state with the command that a word spells put at the front of the queue. -/
def State.withFetchWord (s : State) (nbits w : Nat) : State :=
  match decodeTableWord nbits w with
  | some c => { s with pending := c :: s.pending }
  | none => s

end Sys2Proof.Machine
end

