-- ==== Sys2Proof/WellFormed.lean ====
section
/-! DEFINITION. When a command is well formed: the event or frame that it stands for can come about. `exec` gives every command its effect, well formed or not. -/

namespace Sys2Proof

open Sys2Proof.Machine

/-- The stages of a boundary order are the eight stages, each once. -/
def BoundaryOrder.wellFormed (o : BoundaryOrder) : Bool :=
  o.stages.length == Stage.all.length && Stage.all.all fun x => o.stages.contains x

/-- A raw frame has as many body bytes as its length field gives (R61, R65). -/
def RawFrame.wellFormed (f : RawFrame) : Bool := f.body.length == f.length.toNat

/-- A command is well formed. -/
def Instr.wellFormed : Instr → Bool
  | .badCheck bytes => !requestGood bytes
  | .secinEdge ord => ord.wellFormed
  | .substitutedBoundary ord => ord.wellFormed
  | .windowExpiry id => decide (id.proposer ≤ 15)
  | .rxFrameInvalid f => f.wellFormed
  | .beacon _ body => lengthPermitted .beacon body
  | .propose _ body => lengthPermitted .propose body.arg
  | .endorse _ body => lengthPermitted .endorse body
  | .object _ body => lengthPermitted .object body
  | .ratify _ body => lengthPermitted .ratify body
  | .reciteReq _ body => lengthPermitted .reciteReq body
  | .recital _ body => lengthPermitted .recital body
  | .scaleState _ body => lengthPermitted .scaleState body
  | _ => true

end Sys2Proof
end

