-- ==== Sys2Proof/Safety.lean ====
section
/-! DEFINITION. The vocabulary of statements about the part, and its invariants, each from the rule that states it. -/

namespace Sys2Proof.Machine

/-! ### What a step may change -/

/-- The parts of the state. -/
inductive Part where
  | pins
  | clock
  | plan
  | quorum
  | planDigest
  | scales
  | table
  | line
  | station
  | roster
  | sending
  | receiving
  | verdicts
  | report
  | outputs
  | qaCfg
  | qbCfg
  | port
  | notices
  | free
  | serial
  | pending
  deriving DecidableEq, Repr

/-- Two states have the same value in a part. -/
def agreesOn (s t : State) : Part → Prop
  | .pins => t.pins = s.pins
  | .clock => t.clock = s.clock
  | .plan => t.plan = s.plan
  | .quorum => t.quorum = s.quorum
  | .planDigest => t.planDigest = s.planDigest
  | .scales => t.scales = s.scales
  | .table => t.table = s.table
  | .line => t.line = s.line
  | .station => t.station = s.station
  | .roster => t.roster = s.roster
  | .sending => t.sending = s.sending
  | .receiving => t.receiving = s.receiving
  | .verdicts => t.verdicts = s.verdicts
  | .report => t.report = s.report
  | .outputs => t.outputs = s.outputs
  | .qaCfg => t.qaCfg = s.qaCfg
  | .qbCfg => t.qbCfg = s.qbCfg
  | .port => t.port = s.port
  | .notices => t.notices = s.notices
  | .free => t.free = s.free
  | .serial => t.serial = s.serial
  | .pending => t.pending = s.pending

/-- From `s` to `t` no part changes but those listed. -/
def ChangesOnly (ps : List Part) (s t : State) : Prop := ∀ p, p ∉ ps → agreesOn s t p

/-! ### Answers of the port -/

/-- The port holding an answer (R183). -/
def Port.answer (code : Byte) (st : Status) (reason : Nat) (d : Data) : Port :=
  { held := some { code := code, status := st, reason := reason, data := d }, reading := [] }

/-- The port holding OK with no data. -/
def okPort (code : Byte) : Port := Port.answer code .ok 0 .none

/-- The port holding a refusing status with no data. -/
def refusedPort (code : Byte) (st : Status) : Port := Port.answer code st 0 .none

/-! ### Requests -/

/-- The sum of bytes as numbers. -/
def byteSum (bytes : List Byte) : Nat := (bytes.map BitVec.toNat).sum

/-- The bytes of a transaction are no request: none, of an unknown code, too few, or with a failing check
(R184). -/
def noRequest (bytes : List Byte) : Prop :=
  bytes = [] ∨
  ∃ c rest, bytes = c :: rest ∧
    (requestBody c.toNat = none ∨
     ∃ b, requestBody c.toNat = some b ∧ (bytes.length < b + 2 ∨ byteSum (bytes.take (b + 2)) % 256 ≠ 0))

/-- Check `c` of START fails with item `i` (R187). -/
def startCheckFails (s : State) (c i : Nat) : Prop :=
  (c = 1 ∧ i = s.pins.stn ∧ s.plan.n ≤ s.pins.stn) ∨
  (c = 2 ∧ 1 ≤ i ∧ i ≤ 5 ∧ (s.scale i).kind = .localScale ∧ (s.scale ((s.scale i).parent.getD 0)).kind ≠ .civil) ∨
  (c = 3 ∧ 1 ≤ i ∧ i ≤ 5 ∧ ∃ k, (s.scale i).custodian = some k ∧ s.plan.n ≤ k) ∨
  (c = 4 ∧ ∃ n : Fin 8, i = n.val ∧ ∃ b, s.outputs[n].binding = some b ∧ b.scale ≠ 0 ∧ (s.scale b.scale).kind = .undefined) ∨
  (c = 5 ∧ ∃ n : Fin 8, i = n.val ∧ ∃ b w, s.outputs[n].binding = some b ∧ b.presentation = .smear w ∧ s.plan.h < w + 1)

/-- The code of a local proposal request (R188). -/
def proposalCode : Instr → Option Byte
  | .proposeLeap .. => some 16
  | .proposeOffset .. => some 17
  | .proposeCustody .. => some 18
  | .proposeWithdraw .. => some 19
  | _ => none

/-- When the verdict on the proposal of a local proposal request is taken (R88; log entries 27 and 49). -/
def proposalVerdict : Instr → VerdictTime
  | .proposeLeap _ _ turn => turn.verdict
  | .proposeOffset _ _ offset => offset.verdict
  | .proposeCustody _ custodian => custodian.verdict
  | .proposeWithdraw _ seq => seq.verdict
  | _ => .atOnce

/-- The record that a local proposal request forms with a sequence; none where an argument is out of its
range (R83, R188, R189). -/
def proposalRecord (stn : Nat) (q : Word) : Instr → Option Record
  | .proposeLeap scale kind turn =>
    if kind = 1 then
      some { id := ⟨stn, q⟩, kind := .leapAdd, scale := some scale.toNat, turn := some turn.arg.toNat, value := none, target := none }
    else if kind = 2 then
      some { id := ⟨stn, q⟩, kind := .leapDrop, scale := some scale.toNat, turn := some turn.arg.toNat, value := none, target := none }
    else none
  | .proposeOffset scale turn offset =>
    some { id := ⟨stn, q⟩, kind := .offsetSet, scale := some scale.toNat, turn := some turn.toNat,
           value := some offset.arg.toInt, target := none }
  | .proposeCustody scale custodian =>
    some { id := ⟨stn, q⟩, kind := .custody, scale := some scale.toNat, turn := none,
           value := some (custodian.arg.toNat : Int), target := none }
  | .proposeWithdraw proposer seq =>
    if proposer.toNat ≤ 15 then
      some { id := ⟨stn, q⟩, kind := .withdraw, scale := none, turn := none, value := none,
             target := some ⟨proposer.toNat, seq.arg⟩ }
    else none
  | _ => none

/-- The sequence `q` is the first from the next sequence on, wrapping, under which no own entry is held
(R26, step 3). -/
def sequenceFound (s : State) (q : Word) : Prop :=
  ∃ k : Nat, k ≤ s.held ∧ q = s.table.nextSeq + BitVec.ofNat 16 k ∧ s.holds ⟨s.pins.stn, q⟩ = false ∧
    ∀ j < k, s.holds ⟨s.pins.stn, s.table.nextSeq + BitVec.ofNat 16 j⟩ = true

/-! ### The calendar (R16) -/

/-- The calendar form of a count: whole years from 2000 on, the day of the year, and the time of day (R16). -/
def dated (c : Int) (f : CalForm) : Prop :=
  2000 ≤ f.year ∧ f.year ≤ 2199 ∧ 1 ≤ f.day ∧ f.day ≤ yearLength f.year ∧ f.hour < 24 ∧ f.minute < 60 ∧ f.second < 60 ∧
  c = (((((List.range (f.year - 2000)).map fun k => yearLength (2000 + k)).sum + (f.day - 1)) * 86400 +
    f.hour * 3600 + f.minute * 60 + f.second : Nat) : Int)

/-- The day of a calendar form lies in month `m` (R16). -/
def inMonth (f : CalForm) (m : Nat) : Prop :=
  1 ≤ m ∧ m ≤ 12 ∧ ((monthLengths f.year).take (m - 1)).sum < f.day ∧ f.day ≤ ((monthLengths f.year).take m).sum

/-- The day of a calendar form is the last of its month (R16). -/
def endsMonth (f : CalForm) : Prop := ∃ m, inMonth f m ∧ f.day = ((monthLengths f.year).take m).sum

/-! ### Screening -/

/-- The custodian of a scale bars a proposer: another station, which is this one or one not ABSENT here (R46). -/
def custodyBars (s : State) (scale proposer : Nat) : Prop :=
  ∃ c, (s.scale scale).custodian = some c ∧ c ≠ proposer ∧ (c = s.pins.stn ∨ (s.slot c).state ≠ .absent)

/-- A turn's APPLYING start falls within the window of a receiver (R48). -/
def startsTooSoon (s : State) (turn : Nat) : Prop :=
  (turn : Int) - s.plan.h ≤ (s.clock.label : Int) + s.plan.e + 2

/-- The fixed rule of a reason fails for a record (R45 to R52). -/
def fixedFails (s : State) (r : Record) : Reason → Prop
  | .kindMismatch =>
    ∃ k, r.scale = some k ∧
      ((r.kind = .leapAdd ∧ (s.scale k).kind ≠ .civil) ∨ (r.kind = .leapDrop ∧ (s.scale k).kind ≠ .civil) ∨
       (r.kind = .offsetSet ∧ (s.scale k).kind ≠ .localScale) ∨ (r.kind = .custody ∧ (s.scale k).kind = .undefined))
  | .notCustodian =>
    (∃ k, r.scale = some k ∧ custodyBars s k r.id.proposer) ∨
    ∃ x e, r.target = some x ∧ s.find x = some e ∧ e.id.proposer ≠ r.id.proposer ∧
      ∀ k, e.scale = some k → custodyBars s k r.id.proposer
  | .tooLate =>
    (∃ x, r.turn = some x ∧ startsTooSoon s x) ∨
    ∃ x e, r.target = some x ∧ s.find x = some e ∧ (e.state = .applying ∨ ∃ y, e.turn = some y ∧ startsTooSoon s y)
  | .tooFar => ∃ x, r.turn = some x ∧ s.clock.label + 34560000 < x
  | .spacing =>
    ∃ e ∈ s.table.entries, e.id ≠ r.id ∧ ∃ x y k m c, r.turn = some x ∧ e.turn = some y ∧ r.scale = some k ∧
      e.scale = some m ∧ s.family k = some c ∧ s.family m = some c ∧ x ≤ y + s.plan.h ∧ y ≤ x + s.plan.h
  | .unknownTarget => ∃ x, r.target = some x ∧ ∀ e ∈ s.table.entries, e.id ≠ x
  | .duplicateId => ∃ e ∈ s.table.entries, e.id = r.id
  | .tableFull => 16 ≤ s.held ∨ (r.kind ≠ .withdraw ∧ 16 - s.plan.u ≤ otherCount s.table.entries)
  | _ => False

/-- The number of settled entries of a kind on the family of CIVIL scale `c` whose turns pass a test. -/
def settledCount (s : State) (kind : Kind) (c : Nat) (p : Nat → Bool) : Nat :=
  s.table.entries.countP fun e =>
    e.settled && e.kind == kind && e.scale.any (fun k => s.family k == some c) && e.turn.any p

/-- The lag that CIVIL scale `c` will have at the base second before a turn, by the settled leaps on its family (R53). -/
def lagBefore (s : State) (c turn : Nat) : Int :=
  (s.scale c).value + settledCount s .leapAdd c (fun t => decide (t + 2 ≤ turn)) -
    settledCount s .leapDrop c (fun t => decide (t + 1 ≤ turn))

/-- The offset that LOCAL scale `k` will have at the base second before a turn: that of the latest settled OFFSET_SET
before the turn, or the present one (R53). -/
def offsetBefore (s : State) (k turn : Nat) (offset : Int) : Prop :=
  let sets (e : Entry) (t : Nat) : Prop :=
    e ∈ s.table.entries ∧ e.settled = true ∧ e.kind = .offsetSet ∧ e.scale = some k ∧ e.turn = some t ∧ t < turn
  (∃ e t, sets e t ∧ e.value = some offset ∧ ∀ e' t', sets e' t' → t' ≤ t) ∨
  ((∀ e t, ¬ sets e t) ∧ offset = (s.scale k).value)

/-- The calendar form of a CIVIL or LOCAL scale at the base second before a turn; there is none when it is UNDATED
(R53). -/
def datedBefore (s : State) (k turn : Nat) (f : CalForm) : Prop :=
  ((s.scale k).kind = .civil ∧ dated ((turn : Int) - 1 - lagBefore s k turn) f) ∨
  ∃ p offset, (s.scale k).kind = .localScale ∧ (s.scale k).parent = some p ∧ offsetBefore s k turn offset ∧
    dated ((turn : Int) - 1 - lagBefore s p turn + offset) f

/-- A configurable rule fails for a record (R44, R54 to R56). -/
def cfgFails (s : State) (r : Record) (rule : CfgRule) : Prop :=
  ∃ k turn, r.scale = some k ∧ r.turn = some turn ∧
    match rule with
    | .monthEnd =>
      (r.kind = .leapAdd ∨ r.kind = .leapDrop) ∧
      ∀ f, datedBefore s k turn f →
        ¬ (endsMonth f ∧ f.hour = 23 ∧ f.minute = 59 ∧ f.second = if r.kind = .leapAdd then 59 else 58)
    | .halfYear => (r.kind = .leapAdd ∨ r.kind = .leapDrop) ∧ ∀ f, datedBefore s k turn f → ¬ (inMonth f 6 ∨ inMonth f 12)
    | .leadMin => (turn : Int) - s.clock.label < s.plan.lmin
    | .leadAdvise => (turn : Int) - s.clock.label < s.plan.la
    | .offsetStep =>
      r.kind = .offsetSet ∧ ∃ offset value, offsetBefore s k turn offset ∧ r.value = some value ∧
        s.plan.step < (value - offset).natAbs
    | .minuteAlign => r.kind = .offsetSet ∧ ∀ f, datedBefore s k turn f → f.second ≠ 59

/-! ### Frames and notices -/

/-- A frame may be valid here: the line reads it and its sender is another station of the shelf (R65, R67). -/
def audible (s : State) (k : FrameKind) (sender : BitVec 4) (body : List Byte) : Prop :=
  s.hears (soundFrame (frameClass k body) sender.toNat k body) = true ∧ sender.toNat ≠ s.pins.stn ∧
    sender.toNat < s.plan.n

/-- The state once a valid frame has ended: the line is IDLE and the sender reported (R65, R68, R111). -/
def afterReport (s : State) (sender : BitVec 4) : State :=
  reportSender sender.toNat (s.setLine (s.line.toIdle 0))

/-- From `s` to `t` the notices differ by one notice raised at the label of `s` (R191). -/
def raised (n : Notice) (s t : State) : Prop :=
  t.notices = { s.notices with pending := addNotice n s.clock.label s.notices.pending }

/-- A notice of a kind is pending (R191). -/
def noticed (t : State) (k : NoticeKind) : Prop := ∃ p ∈ t.notices.pending, p.notice.kind = k

/-! ### Boundaries and evaluations -/

/-- From `s` to `t` a shelf of one station stores a local proposal as PROPOSED with its window, raises STORED and then
FLAGGED where there are flags, answers OK, and has the ratification still to make (R26, R57, R83, R85). -/
def storedAlone (code : Byte) (r : Record) (flags : List CfgRule) (s t : State) : Prop :=
  let stored := addNotice (.stored r.id r.kind .ownPort .proposed) s.clock.label s.notices.pending
  t.find r.id = some
    { r with state := .proposed, endorsers := BitVec.twoPow 16 s.pins.stn, flags := flags,
             window := some (s.clock.label + s.plan.e), stamp := s.table.nextStamp, mark := .none } ∧
  (∀ y, y ≠ r.id → t.find y = s.find y) ∧
  t.notices = { s.notices with
    pending := if flags = [] then stored else addNotice (.flagged r.id flags) s.clock.label stored } ∧
  t.port = Port.answer code .ok 0 (.proposal r.id flags) ∧
  t.verdicts = claimNext r.id s.verdicts

/-- The command makes a base-second boundary: a SECIN edge taken UNPHASED, within the acceptance window, or as the
spurious edge that recaptures, and a substituted boundary at its tick count (R2, R4, R6, R7). -/
def makesBoundary (s : State) : Instr → Prop
  | .secinEdge _ =>
    s.clock.phased = false ∨ (9999900 ≤ s.clock.tick ∧ s.clock.tick ≤ 10000100) ∨
    (s.clock.tick < 9999900 ∧ s.clock.lock = .free ∧ 3 ≤ s.clock.capRun ∧
      9999900 ≤ s.clock.capElapsed ∧ s.clock.capElapsed ≤ 10000100)
  | .substitutedBoundary _ => 10000100 ≤ s.clock.tick
  | _ => False

/-- The label after the present one, wrapping at 2^40 (R8). -/
def nextLabel (s : State) : Nat := (s.clock.label + 1) % 2 ^ 40

/-- A time-code record of scale `k` shows the calendar form of a count, with second 60 where `sixty` says so and as
UNDATED out of range, the value, warnings and days to turn of the scale, and the flags given (R161, R162). -/
def recordShows (t : State) (k : Nat) (count : Int) (sixty smearing held changed realigned : Prop)
    (bytes : List Byte) : Prop :=
  let flag (j : Nat) : Prop := ((bytes[12]?).getD 0).getLsbD j = true
  let undated : Prop := count < 0 ∨ 6311433600 ≤ count
  let turns : List Nat :=
    ((t.warningFor k).toList.map fun w => w.turn) ++ ((t.offsetPending k).toList.map fun p => p.turn)
  (¬ undated → ∃ f, dated count f ∧ field bytes 2 2 = f.year ∧ field bytes 4 2 = f.day ∧ field bytes 6 1 = f.hour ∧
    field bytes 7 1 = f.minute ∧ (sixty → field bytes 8 1 = 60) ∧ (¬ sixty → field bytes 8 1 = f.second)) ∧
  (undated → field bytes 2 7 = 0) ∧
  (field bytes 9 3 : Int) = (if k = 0 then 0 else (t.scale k).value) % 16777216 ∧
  (flag 0 ↔ ∃ w, t.warningFor k = some w ∧ w.add = true) ∧ (flag 1 ↔ ∃ w, t.warningFor k = some w ∧ w.add = false) ∧
  (flag 2 ↔ ∃ p, t.offsetPending k = some p) ∧ (flag 3 ↔ smearing) ∧ (flag 4 ↔ held) ∧ (flag 5 ↔ changed) ∧
  (flag 6 ↔ realigned) ∧ (flag 7 ↔ undated) ∧
  field bytes 13 1 = t.station.state.code + (if t.clock.lock = .locked then 8 else 0) ∧
  (turns = [] → field bytes 14 1 = 255) ∧
  (t.plan.d ≤ 31 → ∀ x ∈ turns, (∀ y ∈ turns, x ≤ y) → field bytes 14 1 = (x - t.clock.label) / 86400)

/-- A side of an evaluation is outvoted: the other side is larger, or as large with the lowest number (R113). -/
def outvoted (own other : List Nat) : Prop :=
  own.length < other.length ∨ (own.length = other.length ∧ ∃ q ∈ other, ∀ p ∈ own, q < p)

/-- The table is the same but for announcement marks (R81). -/
def sameButMarks (s t : State) : Prop :=
  t.table.entries.map (fun e => { e with mark := .none }) = s.table.entries.map (fun e => { e with mark := .none }) ∧
  t.table.nextStamp = s.table.nextStamp ∧ t.table.version = s.table.version ∧ t.table.nextSeq = s.table.nextSeq

/-- From `s` to `t` the unit that queued a frame was told that it did not leave the line, as ABANDONED or else as PURGED:
the owed announcement is due again (R81), the request of the attempt is DUE (R126), and the recital of the frame counts
one more failed offer below 4, or is abandoned (R130, R131). -/
def toldUnsent (abandoned : Bool) (f : Frame) (s t : State) : Prop :=
  let due (queued due : Mark) : Prop := ∀ id, f.ident = some id →
    (∀ e, s.find id = some e → t.find id = some (if e.mark = queued then { e with mark := due } else e)) ∧
    (∀ x, x ≠ id → t.find x = s.find x) ∧ sameButMarks s t
  (f.kind = .propose → due .proposeQueued .proposeDue) ∧
  (f.kind = .ratify → due .ratifyQueued .ratifyDue) ∧
  ((f.kind ≠ .propose ∧ f.kind ≠ .ratify) ∨ f.ident = none → t.table = s.table) ∧
  t.receiving = (s.receiving.map fun c =>
    if f.kind = .reciteReq ∧ c.serial = f.serial then { c with req := .due } else c) ∧
  t.sending = s.sending.bind fun c =>
    if (f.kind = .recital ∨ f.kind = .scaleState) ∧ c.serial = f.serial then
      if abandoned = true ∧ c.failed < 3 then some { c with offer := .due, failed := c.failed + 1 } else none
    else some c

/-! ### Invariants -/

/-- START has been taken. -/
abbrev State.started (s : State) : Prop := s.station.state ≠ .unconfigured

/-- Before START the line is DETACHED and no entry is held, and after it the line is not DETACHED (R60, R41). -/
abbrev Quiescent (s : State) : Prop :=
  (s.line.state = .detached ↔ s.station.state = .unconfigured) ∧ (s.started ∨ s.table.entries = [])

/-- The Base Clock keeps its ranges, LOCKED is an accepted run of 4, an UNPHASED clock has no run, and a base
second ends at the latest at the substituted boundary (R1, R4 to R6). -/
abbrev ClockBounded (s : State) : Prop :=
  s.clock.label < labelSpan ∧ s.clock.tick ≤ Config.substituteAt ∧ s.clock.run ≤ 4 ∧ s.clock.capRun ≤ 3 ∧
  (s.clock.lock = .locked ↔ s.clock.run = 4) ∧ (s.clock.phased = false → s.clock.run = 0) ∧
  ∀ p ∈ s.clock.pendingLabel, p.origin = .setting → p.value < labelSpan

/-- The transmit queue keeps its limits and its order (R76). -/
abbrev QueueBounded (s : State) : Prop :=
  s.line.queue.length ≤ 12 ∧ lowCount s.line.queue ≤ 10 ∧ s.line.queue.Pairwise fun f g => g.cls ≤ f.cls

/-- At most one frame is in transmission, and one is exactly while the line is SENDING (R60, R76). -/
abbrev OneInTransmission (s : State) : Prop :=
  (s.line.queue.countP fun f => f.inTx) = if s.line.state = .sending then 1 else 0

/-- Turnless entries stand before scheduled ones, and those in ascending turn (R37). -/
def turnOrdered (a b : Entry) : Bool :=
  match a.turn, b.turn with
  | none, _ => true
  | some _, none => false
  | some x, some y => decide (x ≤ y)

/-- The table holds no identifier twice, keeps its capacity and keeps its order (R25, R27, R37). -/
abbrev TableBounded (s : State) : Prop :=
  (s.table.entries.map fun e => e.id).Nodup ∧ s.table.entries.length ≤ 16 ∧
  otherCount s.table.entries ≤ 16 - s.plan.u ∧ s.table.entries.Pairwise fun a b => turnOrdered a b = true

/-- No two settled entries of one family have turns within H of each other (R32). -/
abbrev SettledApart (s : State) : Prop :=
  s.table.entries.Pairwise fun a b => a.settled = true → b.settled = true → s.conflicts a.toRecord b.toRecord = false

/-- N is at most 16 and E at least 2, and from START on this station is one of N and Q is the quorum
(R81, R185, R187). -/
abbrev ShelfFixed (s : State) : Prop :=
  s.plan.n ≤ 16 ∧ 2 ≤ s.plan.e ∧ (s.started → s.pins.stn < s.plan.n ∧ s.quorum = s.plan.n / 2 + 1)

/-- Every entry's fields suit its kind, its endorsers are stations of the shelf with the proposer among
them, and a settled entry has at least Q of them (R23, R94). -/
abbrev EntriesSound (s : State) : Prop :=
  ∀ e ∈ s.table.entries,
    e.toRecord.fieldsOk s.plan.n = true ∧ endorsersOk s.plan.n e.id.proposer e.endorsers = true ∧
    (e.settled = true → s.quorum ≤ countStations e.endorsers)

/-- A PROPOSED entry has a window ahead of the label, and a settled one has none (R22, R29, R97). -/
def windowAhead (label : Nat) (e : Entry) : Bool :=
  match e.window with
  | some w => e.state == .proposed && decide (label < w)
  | none => e.settled

/-- A verdict on its way is on a record whose fields suit its kind, of a station of the shelf, and of this station
where it answers a local proposal; a ratification on its way is of an own entry on a shelf of one (R23, R83, R85, R86,
R88). -/
def PendingVerdict.sound (stn n : Nat) : PendingVerdict → Bool
  | .line r _ => r.fieldsOk n && decide (r.id.proposer < n)
  | .port _ r _ => r.fieldsOk n && decide (r.id.proposer = stn)
  | .ratify id => decide (id.proposer = stn) && decide (n ≤ 1)

/-- Verdicts are on their way only after START, each on a sound record (R43, R88). -/
abbrev VerdictsSound (s : State) : Prop :=
  (s.started ∨ s.verdicts = []) ∧ ∀ v ∈ s.verdicts, v.sound s.pins.stn s.plan.n = true

/-- Every window is ahead of the label (R29, R97). -/
abbrev WindowsAhead (s : State) : Prop := ∀ e ∈ s.table.entries, windowAhead s.clock.label e = true

/-- The state of a scale keeps its range, and after START its custodian is NONE or below N (R13, R14). -/
abbrev scaleSound (started : Prop) (n : Nat) (sc : Scale) : Prop :=
  (sc.kind = .civil → -255 ≤ sc.value ∧ sc.value ≤ 255) ∧
  (sc.kind = .localScale → -86400 ≤ sc.value ∧ sc.value ≤ 86400) ∧
  (started → ∀ c ∈ sc.custodian, c < n)

/-- The scales keep their ranges (R13, R14). -/
abbrev ScalesSound (s : State) : Prop := ∀ sc ∈ s.scales.toList, scaleSound s.started s.plan.n sc

/-- The roster slots for this station's own number and for numbers at or above N are ABSENT (R110). -/
abbrev RosterSound (s : State) : Prop :=
  (s.slot s.pins.stn).state = .absent ∧
  ∀ p : Fin 16, (s.plan.n ≤ p.val ∨ s.station.state = .unconfigured) → (s.slot p.val).state = .absent

/-- The pending set holds each kind at most once, with a count from 1 to 255 (R191). -/
abbrev NoticesBounded (s : State) : Prop :=
  (s.notices.pending.map fun p => p.notice.kind).Nodup ∧ ∀ p ∈ s.notices.pending, 1 ≤ p.count ∧ p.count ≤ 255

/-- A quenched output holds SPn low and owes no record, and a release is pending only on a quenched output
(R167, R168). -/
abbrev outputSound (o : Output) : Prop :=
  (o.latch.set = true → o.sp = false ∧ o.owed = none) ∧ (o.releasePending = true → o.latch.set = true)

/-- The outputs keep the quench rules (R167, R168). -/
abbrev OutputsQuenched (s : State) : Prop := ∀ n : Fin 8, outputSound s.outputs[n]

/-- A recital is sent only in ACTIVE, and its two audiences are disjoint; one is received only in RECEIVING,
with origin JOINING, or in ACTIVE, with another origin (R125, R131, R139). -/
abbrev ContextsPlaced (s : State) : Prop :=
  (∀ c ∈ s.sending, s.station.state = .active ∧ c.audience &&& c.deferred = 0) ∧
  ∀ c ∈ s.receiving,
    (s.station.state = .receiving ∧ c.origin = .joining) ∨ (s.station.state = .active ∧ c.origin ≠ .joining)

/-- The discord history holds at most two results, and a JOINING station has taken at most two beacon times
(R105, R118). -/
abbrev StationBounded (s : State) : Prop :=
  s.station.history.length ≤ 2 ∧ (s.station.state = .joining → s.station.listen ≤ 2)

end Sys2Proof.Machine
end

