-- ==== Sys2Proof/Certificates/Slice0/Obligations.lean ====
section
/-! DEFINITION. The statements about the part: each command's result, what it leaves, and the invariants of the part. -/

open Sys2Proof Sys2Proof.Machine

/-! ### Steps -/

/-- A step takes the command at the front of the queue and runs it on the rest (log entry 1). -/
def Obligations.StepRunsTheFrontCommand : Prop :=
  ∀ (s : State) (c : Instr) (rest : List Instr),
    s.pending = c :: rest → step s = exec c { s with pending := rest }

/-- Every command answers a next state and leaves the queue of commands as it stands, RESET too. The queue, and that
RESET leaves it, are the model's own choice (log entries 1 and 30). -/
def Obligations.EveryCommandAnswersAndLeavesTheQueue : Prop :=
  ∀ (c : Instr) (s : State), ∃ t, exec c s = .next t ∧ t.pending = s.pending

/-- On an empty queue (log entry 1: the model's choice) the first claim on its way is made: a verdict arrives, or a
ratification of log entry 49 is made. Where none is on its way and no event is due, a tick passes: the tick counts rise,
records advance by twelve twelfths of a tick, and at the end of a bit time of 80, 40, 20 or 10 ticks the idle count
rises in IDLE, the bit position in SENDING, the quiet count rises or returns to 0 in HUNTING, and a bit is read in
TAKING. An event that alone is due is taken (R2, R59, R65, R66, R69, R88, R155, R164). -/
def Obligations.IdlePartLetsATickPass : Prop :=
  ∀ s : State, s.pending = [] →
    let bitTime : Nat := 80 / 2 ^ s.pins.lrate.toNat
    (∀ v vs, s.verdicts = v :: vs → step s = .next (v.take { s with verdicts := vs })) ∧
    (s.verdicts = [] → s.dueEvents = [] →
      ∃ t, step s = .next t ∧ t.clock = { s.clock with tick := s.clock.tick + 1, capElapsed := s.clock.capElapsed + 1 } ∧
        t.port.held = s.port.held ∧
        (∀ n : Fin 8, t.outputs[n] =
          { s.outputs[n] with
            tick := if s.outputs[n].running then s.outputs[n].tick + 1 else s.outputs[n].tick
            underWay := s.outputs[n].underWay.map fun u => { bytes := u.bytes, twelfths := u.twelfths + 12 } }) ∧
        (s.line.state = .detached → t.line = s.line) ∧
        (s.line.state ≠ .detached → s.line.phase + 1 < bitTime → t.line = { s.line with phase := s.line.phase + 1 }) ∧
        (bitTime ≤ s.line.phase + 1 →
          (s.line.state = .idle → t.line = { s.line with phase := 0, idle := s.line.idle + 1 }) ∧
          (s.line.state = .sending → t.line = { s.line with phase := 0, bitPos := s.line.bitPos + 1 }) ∧
          (s.line.state = .hunting → ∃ recessive : Bool,
            t.line = { s.line with phase := 0, quiet := if recessive then s.line.quiet + 1 else 0 }) ∧
          (s.line.state = .taking → ∃ recessive : Bool,
            t.line = { s.line with phase := 0, bits := s.line.bits ++ [recessive] })) ∧
        ChangesOnly [.clock, .line, .outputs, .port, .free] s t) ∧
    ∀ c, s.verdicts = [] → s.dueEvents = [c] → step s = exec c { s with free := s.free + 1 }

/-! ### The request port -/

/-- NOP empties the held response; bytes that are no request are held as BAD_CHECK with the code as read, a
free value where no whole byte was read (R184; log entry 8). -/
def Obligations.NopAndBadCheckSetTheHeldResponse : Prop :=
  ∀ s : State,
    exec .nop s = .next { s with port := { held := none, reading := [] } } ∧
    ∀ bytes, noRequest bytes →
      (∀ c rest, bytes = c :: rest → exec (.badCheck bytes) s = .next { s with port := refusedPort c .badCheck }) ∧
      (bytes = [] → ∃ c t, exec (.badCheck bytes) s = .next t ∧ t.port = refusedPort c .badCheck ∧
        ChangesOnly [.port, .free] s t)

/-- After START every configuration request is answered STATE and changes nothing. Before it SET_QUENCH gives a group its
trigger and polarity; SET_BASE_LABEL makes a value the pending label with origin SETTING; SET_NOTICE_LEVELS sets the
threshold or one level; arguments out of range change nothing (R9, R165, R185, R186). -/
def Obligations.SettingsAreLoadedOnlyUnconfigured : Prop :=
  (∀ s : State, s.started →
    (∀ a, exec (.setPlan a) s = .next { s with port := refusedPort 1 .state }) ∧
    (∀ k kind p v c, exec (.defineScale k kind p v c) s = .next { s with port := refusedPort 2 .state }) ∧
    (∀ n k p w x y, exec (.bindOutput n k p w x y) s = .next { s with port := refusedPort 3 .state }) ∧
    (∀ g t p, exec (.setQuench g t p) s = .next { s with port := refusedPort 4 .state }) ∧
    (∀ v, exec (.setBaseLabel v) s = .next { s with port := refusedPort 5 .state }) ∧
    (∀ k l, exec (.setNoticeLevels k l) s = .next { s with port := refusedPort 6 .state })) ∧
  ∀ s : State, s.station.state = .unconfigured →
    (∀ g t p : Byte, ∀ e l : Bool, t.toNat = e.toNat → p.toNat = l.toNat →
      (g.toNat = 0 → exec (.setQuench g t p) s = .next { s with qaCfg := { edge := e, activeLow := l }, port := okPort 4 }) ∧
      (g.toNat = 1 → exec (.setQuench g t p) s = .next { s with qbCfg := { edge := e, activeLow := l }, port := okPort 4 })) ∧
    (∀ g t p : Byte, 1 < g.toNat ∨ 1 < t.toNat ∨ 1 < p.toNat →
      exec (.setQuench g t p) s = .next { s with port := refusedPort 4 .range }) ∧
    (∀ v, exec (.setBaseLabel v) s = .next
      { s with clock := { s.clock with pendingLabel := some { value := v.toNat, origin := .setting } }, port := okPort 5 }) ∧
    (∀ k l : Byte, l.toNat ≤ 7 →
      (k.toNat = 0 → exec (.setNoticeLevels k l) s = .next
        { s with notices := { s.notices with threshold := l.toNat }, port := okPort 6 }) ∧
      (1 ≤ k.toNat → k.toNat ≤ 23 → exec (.setNoticeLevels k l) s = .next
        { s with notices := { s.notices with levels := s.notices.levels.setIfInBounds (k.toNat - 1) l.toNat }
                 port := okPort 6 })) ∧
    ∀ k l : Byte, 23 < k.toNat ∨ 7 < l.toNat → exec (.setNoticeLevels k l) s = .next { s with port := refusedPort 6 .range }

/-- SET_PLAN replaces the whole plan where every item lies in its range, and changes nothing otherwise
(R185, R189). -/
def Obligations.SetPlanReplacesTheWholePlan : Prop :=
  ∀ (s : State) (a : PlanArgs), s.station.state = .unconfigured →
    (∀ x1 x2 x3 x4 x5 x6 : RuleAction,
      a.s1.toNat = x1.code → a.s2.toNat = x2.code → a.s3.toNat = x3.code → a.s4.toNat = x4.code →
      a.s5.toNat = x5.code → a.s6.toNat = x6.code →
      1 ≤ a.n.toNat → a.n.toNat ≤ 16 → a.b.toNat ∈ [1, 2, 4, 8] → 2 ≤ a.e.toNat → a.e.toNat ≤ 120 →
      2 ≤ a.h.toNat → a.h.toNat ≤ 86400 → 1 ≤ a.d.toNat → a.d.toNat ≤ 31 → a.u.toNat ≤ 4 →
      a.lmin.toNat ≤ 16777216 → a.la.toNat ≤ 16777216 → 1 ≤ a.step.toNat → a.step.toNat ≤ 86400 →
      ∀ en : Bool, a.adopt.toNat = en.toNat →
      exec (.setPlan a) s = .next
        { s with
          plan := { n := a.n.toNat, b := a.b.toNat, e := a.e.toNat, h := a.h.toNat, d := a.d.toNat, u := a.u.toNat,
                    s1 := x1, s2 := x2, s3 := x3, s4 := x4, s5 := x5, s6 := x6,
                    lmin := a.lmin.toNat, la := a.la.toNat, step := a.step.toNat, adopt := en }
          port := okPort 1 }) ∧
    (a.n.toNat = 0 ∨ 16 < a.n.toNat ∨ a.b.toNat ∉ [1, 2, 4, 8] ∨ a.e.toNat < 2 ∨ 120 < a.e.toNat ∨
      a.h.toNat < 2 ∨ 86400 < a.h.toNat ∨ a.d.toNat = 0 ∨ 31 < a.d.toNat ∨ 4 < a.u.toNat ∨
      16777216 < a.lmin.toNat ∨ 16777216 < a.la.toNat ∨ a.step.toNat = 0 ∨ 86400 < a.step.toNat ∨
      1 < a.adopt.toNat ∨ 2 < a.s1.toNat ∨ 2 < a.s2.toNat ∨ 2 < a.s3.toNat ∨ 2 < a.s4.toNat ∨
      2 < a.s5.toNat ∨ 2 < a.s6.toNat →
      exec (.setPlan a) s = .next { s with port := refusedPort 1 .range })

/-- DEFINE_SCALE replaces the plan record and the state of a scale, and changes nothing where an argument is
out of its range (R11, R13, R189). -/
def Obligations.DefineScaleLoadsTheScale : Prop :=
  ∀ (s : State) (k kind parent : Byte) (v : BitVec 24) (c : Byte), s.station.state = .unconfigured →
    let loaded (sc : Scale) : State :=
      { s with scales := s.scales.setIfInBounds (k.toNat - 1) sc, port := okPort 2 }
    let custodian : Option Nat := if c.toNat = 255 then none else some c.toNat
    let custodianIn : Prop := c.toNat ≤ 15 ∨ c.toNat = 255
    let refused : Prop := exec (.defineScale k kind parent v c) s = .next { s with port := refusedPort 2 .range }
    (1 ≤ k.toNat → k.toNat ≤ 5 →
      (kind.toNat = 0 → exec (.defineScale k kind parent v c) s = .next (loaded
        { kind := .undefined, parent := none, value := 0, custodian := none, inserted := false, insertRefused := false })) ∧
      (kind.toNat = 1 → -255 ≤ v.toInt → v.toInt ≤ 255 → custodianIn →
        exec (.defineScale k kind parent v c) s = .next (loaded
          { kind := .civil, parent := none, value := v.toInt, custodian := custodian, inserted := false,
            insertRefused := false })) ∧
      (kind.toNat = 2 → -86400 ≤ v.toInt → v.toInt ≤ 86400 → custodianIn → 1 ≤ parent.toNat → parent.toNat ≤ 5 →
        parent ≠ k →
        exec (.defineScale k kind parent v c) s = .next (loaded
          { kind := .localScale, parent := some parent.toNat, value := v.toInt, custodian := custodian,
            inserted := false, insertRefused := false })) ∧
      (2 < kind.toNat → refused) ∧
      (kind.toNat ≠ 0 → ¬ custodianIn → refused) ∧
      (kind.toNat = 1 → v.toInt < -255 ∨ 255 < v.toInt → refused) ∧
      (kind.toNat = 2 → v.toInt < -86400 ∨ 86400 < v.toInt ∨ parent.toNat = 0 ∨ 5 < parent.toNat ∨ parent = k → refused)) ∧
    (k.toNat = 0 ∨ 5 < k.toNat → refused)

/-- BIND_OUTPUT replaces an output's binding and loads its widths and periods, unbinds it with scale NONE, and
changes nothing where an argument is out of its range (R156, R189). That the codes are tested with NONE too
is the model's choice (log entry 26), and this statement does not say it. -/
def Obligations.BindOutputReplacesTheBinding : Prop :=
  ∀ (s : State) (n : Fin 8) (k p : Byte) (w width : BitVec 24) (y : Byte), s.station.state = .unconfigured →
    let cmd : Instr := .bindOutput (BitVec.ofNat 8 n.val) k p w width y
    let bound (b : Option Binding) (x : Nat) : State :=
      { s with
        outputs := s.outputs.set n { s.outputs[n] with
          binding := b, curWidth := x, nextWidth := x, curPeriod := .boundary, nextPeriod := .boundary }
        port := okPort 3 }
    let windowIn : Prop := w.toNat ∈ [1000, 2000, 5000, 10000, 20000, 50000]
    (∀ q : Bool, y.toNat = q.toNat →
      (k.toNat ≤ 5 →
        (p.toNat = 0 → exec cmd s = .next (bound (some { scale := k.toNat, presentation := .step, quench := q }) width.toNat)) ∧
        (p.toNat = 1 → exec cmd s = .next (bound (some { scale := k.toNat, presentation := .hold, quench := q }) width.toNat)) ∧
        (p.toNat = 2 → windowIn →
          exec cmd s = .next (bound (some { scale := k.toNat, presentation := .smear w.toNat, quench := q }) width.toNat))) ∧
      (k.toNat = 255 → p.toNat ≤ 1 ∨ (p.toNat = 2 ∧ windowIn) → exec cmd s = .next (bound none 1000000))) ∧
    ((5 < k.toNat ∧ k.toNat ≠ 255) ∨ 2 < p.toNat ∨ 1 < y.toNat ∨ (p.toNat = 2 ∧ ¬ windowIn ∧ k.toNat ≠ 255) →
      k.toNat ≠ 255 → exec cmd s = .next { s with port := refusedPort 3 .range }) ∧
    ∀ m : Byte, 7 < m.toNat → exec (.bindOutput m k p w width y) s = .next { s with port := refusedPort 3 .range }

/-- START takes effect at every unit where no check fails. The first check that fails refuses it with RANGE, its number
and an offending item; outside UNCONFIGURED START is answered STATE; nothing else changes then (R187, R26, R60, R81,
R106, R107, R156, R165; which of several items is named is a free value, log entry 9). -/
def Obligations.StartTakesEffectOrIsRefused : Prop :=
  ∀ s : State,
    (s.station.state = .unconfigured → (∀ c i, ¬ startCheckFails s c i) →
      ∃ t, exec .start s = .next t ∧
        t.quorum = s.plan.n / 2 + 1 ∧
        t.planDigest = crc16 (planBytes s.plan s.scales) ∧
        t.table = { s.table with nextSeq := BitVec.ofNat 16 s.clock.label } ∧
        t.station = { s.station with state := .joining, listen := 0, history := [] } ∧
        t.line.state = .hunting ∧ t.line.quiet = 0 ∧ t.line.queue = s.line.queue ∧
        t.port = okPort 7 ∧
        (∀ n : Fin 8,
          t.outputs[n].binding = s.outputs[n].binding ∧ t.outputs[n].running = s.outputs[n].binding.isSome ∧
          t.outputs[n].latch.group =
            (s.outputs[n].latch.group || (s.outputs[n].binding.isSome && s.quenchAsserted (groupOf n)))) ∧
        ChangesOnly [.quorum, .planDigest, .table, .station, .line, .outputs, .port, .notices] s t) ∧
    (s.started → exec .start s = .next { s with port := refusedPort 7 .state }) ∧
    (s.station.state = .unconfigured → ∀ c, (∃ i, startCheckFails s c i) →
      (∀ c' < c, ∀ i, ¬ startCheckFails s c' i) →
      ∃ i t, startCheckFails s c i ∧ exec .start s = .next t ∧ t.port = Port.answer 7 .range c (.item i) ∧
        ChangesOnly [.port, .free] s t)

/-! ### Local proposals -/

/-- A local proposal is answered STATE outside ACTIVE, and RANGE where its record cannot be formed or fails R23, and
nothing else changes. One that screening rejects is answered NOT_CUSTODIAN, TABLE_FULL, or SCREEN with the reason
code; the next sequence then stays at the value found and nothing is stored or sent. Screening rejects a record for the
first fixed rule that fails; where none fails, for the first configurable rule of action REJECT that fails; and else
accepts it with the failed rules of action FLAG as flags, in rule order (R23, R44 to R57, R83, R188). -/
def Obligations.ProposalsAreTurnedAwayOrRejected : Prop :=
  (∀ (s : State) (i : Instr) (code : Byte), proposalCode i = some code →
    (s.station.state ≠ .active → exec i s = .next { s with port := refusedPort code .state }) ∧
    (s.station.state = .active → (∀ r, proposalRecord s.pins.stn s.table.nextSeq i = some r → r.fieldsOk s.plan.n = false) →
      exec i s = .next { s with port := refusedPort code .range }) ∧
    ∀ (q : Word) (r : Record) (reason : Reason),
      proposalVerdict i ≠ .later → s.station.state = .active → sequenceFound s q →
      proposalRecord s.pins.stn q i = some r → r.fieldsOk s.plan.n = true →
      screen (s.setSeq q) r = .reject reason →
      exec i s = .next
        { s with
          table := { s.table with nextSeq := q }
          port :=
            if reason = .notCustodian then refusedPort code .notCustodian
            else if reason = .tableFull then refusedPort code .tableFull
            else Port.answer code .screen reason.code .none }) ∧
  ∀ (s : State) (r : Record), r.fieldsOk s.plan.n = true →
    (∀ reason, fixedFails s r reason → (∀ x : Reason, x.code < reason.code → ¬ fixedFails s r x) →
      screen s r = .reject reason) ∧
    ((∀ x, ¬ fixedFails s r x) → SettledApart s → EntriesSound s →
      (∀ k, r.kind = .offsetSet → r.scale = some k → ∃ p, (s.scale k).parent = some p ∧ (s.scale p).kind = .civil) →
      (∀ x, s.plan.action x = .reject → cfgFails s r x →
        (∀ y : CfgRule, y.reason.code < x.reason.code → s.plan.action y = .reject → ¬ cfgFails s r y) →
        screen s r = .reject x.reason) ∧
      ((∀ x, s.plan.action x = .reject → ¬ cfgFails s r x) →
        ∃ flags : List CfgRule, screen s r = .accept flags ∧
          flags.Pairwise (fun x y => x.reason.code < y.reason.code) ∧
          ∀ x, x ∈ flags ↔ s.plan.action x = .flag ∧ cfgFails s r x))

/-- An accepted local proposal on a shelf of two or more is stored PROPOSED with window label + E, announced
by a PROPOSE frame, and answered OK or QUEUE_FULL with its identifier and flags (R83, R84). -/
def Obligations.AcceptedProposalIsStoredAndAnnounced : Prop :=
  ∀ (s : State) (i : Instr) (code : Byte) (q : Word) (r : Record) (flags : List CfgRule),
    proposalCode i = some code → proposalVerdict i ≠ .later → s.station.state = .active → 2 ≤ s.plan.n → sequenceFound s q →
    proposalRecord s.pins.stn q i = some r → r.fieldsOk s.plan.n = true →
    screen (s.setSeq q) r = .accept flags →
    ∃ t, exec i s = .next t ∧
      t.find r.id = some
        { r with
          state := .proposed
          endorsers := BitVec.twoPow 16 s.pins.stn
          flags := flags
          window := some (s.clock.label + s.plan.e)
          stamp := s.table.nextStamp
          mark := if roomFor s.line.queue r.kind.proposeClass then .proposeQueued else .proposeDue } ∧
      (∀ id, id ≠ r.id → t.find id = s.find id) ∧
      t.table.nextSeq = q + 1 ∧ t.table.version = s.table.version + 1 ∧
      t.line.queue = (if roomFor s.line.queue r.kind.proposeClass then
        insertFrame (newFrame .propose r.kind.proposeClass (proposeBody r) (some r.id) 0) s.line.queue
        else s.line.queue) ∧
      t.port = Port.answer code (if roomFor s.line.queue r.kind.proposeClass then .ok else .queueFull) 0
        (.proposal r.id flags) ∧
      ChangesOnly [.table, .line, .port, .notices] s t

/-- On a shelf of one station an accepted scheduled proposal is settled at once with mark NONE; a CUSTODY gives its
scale the custodian and is freed; a WITHDRAW is freed and frees its target as WITHDRAWN. The answer is OK, and the
other entries stand. The ratification may be a claim after the store: the entry is then held PROPOSED with its window,
STORED and FLAGGED are raised and OK is answered, and READ_ENTRY shows the entry so. The claim ratifies the entry, or
frees it REFUSED with reason SPACING where a settled entry conflicts, or executes it; a target in APPLYING is kept, with
WITHDRAW_TOO_LATE. An entry no longer PROPOSED is left. Which of the two it is, and that a command may fall between, is
carried by an operand, the model's choice of log entry 49 (R31, R85, R88, R90, R98, R99). -/
def Obligations.LoneStationSettlesItsProposalAtOnce : Prop :=
  (∀ (s : State) (i : Instr) (code : Byte) (q : Word) (r : Record) (flags : List CfgRule),
    proposalCode i = some code → s.station.state = .active → s.plan.n = 1 → sequenceFound s q →
    proposalRecord s.pins.stn q i = some r → r.fieldsOk s.plan.n = true →
    screen (s.setSeq q) r = .accept flags →
    (proposalVerdict i = .atOnce →
      ∃ t, exec i s = .next t ∧ t.port = Port.answer code .ok 0 (.proposal r.id flags) ∧
        t.table.nextSeq = q + 1 ∧
        (r.kind.scheduled = true →
          t.find r.id = some
            { r with state := .ratified, endorsers := BitVec.twoPow 16 s.pins.stn, flags := flags, window := none,
                     stamp := s.table.nextStamp, mark := .none }) ∧
        (r.kind.scheduled = false → t.find r.id = none) ∧
        (∀ k c, r.kind = .custody → r.scale = some k → r.value = some c →
          t.scale k = { s.scale k with custodian := some c.toNat }) ∧
        (∀ x, r.kind = .withdraw → r.target = some x → t.find x = none ∧ noticed t .withdrawn) ∧
        (∀ y, y ≠ r.id → r.target ≠ some y → t.find y = s.find y) ∧
        ChangesOnly [.table, .line, .scales, .port, .notices] s t) ∧
    (proposalVerdict i = .stored →
      ∃ t, exec i s = .next t ∧ storedAlone code r flags s t ∧ t.table.nextSeq = q + 1 ∧
        (∃ (k : Byte) (e : Entry), t.find r.id = some e ∧
          exec (.readEntry k) t = .next
            { t with port := Port.answer 33 .ok 0 (.entry t.held k.toNat t.table.version e) }) ∧
        ChangesOnly [.table, .verdicts, .port, .notices] s t)) ∧
  (∀ (s : State) (code : Byte) (r : Record) (flags : List CfgRule) (vs : List PendingVerdict),
    s.pending = [] → s.verdicts = .port code r (.accept flags) :: vs → s.station.state = .active → s.plan.n = 1 →
    s.storeRefusal r = none →
    ∃ t, step s = .next t ∧ storedAlone code r flags { s with verdicts := vs } t ∧
      t.table.nextSeq = s.table.nextSeq + 1 ∧ ChangesOnly [.table, .verdicts, .port, .notices] s t) ∧
  ∀ (s : State) (id : Ident) (vs : List PendingVerdict),
    s.pending = [] → s.verdicts = .ratify id :: vs → s.plan.n = 1 →
    let u : State := { s with verdicts := vs }
    ((∀ e, s.find id = some e → e.state ≠ .proposed) → step s = .next u) ∧
    ∀ e, s.find id = some e → e.state = .proposed → e.toRecord.fieldsOk s.plan.n = true →
      (e.kind.scheduled = false → s.station.state ≠ .active → step s = .next u) ∧
      (e.kind.scheduled = true ∨ s.station.state = .active →
        ∃ t, step s = .next t ∧
          (e.kind.scheduled = true → s.settledConflicts e.toRecord = [] →
            t.find id = some { e with state := .ratified, window := none } ∧
            raised (.ratified id e.endorsers .none) u t) ∧
          (e.kind.scheduled = true → s.settledConflicts e.toRecord ≠ [] →
            t.find id = none ∧ raised (.refused id .spacing s.pins.stn) u t) ∧
          (e.kind.scheduled = false → t.find id = none ∧ noticed t .ratified) ∧
          (∀ k c, e.kind = .custody → e.scale = some k → e.value = some c →
            t.scale k = { s.scale k with custodian := some c.toNat }) ∧
          (∀ x w, e.kind = .withdraw → e.target = some x → s.find x = some w →
            (w.state = .applying → t.find x = some w ∧ noticed t .withdrawTooLate) ∧
            (w.state ≠ .applying → t.find x = none ∧ noticed t .withdrawn)) ∧
          (∀ y, y ≠ id → e.target ≠ some y → t.find y = s.find y) ∧
          ChangesOnly [.table, .line, .scales, .notices] u t)

/-- A verdict may reach the Agreement Engine later (log entry 27: the model's choice; on a shelf of one the ratification
follows it, log entry 49): a local proposal then leaves the
held response empty and the next sequence at the value found, and a PROPOSE changes nothing else. As it arrives the
engine acts in the station state that then holds: outside ACTIVE a local proposal is answered STATE, and in a state that
screens none a PROPOSE is dropped; an accepted one is stored with the label that then holds, and one that the table
refuses is handled as a rejection with that reason (R58, R83, R86, R87, R88). -/
def Obligations.VerdictsActInTheStateTheyMeet : Prop :=
  (∀ (s : State) (i : Instr) (code : Byte) (q : Word) (r : Record),
    proposalCode i = some code → proposalVerdict i = .later → s.station.state = .active → sequenceFound s q →
    proposalRecord s.pins.stn q i = some r → r.fieldsOk s.plan.n = true →
    exec i s = .next
      { s with
        table := { s.table with nextSeq := q }
        port := { held := none, reading := [] }
        verdicts := s.verdicts ++ [.port code r (screen (s.setSeq q) r)] }) ∧
  (∀ (s : State) (sender : BitVec 4) (body : List Byte) (r : Record),
    audible s .propose sender body → lengthPermitted .propose body = true →
    s.station.state = .active ∨ s.station.state = .receiving ∨ s.station.state = .listening →
    (s.slot sender.toNat).state ≠ .divergent → (s.slot sender.toNat).state ≠ .mismatched →
    proposeRecord sender.toNat body = some r → r.fieldsOk s.plan.n = true →
    let u := afterReport s sender
    exec (.propose sender ⟨body, .later⟩) s = .next { u with verdicts := s.verdicts ++ [.line r (screen u r)] }) ∧
  ∀ (s : State) (vs : List PendingVerdict), s.pending = [] →
    let u : State := { s with verdicts := vs }
    let refusal (r : Record) : Verdict → Option Reason
      | .reject reason => some reason
      | .accept _ => if (s.find r.id).isSome then some .duplicateId else if s.hasRoom r.kind then none else some .tableFull
    (∀ code r v, s.verdicts = .port code r v :: vs →
      (s.station.state ≠ .active → step s = .next { u with port := refusedPort code .state }) ∧
      (∀ reason, s.station.state = .active → refusal r v = some reason →
        step s = .next
          { u with
            port :=
              if reason = .notCustodian then refusedPort code .notCustodian
              else if reason = .tableFull then refusedPort code .tableFull
              else Port.answer code .screen reason.code .none }) ∧
      (∀ flags, s.station.state = .active → v = .accept flags → refusal r v = none → 2 ≤ s.plan.n →
        ∃ t, step s = .next t ∧
          t.find r.id = some
            { r with
              state := .proposed
              endorsers := BitVec.twoPow 16 s.pins.stn
              flags := flags
              window := some (s.clock.label + s.plan.e)
              stamp := s.table.nextStamp
              mark := if roomFor s.line.queue r.kind.proposeClass then .proposeQueued else .proposeDue } ∧
          (∀ y, y ≠ r.id → t.find y = s.find y) ∧ t.table.nextSeq = s.table.nextSeq + 1 ∧
          t.port = Port.answer code (if roomFor s.line.queue r.kind.proposeClass then .ok else .queueFull) 0
            (.proposal r.id flags) ∧
          ChangesOnly [.table, .line, .port, .notices, .verdicts] s t)) ∧
    (∀ r v, s.verdicts = .line r v :: vs →
      (s.station.state ≠ .active → s.station.state ≠ .receiving → s.station.state ≠ .listening → step s = .next u) ∧
      (s.station.state = .receiving ∨ s.station.state = .listening → (refusal r v).isSome = true → step s = .next u) ∧
      (∀ reason, s.station.state = .active → refusal r v = some reason →
        ∃ t, step s = .next t ∧
          t.line.queue = (if roomFor s.line.queue 6 then
            insertFrame (newFrame .object 6 (objectBody r.id reason) (some r.id) 0) s.line.queue else s.line.queue) ∧
          ChangesOnly [.line, .notices, .verdicts] s t) ∧
      (∀ flags, s.station.state = .active ∨ s.station.state = .receiving ∨ s.station.state = .listening →
        v = .accept flags → refusal r v = none →
        ∃ t, step s = .next t ∧
          t.find r.id = some
            { r with
              state := .proposed
              endorsers :=
                if s.station.state = .active then BitVec.twoPow 16 r.id.proposer ||| BitVec.twoPow 16 s.pins.stn
                else BitVec.twoPow 16 r.id.proposer
              flags := flags
              window := some (s.clock.label + s.plan.e + 2)
              stamp := s.table.nextStamp
              mark := .none } ∧
          (∀ y, y ≠ r.id → t.find y = s.find y) ∧
          ChangesOnly [.table, .line, .notices, .verdicts] s t))

/-! ### Reads and run requests -/

/-- READ_STATUS returns the items as they stand; READ_ROSTER the slot of a station and READ_OUTPUT the items of
an output, and RANGE beyond 15 and 7; READ_ENTRY the entry at a position of table order as 30 bytes, and at or above
held RANGE with the held count and the version. ATTN is high exactly while a pending kind has a level above the
threshold (R188, R105, R110, R155, R38, R191). -/
def Obligations.ReadsReturnTheItemsAsTheyStand : Prop :=
  ∀ s : State,
    (∃ v : StatusView, exec .readStatus s = .next { s with port := Port.answer 32 .ok 0 (.status v) } ∧
      v.label = s.clock.label ∧ v.lock = s.clock.lock ∧ v.pendingLabel = s.clock.pendingLabel.map PendingLabel.origin ∧
      v.nextSeq = s.table.nextSeq ∧ v.held = s.table.entries.length ∧ v.version = s.table.version ∧
      v.otherHeld = (s.table.entries.filter fun e => e.kind != .withdraw).length ∧
      v.digest = crc16 s.digestBytes ∧ v.planDigest = s.planDigest ∧ v.station = s.station ∧
      v.lineState = s.line.state ∧ v.queueHeld = s.line.queue.length ∧
      v.queueLow = (s.line.queue.filter fun f => decide (f.cls < 5)).length ∧
      v.headClash = s.line.queue.head?.map Frame.clash ∧
      v.sending.isSome = s.sending.isSome ∧ v.receiving.isSome = s.receiving.isSome ∧
      (∀ c, s.sending = some c → v.sending = some
        { audience := countStations c.audience, deferred := countStations c.deferred, next := c.next,
          total := c.snapshot.length + 1 }) ∧
      (∀ c, s.receiving = some c → v.receiving = some
        { origin := c.origin, target := c.target, source := c.source, expected := c.expected }) ∧
      v.qaLevel = s.pins.qa ∧ v.qbLevel = s.pins.qb ∧
      v.qaAsserted = (!s.qaCfg.edge && (s.pins.qa != s.qaCfg.activeLow)) ∧
      v.qbAsserted = (!s.qbCfg.edge && (s.pins.qb != s.qbCfg.activeLow)) ∧
      v.pendingKinds = s.notices.pending.length ∧ (v.attn = true ↔ ∃ p ∈ s.notices.pending, s.notices.threshold < s.notices.level p.notice.kind) ∧
      v.attn = s.attn) ∧
    (∀ p : Byte, (p.toNat ≤ 15 → exec (.readRoster p) s = .next
        { s with port := Port.answer 35 .ok 0 (.roster p.toNat (s.slot p.toNat)) }) ∧
      (15 < p.toNat → exec (.readRoster p) s = .next { s with port := refusedPort 35 .range })) ∧
    (∀ n : Fin 8, exec (.readOutput (BitVec.ofNat 8 n.val)) s = .next
      { s with port := Port.answer 36 .ok 0 (.output
        { n := n.val, binding := s.outputs[n].binding, running := s.outputs[n].running,
          curWidth := s.outputs[n].curWidth, nextWidth := s.outputs[n].nextWidth,
          curPeriod := s.outputs[n].curPeriod, nextPeriod := s.outputs[n].nextPeriod, latch := s.outputs[n].latch,
          releasePending := s.outputs[n].releasePending, realign := s.outputs[n].realign,
          last := s.outputs[n].last, smear := s.outputs[n].smear, result := s.outputs[n].result }) }) ∧
    (∀ n : Byte, 7 < n.toNat → exec (.readOutput n) s = .next { s with port := refusedPort 36 .range }) ∧
    ∀ i : Byte,
      (∀ e, s.table.entries[i.toNat]? = some e →
        exec (.readEntry i) s = .next
          { s with port := Port.answer 33 .ok 0 (.entry s.table.entries.length i.toNat s.table.version e) } ∧
        (Data.entry s.table.entries.length i.toNat s.table.version e).bytes.length = 30) ∧
      (s.table.entries.length ≤ i.toNat →
        exec (.readEntry i) s = .next
          { s with port := Port.answer 33 .range 0 (.noEntry s.table.entries.length s.table.version) })

/-- READ_SCALE shows the lag or offset and the custodian of a scale, and its count: the base label for S0, label - L for a
CIVIL scale and one less while its marker is set, the parent's count + F for a LOCAL scale, and none for an undefined one.
It shows the calendar form of the count, with second 60 while the marker is set, and UNDATED out of range. It shows the leap
warning of the family and the offset pending of a LOCAL scale, each the earliest settled one whose span has the label, and
the change record, all none for S0 and an undefined scale (R13, R15, R16, R17, R141, R150, R151, R188). -/
def Obligations.ReadScaleShowsTheCountOfTheScale : Prop :=
  ∀ (s : State) (k : Byte),
    (5 < k.toNat → exec (.readScale k) s = .next { s with port := refusedPort 34 .range }) ∧
    (k.toNat ≤ 5 → ∃ (v : ScaleView) (t : State), exec (.readScale k) s = .next t ∧
      t.port = Port.answer 34 .ok 0 (.scale v) ∧ ChangesOnly [.port, .free] s t ∧
      let spans (x : Nat) : Prop := x ≤ s.clock.label + s.plan.d * 86400 ∧ s.clock.label ≤ x
      let warns (e : Entry) (x : Nat) : Prop :=
        e.settled = true ∧ (e.kind = .leapAdd ∨ e.kind = .leapDrop) ∧ e.turn = some x ∧ spans x ∧
          ∃ c, s.family k.toNat = some c ∧ e.scale = some c
      let pends (e : Entry) (x : Nat) : Prop :=
        (s.scale k.toNat).kind = .localScale ∧ e.settled = true ∧ e.kind = .offsetSet ∧ e.turn = some x ∧ spans x ∧
          e.scale = some k.toNat
      (v.warning.isSome = true ↔ ∃ e ∈ s.table.entries, ∃ x, warns e x) ∧
      (∀ w, v.warning = some w →
        (∃ e ∈ s.table.entries, warns e w.turn ∧ w.id = e.id ∧ (w.add = true ↔ e.kind = .leapAdd)) ∧
        ∀ e ∈ s.table.entries, ∀ x, warns e x → w.turn ≤ x) ∧
      (v.offsetPending.isSome = true ↔ ∃ e ∈ s.table.entries, ∃ x, pends e x) ∧
      (∀ w, v.offsetPending = some w →
        (∃ e ∈ s.table.entries, pends e w.turn ∧ w.id = e.id ∧ ∀ y, e.value = some y → w.value = y) ∧
        ∀ e ∈ s.table.entries, ∀ x, pends e x → w.turn ≤ x) ∧
      (k.toNat = 0 ∨ (s.scale k.toNat).kind = .undefined → v.change = none) ∧
      (∀ i : Fin 5, k.toNat = i.val + 1 → (s.scale k.toNat).kind ≠ .undefined → v.change = s.report.change[i]) ∧
      (k.toNat = 0 ∨ (s.scale k.toNat).kind = .undefined → v.state = none) ∧
      (k.toNat ≠ 0 → (s.scale k.toNat).kind ≠ .undefined →
        v.state = some ((s.scale k.toNat).value, (s.scale k.toNat).custodian)) ∧
      v.insertRefused = (s.scale k.toNat).insertRefused ∧ (k.toNat = 0 → v.inserted = false) ∧
      (v.count = none → v.calendar = none) ∧
      (∀ x : Int, v.count = some x →
        (0 ≤ x → x < 6311433600 →
          ∃ f, dated x f ∧ v.calendar = some (if v.inserted then { f with second := 60 } else f)) ∧
        (x < 0 ∨ 6311433600 ≤ x → v.calendar = none)) ∧
      v.scale = k.toNat ∧ v.kind = (s.scale k.toNat).kind ∧ v.parent = (s.scale k.toNat).parent ∧
      (k.toNat = 0 → v.base = true ∧ v.count = some (s.clock.label : Int)) ∧
      (k.toNat ≠ 0 → v.base = false ∧
        ((s.scale k.toNat).kind = .undefined → v.count = none) ∧
        ((s.scale k.toNat).kind = .civil → v.inserted = (s.scale k.toNat).inserted ∧
          v.count = some ((s.clock.label : Int) - (s.scale k.toNat).value -
            (if (s.scale k.toNat).inserted then 1 else 0))) ∧
        (∀ p, (s.scale k.toNat).kind = .localScale → (s.scale k.toNat).parent = some p → 1 ≤ p → p ≤ 5 →
          (s.scale p).kind = .civil →
          v.inserted = (s.scale p).inserted ∧
          v.count = some ((s.clock.label : Int) - (s.scale p).value - (if (s.scale p).inserted then 1 else 0) +
            (s.scale k.toNat).value))))

/-- SET_WIDTH writes the next width of a RUNNING output, and is answered STATE before START or on an IDLE
output and RANGE above 7 (R160). -/
def Obligations.SetWidthWritesTheNextWidth : Prop :=
  ∀ (s : State) (w : BitVec 24),
    (s.station.state = .unconfigured → ∀ n, exec (.setWidth n w) s = .next { s with port := refusedPort 48 .state }) ∧
    (s.started → ∀ n : Byte, 7 < n.toNat → exec (.setWidth n w) s = .next { s with port := refusedPort 48 .range }) ∧
    (s.started → ∀ n : Fin 8,
      (s.outputs[n].running = false →
        exec (.setWidth (BitVec.ofNat 8 n.val) w) s = .next { s with port := refusedPort 48 .state }) ∧
      (s.outputs[n].running = true →
        exec (.setWidth (BitVec.ofNat 8 n.val) w) s = .next
          { s with outputs := s.outputs.set n { s.outputs[n] with nextWidth := w.toNat }, port := okPort 48 }))

/-- RELEASE_OUTPUT sets release pending on a quenched output that no condition in force bars, and answers the
other cases as the table of R168 gives. -/
def Obligations.ReleaseOutputFollowsItsTable : Prop :=
  ∀ s : State,
    (s.station.state = .unconfigured → ∀ n, exec (.releaseOutput n) s = .next { s with port := refusedPort 49 .state }) ∧
    (s.started → ∀ n : Byte, 7 < n.toNat → exec (.releaseOutput n) s = .next { s with port := refusedPort 49 .range }) ∧
    (s.started → ∀ n : Fin 8,
      let cmd : Instr := .releaseOutput (BitVec.ofNat 8 n.val)
      let barred : Prop :=
        s.quenchAsserted (groupOf n) = true ∨
        (s.station.state = .adrift ∧ ∃ b, s.outputs[n].binding = some b ∧ b.quench = true) ∨
        s.station.state = .isolated
      (s.outputs[n].running = false → exec cmd s = .next { s with port := refusedPort 49 .state }) ∧
      (s.outputs[n].running = true → s.outputs[n].latch.set = false → exec cmd s = .next { s with port := okPort 49 }) ∧
      (s.outputs[n].running = true → s.outputs[n].latch.set = true → barred →
        exec cmd s = .next { s with port := refusedPort 49 .state }) ∧
      (s.outputs[n].running = true → s.outputs[n].latch.set = true → ¬ barred →
        exec cmd s = .next
          { s with outputs := s.outputs.set n { s.outputs[n] with releasePending := true }, port := okPort 49 }))

/-- TAKE_NOTICE answers with the pending record of the highest level, the lowest number among equals, and
removes it; PEEK_NOTICE answers the same and removes nothing; both answer NONE on an empty set (R192). -/
def Obligations.NoticesAreTakenByLevelThenNumber : Prop :=
  ∀ s : State,
    (s.notices.pending = [] →
      exec .takeNotice s = .next { s with port := Port.answer 64 .ok 0 .noNotice } ∧
      exec .peekNotice s = .next { s with port := Port.answer 65 .ok 0 .noNotice }) ∧
    (s.notices.pending ≠ [] →
      ∃ p ∈ s.notices.pending,
        (∀ q ∈ s.notices.pending,
          s.notices.level q.notice.kind < s.notices.level p.notice.kind ∨
          (s.notices.level q.notice.kind = s.notices.level p.notice.kind ∧
            p.notice.kind.number ≤ q.notice.kind.number)) ∧
        exec .peekNotice s = .next { s with port := Port.answer 65 .ok 0 (.notice (s.notices.level p.notice.kind) p) } ∧
        exec .takeNotice s = .next
          { s with
            notices := { s.notices with pending := s.notices.pending.filter fun q => q.notice.kind != p.notice.kind }
            port := Port.answer 64 .ok 0 (.notice (s.notices.level p.notice.kind) p) })

/-! ### Pins -/

/-- LRESET and REJOIN make a line reset in every state after START: PROPOSED entries are purged, the queue keeps
no frame but one in transmission, roster and recital contexts are emptied, and the station is JOINING, or stays
ISOLATED. Before START neither has an effect, and REJOIN is answered STATE (R41, R80, R104, R122, R131, R190). -/
def Obligations.LineResetReachesEveryUnit : Prop :=
  ∀ s : State,
    (s.station.state = .unconfigured →
      exec .lreset s = .next s ∧ exec .rejoin s = .next { s with port := refusedPort 50 .state }) ∧
    (s.started → Quiescent s → ∀ (i : Instr) (src : ResetSource),
      (i = .lreset ∧ src = .lreset) ∨ (i = .rejoin ∧ src = .rejoin) →
      ∃ t, exec i s = .next t ∧
        t.table.entries = (s.table.entries.filter fun e => e.state != .proposed).map (fun e =>
          if e.mark = .ratifyQueued then { e with mark := .ratifyDue } else e) ∧
        t.table.nextSeq = s.table.nextSeq ∧ t.table.nextStamp = s.table.nextStamp ∧
        t.line.queue.length = (s.line.queue.filter fun f => f.inTx).length ∧
        (∀ f ∈ t.line.queue, f.inTx = true ∧ f.removal = .silent) ∧
        (t.line.state = if s.line.state = .taking then .hunting else s.line.state) ∧
        (∀ p : Fin 16, t.slot p.val = Slot.absent) ∧
        t.sending = none ∧ t.receiving = none ∧
        t.station.history = [] ∧ t.station.rejoin = true ∧
        (s.station.state = .isolated → t.station.state = .isolated) ∧
        (s.station.state ≠ .isolated → t.station.state = .joining ∧ t.station.listen = 0) ∧
        raised (.lineReset src (s.table.entries.filter fun e => e.state == .proposed).length) s t ∧
        t.port = (if i = .rejoin then okPort 50 else s.port) ∧
        ChangesOnly [.table, .line, .station, .roster, .sending, .receiving, .notices, .port] s t)

/-- RESET gives every unit its reset state and samples the straps; the levels of the other inputs and the queue
of commands stand (R1, R21, R41, R42, R59, R60, R105, R107, R110, R125, R141, R155, R165, R171, R183, R191;
log entries 10, 11 and 30 name the values that are the model's choice). -/
def Obligations.ResetGivesEveryUnitItsResetState : Prop :=
  ∀ (s : State) (stn : BitVec 4) (lrate : BitVec 2),
    ∃ t, exec (.reset stn lrate) s = .next t ∧
      t.pins = { s.pins with stn := stn.toNat, lrate := lrate } ∧
      t.clock.label = 0 ∧ t.clock.tick = 0 ∧ t.clock.lock = .free ∧ t.clock.run = 0 ∧ t.clock.phased = false ∧
      t.clock.capRun = 0 ∧ t.clock.pendingLabel = none ∧
      (t.plan.n = 1 ∧ t.plan.b = 1 ∧ t.plan.e = 30 ∧ t.plan.h = 3600 ∧ t.plan.d = 7 ∧ t.plan.u = 0 ∧
        t.plan.adopt = false ∧ t.plan.lmin = 86400 ∧ t.plan.la = 2592000 ∧ t.plan.step = 3600 ∧
        t.plan.s1 = .reject ∧ t.plan.s2 = .flag ∧ t.plan.s3 = .reject ∧ t.plan.s4 = .flag ∧ t.plan.s5 = .reject ∧
        t.plan.s6 = .flag) ∧
      t.planDigest = 0 ∧ (∀ k : Fin 5, t.scales[k].kind = .undefined ∧ t.scales[k].parent = none ∧
        t.scales[k].inserted = false ∧ t.scales[k].insertRefused = false) ∧
      t.table.entries = [] ∧ t.table.nextStamp = 0 ∧ t.table.version = 0 ∧ t.table.nextSeq = 0 ∧
      t.line.state = .detached ∧ t.line.queue = [] ∧ t.line.idle = 0 ∧ t.line.quiet = 0 ∧
      t.station = { state := .unconfigured, listen := 0, history := [], adoption := .absent, rejoin := false } ∧
      (∀ p : Fin 16, t.roster[p] = { state := .absent, silence := 0, record := none, age := 0 }) ∧
      t.sending = none ∧ t.receiving = none ∧
      (∀ k : Fin 5, t.report.applying[k] = none ∧ t.report.change[k] = none) ∧
      (∀ n : Fin 8, t.outputs[n].binding = none ∧ t.outputs[n].running = false ∧ t.outputs[n].curWidth = 1000000 ∧
        t.outputs[n].nextWidth = 1000000 ∧ t.outputs[n].curPeriod = .boundary ∧ t.outputs[n].nextPeriod = .boundary ∧
        t.outputs[n].forceFull = false ∧ t.outputs[n].tick = 0 ∧ t.outputs[n].latch.set = false ∧
        t.outputs[n].releasePending = false ∧ t.outputs[n].realign = false ∧ t.outputs[n].underWay = none ∧
        t.outputs[n].owed = none ∧ t.outputs[n].last = none ∧ t.outputs[n].sp = false ∧
        t.outputs[n].smear = .absent ∧ t.outputs[n].result = .none) ∧
      t.qaCfg = { edge := false, activeLow := false } ∧ t.qbCfg = { edge := false, activeLow := false } ∧
      t.port = { held := none, reading := [] } ∧ t.verdicts = [] ∧ t.notices.pending = [] ∧ t.notices.threshold = 0 ∧
      (∀ k : Fin 23, t.notices.levels[k] = 4) ∧ t.pending = s.pending

/-- A change of ATT: a fall takes ACTIVE to LISTENING, whose queue then holds nothing but a frame in
transmission; a rise takes LISTENING to ACTIVE where the discord history is WON, WON, and to JOINING otherwise;
in the other states the level alone changes (R121, R78, R118, R131, R139). That a command with the level ATT
already has is no change is the model's choice (log entry 10). -/
def Obligations.AttMovesTheStationByItsState : Prop :=
  ∀ s : State,
    (∀ high, s.pins.att = high → exec (.attChange high) s = .next s) ∧
    (∀ high, s.pins.att ≠ high → ¬ (s.station.state = .active ∧ high = false) →
      ¬ (s.station.state = .listening ∧ high = true) →
      exec (.attChange high) s = .next { s with pins := { s.pins with att := high } }) ∧
    (s.pins.att = true → s.station.state = .active →
      ∃ t, exec (.attChange false) s = .next t ∧ t.pins = { s.pins with att := false } ∧
        t.station.state = .listening ∧ t.station.history = [] ∧ t.station.rejoin = false ∧
        t.sending = none ∧ t.receiving = none ∧
        (∀ f ∈ t.line.queue, f.inTx = true ∧ f.removal ≠ .none) ∧
        ChangesOnly [.pins, .table, .line, .station, .sending, .receiving] s t) ∧
    (s.pins.att = false → s.station.state = .listening →
      ∃ t, exec (.attChange true) s = .next t ∧ t.pins = { s.pins with att := true } ∧
        (s.station.history = [.won, .won] → t.station.state = .active ∧ t.station.history = []) ∧
        (s.station.history ≠ [.won, .won] → t.station.state = .joining ∧ t.station.listen = 0) ∧
        ChangesOnly [.pins, .table, .line, .station, .sending, .receiving] s t)

/-- A quench input that goes to its active level after START quenches the RUNNING outputs of its group: the
cause GROUP is added, SPn goes low, a record owed is discarded and a pending release cleared; the others stand.
A change to the inactive level, and any change before START, moves the level alone (R165, R167). That a command with
the level the input already has is no change is the model's choice (log entry 10). -/
def Obligations.QuenchInputsActOnTheirGroup : Prop :=
  ∀ (s : State) (g : Group),
    let level (high : Bool) : State := s.setQuenchLevel g high
    exec (.quenchInputInactive g) s = .next (level (s.quenchCfg g).activeLow) ∧
    (s.station.state = .unconfigured ∨ s.quenchActive g = true →
      exec (.quenchAssertion g) s = .next (level (!(s.quenchCfg g).activeLow))) ∧
    (s.started → s.quenchActive g = false →
      ∃ t, exec (.quenchAssertion g) s = .next t ∧ t.quenchLevel g = !(s.quenchCfg g).activeLow ∧
        (∀ n : Fin 8,
          (groupOf n = g → s.outputs[n].running = true →
            t.outputs[n] = { s.outputs[n] with
              latch := { s.outputs[n].latch with group := true }
              releasePending := false
              owed := none
              sp := false }) ∧
          (groupOf n ≠ g ∨ s.outputs[n].running = false → t.outputs[n] = s.outputs[n])) ∧
        ChangesOnly [.pins, .outputs, .notices] s t)

/-! ### The Base Clock, and the table and the pass at a boundary -/

/-- A SECIN edge in the acceptance window, or the first edge after a full reset, ends the base second: without a
pending label the label rises by one, wrapping at 2^40, the tick count restarts, the run rises and LOCKED follows
at 4; the first edge gives run 1 and PHASED. At a tick count of 10,000,100 the Base Clock makes a boundary itself: FREE,
run 0, and SECIN_LOST; below it the command has no effect (R2, R4, R5, R6, R8; the guard is the model's, log entry 2). -/
def Obligations.EdgesAndSubstitutedBoundariesEndTheSecond : Prop :=
  ∀ (s : State) (ord : BoundaryOrder),
    (s.clock.phased = true → 9999900 ≤ s.clock.tick → s.clock.tick ≤ 10000100 →
      ∃ t, exec (.secinEdge ord) s = .next t ∧
        (s.clock.pendingLabel = none → t.clock.label = (s.clock.label + 1) % 2 ^ 40) ∧
        (∀ v, s.clock.pendingLabel = some { value := v, origin := .setting } → t.clock.label = v) ∧
        t.clock.tick = 0 ∧ t.clock.run = min 4 (s.clock.run + 1) ∧ t.clock.capRun = 0 ∧ t.clock.phased = true ∧
        t.clock.lock = (if s.clock.run + 1 < 4 then s.clock.lock else .locked) ∧
        ChangesOnly [.clock, .scales, .table, .line, .station, .roster, .sending, .receiving, .report, .outputs,
          .notices, .free, .serial] s t) ∧
    (s.clock.phased = false →
      ∃ t, exec (.secinEdge ord) s = .next t ∧
        (s.clock.pendingLabel = none → t.clock.label = (s.clock.label + 1) % 2 ^ 40) ∧
        t.clock.tick = 0 ∧ t.clock.run = 1 ∧ t.clock.phased = true ∧ t.clock.lock = s.clock.lock ∧
        ChangesOnly [.clock, .scales, .table, .line, .station, .roster, .sending, .receiving, .report, .outputs,
          .notices, .free, .serial] s t) ∧
    (10000100 ≤ s.clock.tick →
      ∃ t, exec (.substitutedBoundary ord) s = .next t ∧
        (s.clock.pendingLabel = none → t.clock.label = (s.clock.label + 1) % 2 ^ 40) ∧
        (∀ v, s.clock.pendingLabel = some { value := v, origin := .setting } → t.clock.label = v) ∧
        t.clock.tick = 0 ∧ t.clock.run = 0 ∧ t.clock.lock = .free ∧ t.clock.phased = s.clock.phased ∧
        t.clock.capRun = s.clock.capRun ∧ t.clock.capElapsed = s.clock.capElapsed ∧
        (∃ p ∈ t.notices.pending, p.notice.kind = .secinLost) ∧
        ChangesOnly [.clock, .scales, .table, .line, .station, .roster, .sending, .receiving, .report, .outputs,
          .notices, .free, .serial] s t) ∧
    (s.clock.tick < 10000100 → exec (.substitutedBoundary ord) s = .next s)

/-- A spurious edge makes no boundary and raises SECIN_SPURIOUS: in LOCKED nothing else changes, the elapsed distance
running on (the model's choice, log entry 46), in FREE the run
is set to 0 and the capture run follows the elapsed distance. The spurious edge that brings the capture run to 4
makes a boundary, with run 1 and capture run 0 (R3, R5, R7). -/
def Obligations.SpuriousEdgeFeedsRecapture : Prop :=
  ∀ (s : State) (ord : BoundaryOrder), s.clock.phased = true → s.clock.tick < 9999900 →
    let c := s.clock
    let steady : Prop := 9999900 ≤ c.capElapsed ∧ c.capElapsed ≤ 10000100
    let spurious (clock : Clock) : State :=
      { s with
        clock := clock
        notices := { s.notices with
          pending := addNotice (.secinSpurious c.label c.tick false) c.label s.notices.pending } }
    (c.lock = .locked → exec (.secinEdge ord) s = .next (spurious c)) ∧
    (c.lock = .free → c.capRun = 0 ∨ ¬ steady →
      exec (.secinEdge ord) s = .next (spurious { c with run := 0, capRun := 1, capElapsed := 0 })) ∧
    (c.lock = .free → 1 ≤ c.capRun → c.capRun < 3 → steady →
      exec (.secinEdge ord) s = .next (spurious { c with run := 0, capRun := c.capRun + 1, capElapsed := 0 })) ∧
    (c.lock = .free → 3 ≤ c.capRun → steady →
      ∃ t, exec (.secinEdge ord) s = .next t ∧
        (c.pendingLabel = none → t.clock.label = (c.label + 1) % 2 ^ 40) ∧
        t.clock.tick = 0 ∧ t.clock.run = 1 ∧ t.clock.capRun = 0 ∧ t.clock.lock = .free ∧
        ∃ p ∈ t.notices.pending, p.notice.kind = .secinSpurious)

/-- At every boundary a pending adoption of v is blocked by an entry in APPLYING or a RATIFIED entry with turn - H at
or below v: the label then rises by one and ADOPTION_BLOCKED is raised. Where no settled entry comes that near, the
label becomes v, every RUNNING output has realign pending, and the station takes the jump: its arrangement is removed,
offsets of the roster fall by the jump and PRESENT and DIVERGENT slots are classified again; off a beacon time an ADRIFT
station is then JOINING. That an entry in APPLYING which this boundary's pass completes blocks too is the model's choice,
log entry 52 (R8, R10, R116, R154, R163). -/
def Obligations.AdoptionIsTestedAgainstTheTable : Prop :=
  ∀ (s : State) (c : Instr) (v : Nat), makesBoundary s c → v < 2 ^ 40 →
    s.clock.pendingLabel = some { value := v, origin := .adoption } →
    ((∃ e ∈ s.table.entries, e.state = .applying ∨
        (e.state = .ratified ∧ ∃ x, e.turn = some x ∧ x ≤ v + s.plan.h)) →
      ∃ t, exec c s = .next t ∧ t.clock.label = nextLabel s ∧ noticed t .adoptionBlocked) ∧
    ((∀ e ∈ s.table.entries, e.state ≠ .applying ∧
        (e.state = .ratified → ∀ x, e.turn = some x → v + s.plan.h < x ∧ s.clock.label + 1 + s.plan.h < x)) →
      ∃ t, exec c s = .next t ∧ t.clock.label = v ∧
        (∀ n : Fin 8, s.outputs[n].running = true → t.outputs[n].realign = true) ∧
        (s.started → v % s.plan.b ≠ 0 →
          t.station.adoption = .absent ∧
          (t.station.state = if s.station.state = .adrift then .joining else s.station.state) ∧
          (s.station.state = .adrift ∨ s.station.state = .joining → t.station.listen = 0) ∧
          ∀ (p : Fin 16) (r : BeaconRecord), (s.slot p.val).record = some r →
            let offset : Int := r.offset - ((v : Int) - (nextLabel s : Int))
            (t.slot p.val).record = some { r with offset := offset } ∧
            ((s.slot p.val).state = .present ∨ (s.slot p.val).state = .divergent →
              (t.slot p.val).state = if offset = 0 then .present else .divergent) ∧
            ((s.slot p.val).state ≠ .present → (s.slot p.val).state ≠ .divergent →
              (t.slot p.val).state = (s.slot p.val).state)))

/-- A PROPOSED entry whose window is at or below the label is freed LAPSED, and this station's unsent ENDORSE,
OBJECT and RATIFY frames that name it are removed; any other entry stands (R97, R35, R77). That the command has no
effect before the window is the model's guard (log entry 2). At a boundary every window moves by the jump of the label,
entries whose window has come are freed, and the others stand with the window moved, but for those that an own CUSTODY
or WITHDRAW at Q endorsers frees and the WITHDRAWs of a RATIFIED entry (R29, R31, R90, R97, R144). -/
def Obligations.WindowExpiryFreesTheEntry : Prop :=
  (∀ (s : State) (id : Ident),
    (∀ e w, s.find id = some e → e.state = .proposed → e.window = some w → w ≤ s.clock.label →
      ∃ t, exec (.windowExpiry id) s = .next t ∧
        t.table = { s.table with entries := s.table.entries.filter (fun x => decide (x.id ≠ id))
                                 version := s.table.version + 1 } ∧
        raised (.lapsed id false) s t ∧
        (∀ f ∈ t.line.queue, f.ident = some id → f.kind = .endorse ∨ f.kind = .object ∨ f.kind = .ratify →
          f.inTx = true ∧ f.removal ≠ .none) ∧
        (∀ f ∈ s.line.queue, (f.ident ≠ some id ∨ f.kind = .propose) → f ∈ t.line.queue) ∧
        ChangesOnly [.table, .line, .notices] s t) ∧
    ((∀ e w, s.find id = some e → e.state = .proposed → e.window = some w → s.clock.label < w) →
      exec (.windowExpiry id) s = .next s)) ∧
  ∀ (s : State) (c : Instr), makesBoundary s c → TableBounded s →
    ∃ t, exec c s = .next t ∧
      ∀ (e : Entry) (w : Nat), s.find e.id = some e → e.state = .proposed → e.window = some w →
        let moved : Nat := ((w : Int) + ((t.clock.label : Int) - (nextLabel s : Int))).toNat
        (moved ≤ t.clock.label → t.find e.id = none) ∧
        (t.clock.label < moved →
          (∀ x ∈ s.table.entries, x.id.proposer = s.pins.stn → x.kind.scheduled = false →
            s.quorum ≤ countStations x.endorsers → x.id ≠ e.id ∧ x.target ≠ some e.id) →
          (∀ x ∈ s.table.entries, e.kind = .withdraw → e.target = some x.id → x.state ≠ .ratified) →
          ∃ m, t.find e.id = some { e with window := some moved, mark := m })

/-- The work owed at a boundary of a station that is and stays ACTIVE: a due PROPOSE or RATIFY announcement is queued, a
recital frame that is due is offered, and at a beacon time a RECITE_REQ that is due; what finds no room raises TXQ_FULL
and stays due, and a recital frame counts its failed offer, which at 4 abandons the recital. Own CUSTODY and WITHDRAW
entries at Q endorsers are executed (R84, R90, R96, R126, R130, R134). -/
def Obligations.OwedWorkIsDoneAtABoundary : Prop :=
  ∀ (s : State) (c : Instr), makesBoundary s c → TableBounded s → s.station.state = .active →
    ∃ t, exec c s = .next t ∧ (t.station.state = .active →
      (∀ e ∈ t.table.entries, e.id.proposer = s.pins.stn →
        (e.state = .proposed → e.kind.scheduled = false → countStations e.endorsers < s.quorum) ∧
        (e.state = .proposed → e.mark = .proposeDue → noticed t .txqFull) ∧
        (e.settled = true → e.mark = .ratifyDue → noticed t .txqFull)) ∧
      (∀ e e', s.find e.id = some e → t.find e.id = some e' → e.id.proposer = s.pins.stn →
        (e.state = .proposed → e'.state = .proposed → e.mark = .proposeDue → e'.mark = .proposeQueued →
          ∃ f ∈ t.line.queue, f.kind = .propose ∧ f.ident = some e.id ∧ f.body = proposeBody e.toRecord) ∧
        (e.settled = true → e.mark = .ratifyDue → e'.mark = .ratifyQueued →
          ∃ f ∈ t.line.queue, f.kind = .ratify ∧ f.ident = some e.id ∧ f.body = ratifyBody e.id e.endorsers)) ∧
      (∀ d, s.sending = some d → d.offer = .due →
        (t.sending = some { d with offer := .queued } ∧
          ∃ f ∈ t.line.queue, f.serial = d.serial ∧ (f.kind = .recital ∨ f.kind = .scaleState)) ∨
        (noticed t .txqFull ∧ d.failed < 3 ∧ t.sending = some { d with failed := d.failed + 1 }) ∨
        (noticed t .txqFull ∧ 3 ≤ d.failed ∧ t.sending = none)) ∧
      (∀ d, s.receiving = some d → d.req = .due → d.source = none → d.wait < 3 → t.clock.label % s.plan.b = 0 →
        (t.receiving = some { d with wait := d.wait + 1, req := .queued } ∧
          ∃ f ∈ t.line.queue, f.kind = .reciteReq ∧ f.serial = d.serial ∧ f.body = reciteReqBody d.target) ∨
        (noticed t .txqFull ∧ t.receiving = some { d with wait := d.wait + 1 })))

/-- The pass makes the changes of a scheduled transition: a RATIFIED entry enters APPLYING at turn - H, where the
WITHDRAWs that name it lapse; at the turn of a LEAP_ADD the inserted marker is set, at turn + 1 the lag rises by one and
the entry leaves APPLIED; at the turn of a LEAP_DROP the lag falls by one, and at that of an OFFSET_SET the offset
becomes the entry's value. At the limit the lag stays, and the entry leaves APPLIED with LIMIT. The change record tells
the change (R18, R31, R143 to R148, R152). -/
def Obligations.TransitionsActAtTheirTurns : Prop :=
  ∀ (s : State) (e : Entry) (turn : Nat) (k : Nat),
    s.find e.id = some e → e.turn = some turn → e.scale = some k → 1 ≤ k → k ≤ 5 →
    let t := applyEntry e.id s
    let told (c : ScaleChange) (taken : Bool) : Prop :=
      ∀ x, 1 ≤ x → x ≤ 5 → x = k ∨ (c ≠ .offsetTo ∧ s.family x = some k) →
        t.report.change[x - 1]? = some (some { change := c, id := e.id, taken := taken })
    let freed (limit : Bool) : Prop := t.find e.id = none ∧ raised (.applied e.id e.kind e.scale limit) s t
    (e.state = .ratified → s.clock.label + s.plan.h < turn → t = s) ∧
    (e.state = .ratified → s.clock.label < turn → turn ≤ s.clock.label + s.plan.h →
      let overtaken (x : Entry) : Prop := x.kind = .withdraw ∧ x.state = .proposed ∧ x.target = some e.id
      t.find e.id = some { e with state := .applying } ∧
      (∀ x ∈ s.table.entries, x.id ≠ e.id → overtaken x → t.find x.id = none ∧ noticed t .lapsed) ∧
      (∀ id, id ≠ e.id → (∀ x ∈ s.table.entries, x.id = id → ¬ overtaken x) → t.find id = s.find id) ∧
      ChangesOnly [.table, .line, .notices] s t) ∧
    (e.state = .applying → e.kind = .leapAdd → (s.scale k).kind = .civil →
      (s.clock.label < turn → t = s) ∧
      (s.clock.label = turn → (s.scale k).value < 255 →
        t.scale k = { s.scale k with inserted := true } ∧ t.table = s.table ∧ told .insertBegin true) ∧
      (s.clock.label = turn → 255 ≤ (s.scale k).value →
        t.scale k = { s.scale k with insertRefused := true } ∧ t.table = s.table ∧ told .insertBegin false) ∧
      (turn + 1 ≤ s.clock.label → (s.scale k).insertRefused = false → (s.scale k).value < 255 →
        t.scale k = { s.scale k with inserted := false, value := (s.scale k).value + 1 } ∧ freed false ∧
        told .insertEnd true) ∧
      (turn + 1 ≤ s.clock.label → (s.scale k).insertRefused = true →
        t.scale k = { s.scale k with inserted := false, insertRefused := false } ∧ freed true ∧ told .insertEnd false)) ∧
    (e.state = .applying → e.kind = .leapDrop → (s.scale k).kind = .civil →
      (s.clock.label < turn → t = s) ∧
      (turn ≤ s.clock.label → -255 < (s.scale k).value →
        t.scale k = { s.scale k with value := (s.scale k).value - 1 } ∧ freed false ∧ told .lagDown true) ∧
      (turn ≤ s.clock.label → (s.scale k).value ≤ -255 →
        t.scale k = s.scale k ∧ freed true ∧ told .lagDown false)) ∧
    (∀ v, e.state = .applying → e.kind = .offsetSet → e.value = some v → (s.scale k).kind = .localScale →
      (s.clock.label < turn → t = s) ∧
      (turn ≤ s.clock.label → t.scale k = { s.scale k with value := v } ∧ freed false ∧ told .offsetTo true)) ∧
    (e.state = .applying → turn + 1 ≤ s.clock.label → e.kind.scheduled = true → (s.scale k).kind = .undefined →
      t.scale k = s.scale k ∧ freed true)

/-- Every boundary after START makes the pass at the label taken: no RATIFIED entry is left within H of its turn and no
APPLYING one past it, a scheduled transition that alone is due changes its scale, and none that is not due does. The
report then names the APPLYING entry of each family, and shows no change where nothing was due
(R141 to R149, R152, R153). -/
def Obligations.BoundariesMakeThePass : Prop :=
  ∀ (s : State) (c : Instr), makesBoundary s c → s.started → TableBounded s →
    ∃ t, exec c s = .next t ∧
      (∀ e ∈ t.table.entries, ∀ turn, e.turn = some turn →
        (e.state = .ratified → t.clock.label + s.plan.h < turn) ∧
        (e.state = .applying → e.kind = .leapAdd → t.clock.label ≤ turn) ∧
        (e.state = .applying → e.kind = .leapDrop ∨ e.kind = .offsetSet → t.clock.label < turn)) ∧
      (∀ i : Fin 5, t.report.applying[i] =
        (t.table.entries.find? fun e => e.state == .applying && t.familyOf e.toRecord == some (i.val + 1)).map
          fun e => e.toRecord) ∧
      ((∀ e ∈ s.table.entries, e.settled = true → ∀ turn, e.turn = some turn → t.clock.label < turn) →
        ∀ i : Fin 5, t.report.change[i] = none ∧ t.scales[i].value = s.scales[i].value ∧
          t.scales[i].inserted = s.scales[i].inserted) ∧
      ∀ (e : Entry) (turn k : Nat), s.find e.id = some e → e.state = .applying → e.turn = some turn →
        e.scale = some k → 1 ≤ k → k ≤ 5 →
        (∀ x ∈ s.table.entries, x.settled = true → x.id ≠ e.id → ∀ y, x.turn = some y → t.clock.label < y) →
        (e.kind = .leapAdd → (s.scale k).kind = .civil → (s.scale k).value < 255 →
          (t.clock.label = turn → (t.scale k).inserted = true ∧ (t.scale k).value = (s.scale k).value ∧
            (t.find e.id).isSome = true) ∧
          (turn + 1 ≤ t.clock.label → (s.scale k).insertRefused = false →
            (t.scale k).inserted = false ∧ (t.scale k).value = (s.scale k).value + 1 ∧ t.find e.id = none ∧
            noticed t .applied)) ∧
        (e.kind = .leapDrop → (s.scale k).kind = .civil → -255 < (s.scale k).value → turn ≤ t.clock.label →
          (t.scale k).value = (s.scale k).value - 1 ∧ t.find e.id = none ∧ noticed t .applied) ∧
        ∀ v, e.kind = .offsetSet → e.value = some v → (s.scale k).kind = .localScale → turn ≤ t.clock.label →
          (t.scale k).value = v ∧ t.find e.id = none ∧ noticed t .applied

/-! ### The Station Controller and the Recital Unit -/

/-- A slot that is not ABSENT becomes ABSENT, with its record cleared and its count 0, at a silence count of 8 and
SILENT, keeping its record, at 3; PEER_CHANGE with cause SILENCE tells a change. A slot below 3 stands (R110, R112;
the guard is the model's, log entry 2; the age 0 of an ABSENT slot is too, log entry 38). At a boundary the age of a
record rises to at most 255, and at a beacon time the silence counts rise and take effect, that of a slot heard just before
too, which is the model's choice, log entry 51 (R108, R110, R112). -/
def Obligations.SilenceCountsChangeTheSlot : Prop :=
  (∀ (s : State) (p : Fin 16), (s.slot p.val).state ≠ .absent →
    (8 ≤ (s.slot p.val).silence →
      ∃ t, exec (.peerSilence p) s = .next t ∧
        t.slot p.val = { state := .absent, silence := 0, record := none, age := 0 } ∧
        (∀ q, q ≠ p.val → t.slot q = s.slot q) ∧
        raised (.peerChange p.val (s.slot p.val).state .absent .silence) s t ∧ ChangesOnly [.roster, .notices] s t) ∧
    (3 ≤ (s.slot p.val).silence → (s.slot p.val).silence < 8 →
      ∃ t, exec (.peerSilence p) s = .next t ∧ t.slot p.val = { s.slot p.val with state := .silent } ∧
        (∀ q, q ≠ p.val → t.slot q = s.slot q) ∧
        ((s.slot p.val).state ≠ .silent →
          raised (.peerChange p.val (s.slot p.val).state .silent .silence) s t) ∧ ChangesOnly [.roster, .notices] s t) ∧
    ((s.slot p.val).silence < 3 → ∃ t, exec (.peerSilence p) s = .next t ∧
      (∀ q, t.slot q = s.slot q) ∧ ChangesOnly [.roster] s t)) ∧
  ∀ (s : State) (c : Instr), makesBoundary s c → s.started → s.clock.pendingLabel = none →
    ∃ t, exec c s = .next t ∧ ∀ p : Fin 16,
      let slot := s.slot p.val
      let age : Nat := if slot.record.isSome then min 255 (slot.age + 1) else slot.age
      (nextLabel s % s.plan.b ≠ 0 ∨ slot.state = .absent → t.slot p.val = { slot with age := age }) ∧
      (nextLabel s % s.plan.b = 0 → slot.state ≠ .absent →
        (slot.silence < 2 → t.slot p.val = { slot with age := age, silence := slot.silence + 1 }) ∧
        (2 ≤ slot.silence → slot.silence < 7 →
          t.slot p.val = { slot with age := age, silence := slot.silence + 1, state := .silent }) ∧
        (7 ≤ slot.silence → t.slot p.val = { state := .absent, silence := 0, record := none, age := 0 }))

/-- At a beacon time the three evaluations are made with the roster as it then stands. A lost plan evaluation makes the
station ISOLATED, a lost label evaluation ADRIFT, where an enabled adoption waits for the offset of the majority; an
ADRIFT station that is not outvoted is JOINING; entering ISOLATED or ADRIFT quenches. The discord result joins the
history, and two LOST in a row at an ACTIVE station ask a recital of the lowest ACTIVE peer that disagrees. The listen
count of a JOINING station rises, and a BEACON with the label and the new state is held. Off a beacon time state, history
and listen count stand (R108, R113 to R119, R166). -/
def Obligations.BeaconTimeEvaluatesTheShelf : Prop :=
  ∀ (s : State) (c : Instr), makesBoundary s c → s.started → s.clock.pendingLabel = none →
    (∀ d, s.receiving = some d → d.wait < 3) →
    ∃ t, exec c s = .next t ∧
      (nextLabel s % s.plan.b ≠ 0 →
        t.station.state = s.station.state ∧ t.station.history = s.station.history ∧ t.station.listen = s.station.listen) ∧
      (nextLabel s % s.plan.b = 0 →
        let voters (p : Slot → Bool) : List Nat := (List.range 16).filter fun k => (t.slot k).counted && p (t.slot k)
        let drift : List Nat := voters fun sl => sl.state == .divergent
        let isolates : Prop := s.station.state ≠ .isolated ∧
          outvoted (s.pins.stn :: voters fun sl => sl.state != .mismatched) (voters fun sl => sl.state == .mismatched)
        let drifts : Prop := outvoted (s.pins.stn :: voters fun sl => sl.state != .divergent) drift
        let discord : Prop :=
          outvoted (s.pins.stn :: voters fun sl => sl.state == .present && !sl.disagrees)
            (voters fun sl => sl.state == .present && sl.disagrees)
        let size (d : Int) : Nat := drift.countP fun k => decide ((t.slot k).offset = d)
        let stays : Prop := ¬ isolates ∧ ¬ drifts ∧ s.station.state ≠ .adrift
        (isolates → t.station.state = .isolated ∧ noticed t .isolated ∧
          ∀ n : Fin 8, s.outputs[n].running = true → t.outputs[n].latch.isolated = true ∧ t.outputs[n].sp = false) ∧
        (s.station.state = .isolated → t.station.state = .isolated) ∧
        (¬ isolates → s.station.state ≠ .isolated → drifts →
          t.station.state = .adrift ∧
          (s.station.state ≠ .adrift → noticed t .adrift ∧
            ∀ (n : Fin 8) (b : Binding), s.outputs[n].running = true → s.outputs[n].binding = some b → b.quench = true →
              t.outputs[n].latch.adrift = true ∧ t.outputs[n].sp = false) ∧
          (s.plan.adopt = true → s.station.adoption = .absent ∨ (∃ d, s.station.adoption = .waiting d) →
            ∃ p ∈ drift, t.station.adoption = .waiting (t.slot p).offset ∧
              ∀ q ∈ drift, size (t.slot q).offset ≤ size (t.slot p).offset ∧
                (size (t.slot q).offset = size (t.slot p).offset →
                  ∃ k ∈ drift, (t.slot k).offset = (t.slot p).offset ∧ k ≤ q))) ∧
        (¬ isolates → s.station.state = .adrift → ¬ drifts → t.station.state = .joining ∧ t.station.listen = 1) ∧
        (stays → s.station.state ≠ .isolated → s.station.state ≠ .joining → t.station.state = s.station.state) ∧
        (stays → s.station.state = .joining → s.station.listen < 2 →
          t.station.state = .joining ∧ t.station.listen = s.station.listen + 1) ∧
        (stays → s.station.state = .joining → 2 ≤ s.station.listen →
          (∀ p : Fin 16, (t.slot p.val).activePeer = true →
            t.station.state = .receiving ∧ t.receiving.isSome = true) ∧
          ((∀ p : Fin 16, (t.slot p.val).activePeer = false) →
            t.station.state = if s.pins.att then .active else .listening)) ∧
        (∀ (r : EvalResult), (discord ↔ r = .lost) →
          let history : List EvalResult := (s.station.history ++ [r]).drop (s.station.history.length - 1)
          let asks (p : Nat) : Prop :=
            s.station.state = .active ∧ ¬ isolates ∧ ¬ drifts ∧ history = [.lost, .lost] ∧
              (t.slot p).activePeer = true ∧ (t.slot p).disagrees = true
          (∀ p : Fin 16, asks p.val → (∀ q, q < p.val → ¬ asks q) →
            t.station.history = [] ∧ (s.receiving = none →
              ∃ d, t.receiving = some d ∧ d.origin = .discord ∧ d.target = p.val ∧ d.source = none)) ∧
          ((∀ p : Fin 16, ¬ asks p.val) → t.station.state = s.station.state ∨ t.station.state = .adrift ∨
              t.station.state = .isolated ∨ s.station.state = .adrift →
            t.station.history = history)) ∧
        (t.station.state ≠ .listening →
          noticed t .txqFull ∨ ∃ f ∈ t.line.queue, f.kind = .beacon ∧
            ((∀ g ∈ s.line.queue, g.kind ≠ .beacon) →
              f.cls = 3 ∧ field f.body 0 5 = t.clock.label ∧ field f.body 5 1 = t.station.state.code)))

/-- Listening ends at a listen count of 3: with an ACTIVE peer PRESENT the station is RECEIVING and a recital is
asked of the lowest-numbered one, unless one is being received; otherwise it founds, ACTIVE or LISTENING by the level of
ATT, with table and scales as they stand. Below 3 nothing happens (R119, R126; the guard is the model's, log
entry 2). -/
def Obligations.ListeningEndsByRecitalOrFounding : Prop :=
  ∀ s : State,
    (s.station.state = .joining → 3 ≤ s.station.listen →
      (∀ p : Fin 16, (s.slot p.val).activePeer = true → (∀ q, q < p.val → (s.slot q).activePeer = false) →
        ∃ t, exec .endOfListening s = .next t ∧ t.station.state = .receiving ∧
          (s.receiving = none →
            ∃ c, t.receiving = some c ∧ c.origin = .joining ∧ c.target = p.val ∧ c.expected = 1 ∧ c.source = none) ∧
          (∀ c, s.receiving = some c → t.receiving = some c) ∧
          sameButMarks s t ∧
          ChangesOnly [.table, .line, .station, .sending, .receiving, .notices, .serial] s t) ∧
      ((∀ p : Fin 16, (s.slot p.val).activePeer = false) →
        ∃ t, exec .endOfListening s = .next t ∧
          t.station.state = (if s.pins.att then .active else .listening) ∧ t.station.history = [] ∧
          t.station.rejoin = false ∧ t.scales = s.scales ∧ sameButMarks s t ∧
          (s.pins.att = true → t.table = s.table ∧ t.line = s.line) ∧
          ChangesOnly [.table, .line, .station, .sending, .receiving] s t)) ∧
    (s.station.state ≠ .joining ∨ s.station.listen < 3 → exec .endOfListening s = .next s)

/-- A COUNTING arrangement that has reached 0 makes its value the pending label with origin ADOPTION, in place of
any pending label, and becomes REQUESTED. Any other arrangement stands (the model's guard, log entry 2). At a boundary
without a pending label and off a beacon time a COUNTING arrangement falls by one, and asks at once where it reaches 0
(R10, R116). -/
def Obligations.AdoptionIsRequestedAtZero : Prop :=
  ∀ s : State,
    (∀ v, s.station.adoption = .counting v 0 →
      exec .adoptionRequest s = .next
        { s with
          clock := { s.clock with pendingLabel := some { value := v, origin := .adoption } }
          station := { s.station with adoption := .requested v } }) ∧
    ((∀ v, s.station.adoption ≠ .counting v 0) → exec .adoptionRequest s = .next s) ∧
    ∀ (c : Instr) (v k : Nat), makesBoundary s c → s.started → s.clock.pendingLabel = none →
      nextLabel s % s.plan.b ≠ 0 → s.station.adoption = .counting v (k + 1) →
      ∃ t, exec c s = .next t ∧
        (k ≠ 0 → t.station = { s.station with adoption := .counting v k } ∧ t.clock.pendingLabel = none) ∧
        (k = 0 → t.station = { s.station with adoption := .requested v } ∧
          t.clock.pendingLabel = some { value := v, origin := .adoption })

/-- Below a wait count of 4 the attempt stands; at 4 it fails TIMEOUT: the next ACTIVE peer not yet tried is asked, or
the round fails with RECITAL_FAILED and the context is dropped, a JOINING round returning to JOINING. A sending context
goes with four failed offers or outside ACTIVE (R130, R131, R133, R134); otherwise it stands (the model's guard, log
entry 2). -/
def Obligations.RecitalsTimeOutAndAreAbandoned : Prop :=
  ∀ s : State,
    (∀ c : RecvCtx, s.receiving = some c → 4 ≤ c.wait →
      let peer := c.source.getD c.target
      let tried := addStation (addStation c.tried c.target) peer
      let open' (k : Nat) : Prop := (s.slot k).activePeer = true ∧ hasStation tried k = false
      (∀ k : Fin 16, open' k.val → (∀ j, j < k.val → ¬ open' j) →
        ∃ t d, exec .recitalTimeout s = .next t ∧ t.receiving = some d ∧ d.target = k.val ∧ d.origin = c.origin ∧
          d.source = none ∧ d.expected = 1 ∧ d.total = none ∧ d.wait = 0 ∧ d.tried = tried ∧
          d.attempts = c.attempts ++ [(peer, .timeout)] ∧ d.tallies = c.tallies ∧
          ChangesOnly [.line, .receiving, .notices, .serial] s t) ∧
      ((∀ k : Fin 16, ¬ open' k.val) →
        ∃ t, exec .recitalTimeout s = .next t ∧ t.receiving = none ∧
          (c.origin = .joining → t.station.state = .joining) ∧ (c.origin ≠ .joining → t.station = s.station) ∧
          raised (.recitalFailed c.origin (c.attempts ++ [(peer, .timeout)]) c.tallies) s t)) ∧
    (s.receiving = none → exec .recitalTimeout s = .next s) ∧
    (∀ c : RecvCtx, s.receiving = some c → c.wait < 4 → exec .recitalTimeout s = .next s) ∧
    (∀ c : SendCtx, s.sending = some c → (s.station.state ≠ .active ∨ 4 ≤ c.failed) →
      exec .recitalAbandon s = .next { s with sending := none }) ∧
    (∀ c : SendCtx, s.sending = some c → s.station.state = .active → c.failed < 4 → exec .recitalAbandon s = .next s)

/-! ### The line -/

/-- In HUNTING a quiet count of 11 gives IDLE with idle count 8; a start mark read in IDLE gives TAKING, with the start
mark read, and leaves the queue and its clash counts as they stand. In IDLE a permitted head frame is begun once the idle
count has reached its gap 8 + 16 (7 - c) + s, and not before, with CLD driven for its start mark; a head frame whose
kind is not permitted is then removed. CLD is released in every state but SENDING (R59, R60, R65, R66, R69, R70, R71).
In other line states and before the gap a command has no effect (the model's guard, log entries 2 and 34). -/
def Obligations.LineSynchronisesBeginsAndDefers : Prop :=
  (∀ s : State,
    (s.line.state = .hunting → 11 ≤ s.line.quiet →
      ∃ t, exec .lineSynchronised s = .next t ∧ t.line.state = .idle ∧ t.line.idle = 8 ∧
        t.line.queue = s.line.queue ∧ ChangesOnly [.line] s t) ∧
    (s.line.state ≠ .hunting ∨ s.line.quiet < 11 → exec .lineSynchronised s = .next s) ∧
    (s.line.state = .idle →
      ∃ t, exec .frameDefer s = .next t ∧ t.line.state = .taking ∧ t.line.queue = s.line.queue ∧
        t.line.bits = [false] ∧ t.line.idle = s.line.idle ∧ ChangesOnly [.line] s t) ∧
    (s.line.state ≠ .idle → exec .frameDefer s = .next s) ∧
    (s.line.state ≠ .sending → s.cld = true)) ∧
  ∀ (s : State) (f : Frame) (q : List Frame), s.line.state = .idle → s.line.queue = f :: q →
    (8 + 16 * (7 - f.cls) + s.pins.stn ≤ s.line.idle → kindPermitted s.station.state f.kind = true →
      ∃ t, exec .frameBegin s = .next t ∧ t.line.state = .sending ∧ t.line.bitPos = 1 ∧ t.cld = false ∧
        t.line.queue = { f with inTx := true } :: q ∧ ChangesOnly [.line] s t) ∧
    (s.line.idle < 8 + 16 * (7 - f.cls) + s.pins.stn → exec .frameBegin s = .next s) ∧
    (8 + 16 * (7 - f.cls) + s.pins.stn ≤ s.line.idle → kindPermitted s.station.state f.kind = false → q = [] →
      ∃ t, exec .frameBegin s = .next t ∧ t.line.state = .idle ∧ t.line.queue = [] ∧
        ChangesOnly [.table, .line, .sending, .receiving] s t)

/-- A frame read back to the end of its end mark leaves the queue and the line is IDLE with idle count 0; before that the
command has no effect (the model's guard, log entry 2). Its unit is told, unless a line reset removed it: an owed PROPOSE
or RATIFY leaves mark NONE, a RECITE_REQ of the present attempt is SENT, a RECITAL of the present recital offers the next
frame, and its SCALE_STATE ends the recital and begins one for a deferred audience (R73, R80, R81, R126, R129, R130). -/
def Obligations.SentFrameLeavesTheQueue : Prop :=
  ∀ (s : State),
    (s.line.state ≠ .sending ∨ (∀ f, s.line.queue.find? (fun x => x.inTx) = some f → s.line.bitPos ≤ 36 + 8 * f.body.length) →
      exec .frameSent s = .next s) ∧
    ∀ f : Frame, s.line.state = .sending → s.line.queue.find? (fun x => x.inTx) = some f →
      36 + 8 * f.body.length < s.line.bitPos →
      let q : List Frame := s.line.queue.eraseP (fun x => x.inTx)
      let idle (queue : List Frame) : Line :=
        { s.line with state := .idle, idle := 0, bits := [], bitPos := 0, phase := 0, queue := queue }
      let left : State := { s with line := idle q }
      let untold : Prop := exec .frameSent s = .next left
      let announced (old : Mark) : Prop :=
        (f.ident = none → untold) ∧
        ∀ id, f.ident = some id →
          ∃ t, exec .frameSent s = .next t ∧ t.line = idle q ∧
            (∀ e, s.find id = some e → t.find id = some (if e.mark = old then { e with mark := .none } else e)) ∧
            (∀ x, x ≠ id → t.find x = s.find x) ∧ sameButMarks s t ∧ ChangesOnly [.table, .line] s t
      let room : Prop := s.station.state = .active ∧ roomFor q 0 = true
      let stale : Prop := ∀ c, s.sending = some c → c.serial ≠ f.serial
      (f.removal = .silent → untold) ∧
      (f.removal ≠ .silent →
        (f.kind = .beacon ∨ f.kind = .endorse ∨ f.kind = .object → untold) ∧
        (f.kind = .propose → announced .proposeQueued) ∧
        (f.kind = .ratify → announced .ratifyQueued) ∧
        (f.kind = .reciteReq →
          (∀ c, s.receiving = some c → c.serial = f.serial →
            exec .frameSent s = .next { left with receiving := some { c with req := .sent } }) ∧
          ((∀ c, s.receiving = some c → c.serial ≠ f.serial) → untold)) ∧
        (f.kind = .recital ∨ f.kind = .scaleState → stale → untold) ∧
        (∀ c, f.kind = .recital → s.sending = some c → c.serial = f.serial →
          (room →
            ∃ t g, exec .frameSent s = .next t ∧
              t.sending = some { c with next := c.next + 1, failed := 0, offer := .queued } ∧
              t.line = idle (insertFrame g q) ∧ g.cls = 0 ∧ g.serial = c.serial ∧
              g.kind = (if c.next < c.snapshot.length then .recital else .scaleState) ∧
              ChangesOnly [.line, .sending] s t) ∧
          (¬ room →
            ∃ t, exec .frameSent s = .next t ∧
              t.sending = some { c with next := c.next + 1, failed := 1, offer := .due } ∧ t.line = idle q ∧
              (s.station.state = .active → noticed t .txqFull) ∧ ChangesOnly [.line, .sending, .notices] s t)) ∧
        (∀ c, f.kind = .scaleState → s.sending = some c → c.serial = f.serial →
          (c.deferred = 0 → exec .frameSent s = .next { left with sending := none }) ∧
          (c.deferred ≠ 0 →
            ∃ t d, exec .frameSent s = .next t ∧ t.sending = some d ∧
              d.snapshot = s.table.entries.map (fun e => e.id) ∧ d.next = 1 ∧ d.audience = c.deferred ∧ d.deferred = 0 ∧
              (room → d.offer = .queued ∧ d.failed = 0 ∧
                ∃ g, t.line = idle (insertFrame g q) ∧ g.cls = 0 ∧ g.serial = d.serial ∧
                  g.kind = if s.table.entries = [] then .scaleState else .recital) ∧
              (¬ room → d.offer = .due ∧ d.failed = 1 ∧ t.line = idle q) ∧
              ChangesOnly [.line, .sending, .notices, .serial] s t)))

/-- A read-back mismatch stops the frame, whose clash count rises by one; below 8 it keeps its place, at 8 it is
abandoned with LINE_FAULT and its unit told ABANDONED: its announcement is due again, its request DUE, or its recital
has one more failed offer. A bit read dominant where released before the end mark leaves the line TAKING, any other
mismatch HUNTING with quiet count 0. The model's choices: a frame marked for removal goes without LINE_FAULT, its unit
told PURGED, at its eighth clash too (log entry 37), LINE_FAULT gives the last mismatch and its bit position (log entry
31), and FRAME_ABANDONED removes a frame that stands at 8, or else is the eighth mismatch of a frame in transmission that
has clashed seven times, and has no effect where there is neither (log entry 2) (R72, R74, R75, R77, R81, R126, R130). -/
def Obligations.ClashStopsTheFrameAndEightAbandonIt : Prop :=
  (∀ (s : State) (f : Frame) (c : Instr),
    c = .clash ∨ (c = .frameAbandoned ∧ f.clash = 7 ∧ ∀ x ∈ s.line.queue, x.inTx = true ∨ x.clash < 8) →
    s.line.state = .sending → s.line.queue.find? (fun x => x.inTx) = some f →
    1 ≤ s.line.bitPos → s.line.bitPos ≤ 36 + 8 * f.body.length →
    let released := ((frameBits s.pins.stn f)[s.line.bitPos - 1]?).getD true
    let kind : Mismatch := if released then .dominantWhereReleased else .recessiveWhereDriven
    ∃ t, exec c s = .next t ∧
      (released = true → s.line.bitPos ≤ 33 + 8 * f.body.length → t.line.state = .taking) ∧
      (released = false ∨ 33 + 8 * f.body.length < s.line.bitPos → t.line.state = .hunting ∧ t.line.quiet = 0) ∧
      (f.removal = .none → f.clash < 7 →
        t.line.queue = (s.line.queue.map fun x =>
          if x.inTx then { x with clash := x.clash + 1, inTx := false, lastMismatch := some (kind, s.line.bitPos) }
          else x) ∧
        ChangesOnly [.line] s t) ∧
      (f.removal = .none → 7 ≤ f.clash →
        t.line.queue = s.line.queue.eraseP (fun x => x.inTx) ∧ toldUnsent true f s t ∧
        raised (.lineFault f.kind f.cls f.ident (some (kind, s.line.bitPos))) s t ∧
        ChangesOnly [.table, .line, .sending, .receiving, .notices] s t) ∧
      (f.removal = .marked →
        t.line.queue = s.line.queue.eraseP (fun x => x.inTx) ∧ toldUnsent false f s t ∧
        ChangesOnly [.table, .line, .sending, .receiving] s t) ∧
      (f.removal = .silent →
        t.line.queue = s.line.queue.eraseP (fun x => x.inTx) ∧ ChangesOnly [.line] s t)) ∧
  (∀ (s : State) (f : Frame), s.line.queue.find? (fun x => !x.inTx && decide (8 ≤ x.clash)) = some f →
    ∃ t, exec .frameAbandoned s = .next t ∧
      t.line = { s.line with queue := s.line.queue.eraseP (fun x => !x.inTx && decide (8 ≤ x.clash)) } ∧
      toldUnsent true f s t ∧ raised (.lineFault f.kind f.cls f.ident f.lastMismatch) s t ∧
      ChangesOnly [.table, .line, .sending, .receiving, .notices] s t) ∧
  ∀ s : State, (∀ x ∈ s.line.queue, x.inTx = true ∨ x.clash < 8) →
    (∀ f, s.line.queue.find? (fun x => x.inTx) = some f → f.clash ≠ 7) → exec .frameAbandoned s = .next s

/-- A frame that fails a receive check is discarded with RX_ERROR, by the first test that fails in the order
LENGTH, CHECK, END_MARK, OWN_NUMBER, SENDER_RANGE, FORM; the line is HUNTING after the first three and IDLE after
the others. That a frame which does not go on from the bits read has no effect is the model's choice, log entry 3 (R65,
R66, R67). -/
def Obligations.InvalidFrameIsDiscardedByTheFirstTest : Prop :=
  ∀ (s : State) (f : RawFrame),
    (s.hears f = false → exec (.rxFrameInvalid f) s = .next s) ∧ (s.hears f = true →
    let bad (cause : RxCause) : Prop :=
      ∃ t, exec (.rxFrameInvalid f) s = .next t ∧
        raised (.rxError cause f.sender.toNat f.kind.toNat f.length.toNat s.clock.label) s t ∧
        t.line.queue = s.line.queue ∧
        (if cause = .length ∨ cause = .check ∨ cause = .endMark then
          t.line.state = .hunting ∧ t.line.quiet = if f.endMark then 3 else 0
         else t.line.state = .idle ∧ t.line.idle = 0) ∧
        ChangesOnly [.line, .notices] s t
    let checked : Prop := crc16 (headerBytes f.cls f.sender f.kind f.length ++ f.body) = f.check
    (28 < f.length.toNat → bad .length) ∧
    (f.length.toNat ≤ 28 → ¬ checked → bad .check) ∧
    (f.length.toNat ≤ 28 → checked → f.endMark = false → bad .endMark) ∧
    (f.length.toNat ≤ 28 → checked → f.endMark = true →
      (f.sender.toNat = s.pins.stn → bad .ownNumber) ∧
      (f.sender.toNat ≠ s.pins.stn → s.plan.n ≤ f.sender.toNat → bad .senderRange) ∧
      (f.sender.toNat ≠ s.pins.stn → f.sender.toNat < s.plan.n →
        (FrameKind.ofCode f.kind.toNat = none → bad .form) ∧
        (∀ k, FrameKind.ofCode f.kind.toNat = some k →
          f.cls.toNat + frameClass k f.body ≠ 7 ∨ lengthPermitted k f.body = false → bad .form))))

/-! ### Received frames -/

/-- The sender of a valid frame is reported first: a slot in ABSENT or SILENT becomes PRESENT with no record and
PEER_CHANGE, another stands. PROPOSE, ENDORSE, OBJECT and RATIFY are then discarded in ISOLATED and from a DIVERGENT
or MISMATCHED sender, and PROPOSE in JOINING and ADRIFT (R65, R68, R82, R111). -/
def Obligations.SenderIsReportedAndFramesFollowTheState : Prop :=
  ∀ (s : State) (sender : BitVec 4),
    let u := afterReport s sender
    let p := sender.toNat
    (u.line.state = .idle ∧ u.line.idle = 0 ∧ u.line.queue = s.line.queue ∧ ChangesOnly [.line, .roster, .notices] s u) ∧
    ((s.slot p).state = .absent ∨ (s.slot p).state = .silent →
      (u.slot p).state = .present ∧ (u.slot p).silence = 0 ∧ (u.slot p).record = none ∧
      raised (.peerChange p (s.slot p).state .present .frame) s u) ∧
    ((s.slot p).state ≠ .absent → (s.slot p).state ≠ .silent → u.slot p = s.slot p ∧ u.notices = s.notices) ∧
    (∀ q, q ≠ p → u.slot q = s.slot q) ∧
    ∀ body : List Byte,
      (s.station.state = .isolated ∨ (s.slot p).state = .divergent ∨ (s.slot p).state = .mismatched →
        (audible s .propose sender body → lengthPermitted .propose body = true →
          ∀ w, exec (.propose sender ⟨body, w⟩) s = .next u) ∧
        (audible s .endorse sender body → body.length = 3 → exec (.endorse sender body) s = .next u) ∧
        (audible s .object sender body → body.length = 4 → exec (.object sender body) s = .next u) ∧
        (audible s .ratify sender body → body.length = 5 → exec (.ratify sender body) s = .next u)) ∧
      (s.station.state = .joining ∨ s.station.state = .adrift → audible s .propose sender body →
        lengthPermitted .propose body = true → ∀ w, exec (.propose sender ⟨body, w⟩) s = .next u)

/-- A BEACON gives its sender's slot a record with silence count and age 0: MISMATCHED where the plan digests
disagree, else DIVERGENT where the offset is not 0, else PRESENT. A WAITING arrangement that meets a DIVERGENT
sender at its offset counts down from B - 1 to the beacon's label + B, and asks at once where B is 1; any other stands.
A body that fails its test is RX_ERROR. The sender is reported first, so that an ABSENT or SILENT sender classified
DIVERGENT or MISMATCHED raises PEER_CHANGE with cause FRAME and then one with cause BEACON: that is the model's choice,
log entry 43 (R109, R110, R111, R116). -/
def Obligations.BeaconClassifiesItsSender : Prop :=
  ∀ (s : State) (sender : BitVec 4) (body : List Byte), audible s .beacon sender body → body.length = 11 →
    let u := afterReport s sender
    let p := sender.toNat
    let b := field body 0 5
    let offset : Int :=
      if b = s.clock.label ∨ (s.clock.tick < 1000000 ∧ b + 1 = s.clock.label) then 0
      else (b : Int) - (s.clock.label : Int)
    let digest : Word := BitVec.ofNat 16 (field body 6 2)
    let planDigest : Word := BitVec.ofNat 16 (field body 8 2)
    let new : SlotState :=
      if planDigest ≠ s.planDigest then .mismatched else if offset ≠ 0 then .divergent else .present
    (∀ st, StationState.ofBeaconCode (field body 5 1) = some st → field body 10 1 ≤ 1 →
      ∃ t, exec (.beacon sender body) s = .next t ∧
        t.slot p =
          { state := new, silence := 0, age := 0,
            record := some
              { label := b, offset := offset, digest := digest, agrees := decide (digest = crc16 s.digestBytes),
                planDigest := planDigest, state := st, busy := decide (field body 10 1 = 1) } } ∧
        (∀ q, q ≠ p → t.slot q = s.slot q) ∧
        ((u.slot p).state ≠ new → raised (.peerChange p (u.slot p).state new .beacon) u t) ∧
        ((∀ d, s.station.adoption = .waiting d → new ≠ .divergent ∨ offset ≠ d) →
          t.station = s.station ∧ t.clock = s.clock) ∧
        (∀ d, s.station.adoption = .waiting d → new = .divergent → offset = d →
          (2 ≤ s.plan.b → t.clock = s.clock ∧
            t.station = { s.station with adoption := .counting (b + s.plan.b) (s.plan.b - 1) }) ∧
          (s.plan.b = 1 → t.station = { s.station with adoption := .requested (b + 1) } ∧
            t.clock = { s.clock with pendingLabel := some { value := b + 1, origin := .adoption } })) ∧
        ChangesOnly [.clock, .line, .station, .roster, .notices] s t) ∧
    (StationState.ofBeaconCode (field body 5 1) = none ∨ 1 < field body 10 1 →
      ∃ t, exec (.beacon sender body) s = .next t ∧ raised (.rxError .formContent p 1 11 s.clock.label) u t ∧
        ChangesOnly [.notices] u t)

/-- A PROPOSE that screening accepts is stored PROPOSED with window label + E + 2; an ACTIVE station joins its
endorser set and offers an ENDORSE. One that it rejects stores nothing; an ACTIVE station offers an OBJECT with the
reason, and a RECEIVING or LISTENING station sends nothing and raises nothing. A record that fails R23 is RX_ERROR with
cause FORM_CONTENT (R86, R87). -/
def Obligations.ProposalsFromTheLineAreJudged : Prop :=
  (∀ (s : State) (sender : BitVec 4) (body : List Byte) (v : VerdictTime), v ≠ .later →
    audible s .propose sender body → lengthPermitted .propose body = true →
    s.station.state = .active ∨ s.station.state = .receiving ∨ s.station.state = .listening →
    (s.slot sender.toNat).state ≠ .divergent → (s.slot sender.toNat).state ≠ .mismatched →
    let u := afterReport s sender
    let p := sender.toNat
    (∀ (r : Record) (flags : List CfgRule), proposeRecord p body = some r → r.fieldsOk s.plan.n = true →
      screen u r = .accept flags →
      ∃ t, exec (.propose sender ⟨body, v⟩) s = .next t ∧
        t.find r.id = some
          { r with
            state := .proposed
            endorsers :=
              if s.station.state = .active then BitVec.twoPow 16 p ||| BitVec.twoPow 16 s.pins.stn else BitVec.twoPow 16 p
            flags := flags
            window := some (s.clock.label + s.plan.e + 2)
            stamp := s.table.nextStamp
            mark := .none } ∧
        (∀ id, id ≠ r.id → t.find id = s.find id) ∧
        t.table.version = s.table.version + 1 ∧ t.table.nextStamp = s.table.nextStamp + 1 ∧
        t.table.nextSeq = s.table.nextSeq ∧
        t.line.queue = (if s.station.state = .active ∧ roomFor s.line.queue 4 = true then
          insertFrame (newFrame .endorse 4 (endorseBody r.id) (some r.id) 0) s.line.queue else s.line.queue) ∧
        (∃ x ∈ t.notices.pending, x.notice.kind = .stored) ∧
        (flags ≠ [] → ∃ x ∈ t.notices.pending, x.notice.kind = .flagged) ∧
        ChangesOnly [.table, .line, .roster, .notices] s t) ∧
    ((∀ r, proposeRecord p body = some r → r.fieldsOk s.plan.n = false) →
      ∃ t, exec (.propose sender ⟨body, v⟩) s = .next t ∧
        raised (.rxError .formContent p 2 body.length s.clock.label) u t ∧ ChangesOnly [.notices] u t)) ∧
  ∀ (s : State) (sender : BitVec 4) (body : List Byte) (v : VerdictTime) (r : Record) (reason : Reason), v ≠ .later →
    audible s .propose sender body → lengthPermitted .propose body = true →
    (s.slot sender.toNat).state ≠ .divergent → (s.slot sender.toNat).state ≠ .mismatched →
    proposeRecord sender.toNat body = some r → r.fieldsOk s.plan.n = true →
    screen (afterReport s sender) r = .reject reason →
    (s.station.state = .receiving ∨ s.station.state = .listening →
      exec (.propose sender ⟨body, v⟩) s = .next (afterReport s sender)) ∧
    (s.station.state = .active →
      ∃ t, exec (.propose sender ⟨body, v⟩) s = .next t ∧ t.table = s.table ∧
        t.line.queue = (if roomFor s.line.queue 6 then
          insertFrame (newFrame .object 6 (objectBody r.id reason) (some r.id) 0) s.line.queue else s.line.queue) ∧
        (roomFor s.line.queue 6 = true → t.notices = (afterReport s sender).notices) ∧
        ChangesOnly [.line, .roster, .notices] s t)

/-- An ENDORSE adds its sender to the set of a PROPOSED entry; one that names nothing held, a settled entry or an
entry endorsed already is ignored. At the proposer the addition that brings the set to Q ratifies. A scheduled entry is
RATIFIED and a RATIFY with the set offered, or its mark is RATIFY_DUE where the station is not ACTIVE; one in conflict
with a settled entry is freed REFUSED with SPACING, and no RATIFY is offered. At an ACTIVE station a CUSTODY gives its
scale the custodian, a WITHDRAW frees its target unless that is APPLYING, and each is freed with its RATIFY offered; at
another it stays PROPOSED (R31, R89, R90, R98, R99). -/
def Obligations.EndorseAddsItsSender : Prop :=
  ∀ (s : State) (sender : BitVec 4) (body : List Byte), audible s .endorse sender body → body.length = 3 →
    s.station.state ≠ .isolated → s.started →
    (s.slot sender.toNat).state ≠ .divergent → (s.slot sender.toNat).state ≠ .mismatched →
    let u := afterReport s sender
    let id : Ident := { proposer := field body 0 1, seq := BitVec.ofNat 16 (field body 1 2) }
    let joined (e : Entry) : StationSet := e.endorsers ||| BitVec.twoPow 16 sender.toNat
    ((∀ e, s.find id = some e → e.state ≠ .proposed ∨ e.endorsers.getLsbD sender.toNat = true) →
      exec (.endorse sender body) s = .next u) ∧
    (∀ e, s.find id = some e → e.state = .proposed → e.endorsers.getLsbD sender.toNat = false →
      let othersStand (t : State) : Prop := ∀ x, x ≠ id → t.find x = s.find x
      let ratify : Frame := newFrame .ratify 5 (ratifyBody id (joined e)) (some id) 0
      let offered : List Frame := if roomFor s.line.queue 5 then insertFrame ratify s.line.queue else s.line.queue
      (id.proposer ≠ s.pins.stn ∨ s.quorum ≤ countStations e.endorsers ∨ countStations (joined e) < s.quorum →
        ∃ t, exec (.endorse sender body) s = .next t ∧ t.find id = some { e with endorsers := joined e } ∧
          othersStand t ∧ t.table.version = s.table.version + 1 ∧ ChangesOnly [.table] u t) ∧
      (id.proposer = s.pins.stn → countStations e.endorsers < s.quorum → s.quorum ≤ countStations (joined e) →
        2 ≤ s.plan.n →
        (e.kind.scheduled = true → s.settledConflicts e.toRecord = [] →
          ∃ t, exec (.endorse sender body) s = .next t ∧ othersStand t ∧ noticed t .ratified ∧
            (s.station.state = .active →
              t.find id = some
                { e with
                  state := .ratified
                  endorsers := joined e
                  window := none
                  mark := if roomFor s.line.queue 5 then .ratifyQueued else .ratifyDue } ∧
              t.line.queue = offered ∧ ChangesOnly [.table, .line, .notices] u t) ∧
            (s.station.state ≠ .active →
              t.find id = some { e with state := .ratified, endorsers := joined e, window := none, mark := .ratifyDue } ∧
              raised (.ratified id (joined e) .none) u t ∧ ChangesOnly [.table, .notices] u t)) ∧
        (e.kind.scheduled = true → s.settledConflicts e.toRecord ≠ [] →
          ∃ t, exec (.endorse sender body) s = .next t ∧ t.find id = none ∧ othersStand t ∧
            raised (.refused id .spacing s.pins.stn) u t ∧
            (∀ f ∈ t.line.queue, f.kind = .ratify → f.ident = some id → f.inTx = true) ∧
            (∀ f ∈ s.line.queue, f.ident ≠ some id → f ∈ t.line.queue) ∧ ChangesOnly [.table, .line, .notices] u t) ∧
        (e.kind.scheduled = false → s.station.state ≠ .active →
          ∃ t, exec (.endorse sender body) s = .next t ∧ t.find id = some { e with endorsers := joined e } ∧
            othersStand t ∧ ChangesOnly [.table] u t) ∧
        (s.station.state = .active → e.kind = .custody →
          ∃ t, exec (.endorse sender body) s = .next t ∧ t.find id = none ∧ othersStand t ∧
            (∀ k v, e.scale = some k → e.value = some v → 1 ≤ k → k ≤ 5 →
              t.scale k = { s.scale k with custodian := some v.toNat }) ∧
            t.line.queue = offered ∧ noticed t .ratified ∧
            (roomFor s.line.queue 5 = true → raised (.ratified id (joined e) .executed) u t) ∧
            ChangesOnly [.scales, .table, .line, .notices] u t) ∧
        ∀ x, s.station.state = .active → e.kind = .withdraw → e.target = some x → x ≠ id →
          ∃ t, exec (.endorse sender body) s = .next t ∧ t.find id = none ∧
            (∀ w, s.find x = some w → w.state = .applying → t.find x = some w ∧ noticed t .withdrawTooLate) ∧
            (∀ w, s.find x = some w → w.state ≠ .applying → t.find x = none ∧ noticed t .withdrawn) ∧
            (∀ y, y ≠ id → y ≠ x → t.find y = s.find y) ∧ (s.find x = none → t.find x = none) ∧
            (roomFor s.line.queue 5 = true → ratify ∈ t.line.queue) ∧ noticed t .ratified ∧
            ChangesOnly [.table, .line, .notices] u t))

/-- An OBJECT frees a PROPOSED entry REFUSED and removes this station's unsent frames for it; a settled entry draws
LATE_OBJECTION, nothing held is ignored, and a reason code outside 1 to 14 is RX_ERROR (R92, R35, R77). -/
def Obligations.ObjectRefusesTheProposal : Prop :=
  ∀ (s : State) (sender : BitVec 4) (body : List Byte), audible s .object sender body → body.length = 4 →
    s.station.state ≠ .isolated → s.started →
    (s.slot sender.toNat).state ≠ .divergent → (s.slot sender.toNat).state ≠ .mismatched →
    let u := afterReport s sender
    let id : Ident := { proposer := field body 0 1, seq := BitVec.ofNat 16 (field body 1 2) }
    (field body 3 1 = 0 ∨ 14 < field body 3 1 →
      ∃ t, exec (.object sender body) s = .next t ∧
        raised (.rxError .formContent sender.toNat 4 4 s.clock.label) u t ∧ ChangesOnly [.notices] u t) ∧
    ∀ reason : Reason, reason.code = field body 3 1 →
      (s.find id = none → exec (.object sender body) s = .next u) ∧
      (∀ e, s.find id = some e →
        (e.state ≠ .proposed →
          ∃ t, exec (.object sender body) s = .next t ∧ raised (.lateObjection id sender.toNat reason) u t ∧
            ChangesOnly [.notices] u t) ∧
        (e.state = .proposed →
          ∃ t, exec (.object sender body) s = .next t ∧ raised (.refused id reason sender.toNat) u t ∧
            t.find id = none ∧ (∀ x, x ≠ id → t.find x = s.find x) ∧
            (∀ f ∈ t.line.queue, f.ident = some id → f.kind = .endorse ∨ f.kind = .object ∨ f.kind = .ratify →
              f.inTx = true ∧ f.removal ≠ .none) ∧
            (∀ f ∈ s.line.queue, f.ident ≠ some id → f ∈ t.line.queue) ∧
            ChangesOnly [.table, .line, .notices] u t))

/-- A RATIFY is tested for its sender and its set in the order of R94. One that passes ratifies a PROPOSED entry with
the frame's set, leaves a settled one, and names nothing held as MISSED_ENTRY, for which an ACTIVE station asks a
recital of the proposer (R94, R95, R31, R126). -/
def Obligations.RatifyIsTestedAndTakesEffect : Prop :=
  ∀ (s : State) (sender : BitVec 4) (body : List Byte), audible s .ratify sender body → body.length = 5 →
    s.station.state ≠ .isolated → s.started →
    (s.slot sender.toNat).state ≠ .divergent → (s.slot sender.toNat).state ≠ .mismatched →
    let u := afterReport s sender
    let id : Ident := { proposer := field body 0 1, seq := BitVec.ofNat 16 (field body 1 2) }
    let set : StationSet := BitVec.ofNat 16 (field body 3 2)
    let error (cause : RxCause) : Prop :=
      ∃ t, exec (.ratify sender body) s = .next t ∧ raised (.rxError cause sender.toNat 5 5 s.clock.label) u t ∧
        ChangesOnly [.notices] u t
    let inRange : Prop := ∀ k : Fin 16, set.getLsbD k.val = true → k.val < s.plan.n
    (sender.toNat ≠ id.proposer → error .notProposer) ∧
    (sender.toNat = id.proposer → ¬ inRange → error .setRange) ∧
    (sender.toNat = id.proposer → inRange → countStations set < s.quorum → error .shortSet) ∧
    (sender.toNat = id.proposer → inRange → s.quorum ≤ countStations set → set.getLsbD id.proposer = false →
      error .setRange) ∧
    (sender.toNat = id.proposer → inRange → s.quorum ≤ countStations set → set.getLsbD id.proposer = true →
      (∀ e, s.find id = some e → e.state ≠ .proposed → exec (.ratify sender body) s = .next u) ∧
      (s.find id = none → s.station.state ≠ .active →
        ∃ t, exec (.ratify sender body) s = .next t ∧ raised (.missedEntry id set s.clock.label) u t ∧
          ChangesOnly [.notices] u t) ∧
      (s.find id = none → s.station.state = .active →
        ∃ t, exec (.ratify sender body) s = .next t ∧ (∃ x ∈ t.notices.pending, x.notice.kind = .missedEntry) ∧
          (∀ c, s.receiving = some c → t.receiving = some c) ∧
          (s.receiving = none → ∃ c, t.receiving = some c ∧ c.origin = .missedEntry ∧ c.target = id.proposer ∧
            c.source = none ∧ c.expected = 1 ∧ c.total = none ∧ c.wait = 0 ∧
            c.req = (if roomFor s.line.queue 1 then .queued else .due)) ∧
          ChangesOnly [.line, .receiving, .notices, .serial] u t) ∧
      (∀ e, s.find id = some e → e.state = .proposed → e.kind.scheduled = true →
        ∃ t, exec (.ratify sender body) s = .next t ∧
          (s.settledConflicts e.toRecord = [] →
            t.find id = some { e with state := .ratified, endorsers := set, window := none } ∧
            raised (.ratified id set .none) u t) ∧
          (s.settledConflicts e.toRecord ≠ [] →
            t.find id = none ∧ raised (.refused id .spacing s.pins.stn) u t) ∧
          (∀ x, x ≠ id → t.find x = s.find x) ∧ ChangesOnly [.table, .line, .notices] u t) ∧
      (∀ e, s.find id = some e → e.state = .proposed → e.kind = .custody →
        ∃ t, exec (.ratify sender body) s = .next t ∧ t.find id = none ∧ raised (.ratified id set .executed) u t ∧
          (∀ k v, e.scale = some k → e.value = some v → 1 ≤ k → k ≤ 5 →
            t.scale k = { s.scale k with custodian := some v.toNat }) ∧
          t.line.queue = s.line.queue ∧ ChangesOnly [.scales, .table, .notices] u t) ∧
      (∀ e x w, s.find id = some e → e.state = .proposed → e.kind = .withdraw → e.target = some x → x ≠ id →
        s.find x = some w →
        ∃ t, exec (.ratify sender body) s = .next t ∧ t.find id = none ∧
          (w.state ≠ .applying → t.find x = none) ∧ (w.state = .applying → t.find x = some w) ∧
          ChangesOnly [.table, .line, .notices] u t))

/-- A RECITE_REQ for this ACTIVE station starts a recital of the entries held, in table order, or moves the requester
to the deferred audience of the one under way; a target at or above N is RX_ERROR, and other requests are ignored
(R127, R128). -/
def Obligations.ReciteReqPlacesTheRequester : Prop :=
  ∀ (s : State) (sender : BitVec 4) (body : List Byte), audible s .reciteReq sender body → body.length = 1 →
    let u := afterReport s sender
    let p := sender.toNat
    let target := field body 0 1
    let refusedHere : Prop :=
      target ≠ s.pins.stn ∨ s.station.state ≠ .active ∨ (s.slot p).state = .divergent ∨ (s.slot p).state = .mismatched
    (s.plan.n ≤ target →
      ∃ t, exec (.reciteReq sender body) s = .next t ∧ raised (.rxError .formContent p 6 1 s.clock.label) u t ∧
        ChangesOnly [.notices] u t) ∧
    (target < s.plan.n → refusedHere → exec (.reciteReq sender body) s = .next u) ∧
    (target < s.plan.n → ¬ refusedHere →
      (∀ c, s.sending = some c →
        ∃ t d, exec (.reciteReq sender body) s = .next t ∧ t.sending = some d ∧
          d = { c with audience := d.audience, deferred := d.deferred } ∧
          d.audience.getLsbD p = false ∧ d.deferred.getLsbD p = true ∧
          (∀ q, q ≠ p → d.audience.getLsbD q = c.audience.getLsbD q ∧ d.deferred.getLsbD q = c.deferred.getLsbD q) ∧
          ChangesOnly [.sending] u t) ∧
      (s.sending = none →
        ∃ t c, exec (.reciteReq sender body) s = .next t ∧ t.sending = some c ∧
          c.snapshot = s.table.entries.map (fun e => e.id) ∧ c.next = 1 ∧ c.audience = BitVec.twoPow 16 p ∧
          c.deferred = 0 ∧
          (roomFor s.line.queue 0 = true → c.offer = .queued ∧ c.failed = 0 ∧
            ∃ f, t.line.queue = insertFrame f s.line.queue ∧ f.cls = 0 ∧
              f.kind = (if s.table.entries = [] then .scaleState else .recital)) ∧
          (roomFor s.line.queue 0 = false → c.offer = .due ∧ c.failed = 1 ∧ t.line.queue = s.line.queue) ∧
          ChangesOnly [.line, .sending, .notices, .serial] u t))

/-- A RECITAL or SCALE_STATE is ignored without a receiving context, from a DIVERGENT or MISMATCHED sender, from another
than the source, and while no source is taken unless its index is 1. A VACANT record taken in order raises the expected
index and sets the wait count to 0; another index from the source fails the attempt with GAP. So does a frame taken in
order that fails its test of form, with RX_ERROR of cause FORM_CONTENT: another total, an index not below it (for a
SCALE_STATE, not equal to it), a record that fails R23, a settled CUSTODY or WITHDRAW, a settled record with fewer than Q
endorsers or a window remaining, or a PROPOSED one with none (R132, R133). -/
def Obligations.RecitalFramesAreTakenInOrder : Prop :=
  ∀ (s : State) (sender : BitVec 4) (body : List Byte) (i : Instr) (kind : FrameKind),
    (i = .recital sender body ∧ kind = .recital ∧ (body.length = 2 ∨ body.length = 23)) ∨
      (i = .scaleState sender body ∧ kind = .scaleState ∧ body.length = 27) →
    audible s kind sender body →
    let u := afterReport s sender
    let p := sender.toNat
    let index := field body 0 1
    let total := field body 1 1
    let apart : Prop := (s.slot p).state = .divergent ∨ (s.slot p).state = .mismatched
    (s.receiving = none ∨ apart → exec i s = .next u) ∧
    ∀ c, s.receiving = some c → ¬ apart →
      let gap (t : State) : Prop :=
        (∀ d, t.receiving = some d → d.attempts = c.attempts ++ [(p, .gap)] ∧ d.source = none ∧ d.expected = 1 ∧
          d.total = none ∧ d.wait = 0 ∧ d.origin = c.origin ∧ d.tallies = c.tallies) ∧
        (t.receiving = none → noticed t .recitalFailed) ∧ t.scales = s.scales ∧
        ChangesOnly [.table, .line, .station, .sending, .receiving, .notices, .serial] u t
      let badRecord (rr : RecitalRecord) : Prop :=
        rr.record.wellFormed s.plan.n rr.endorsers = false ∨
        (rr.state = .proposed ∧ (rr.window = false ∨ rr.remaining = 0)) ∨
        (rr.state ≠ .proposed ∧ (rr.record.kind = .custody ∨ rr.record.kind = .withdraw ∨
          countStations rr.endorsers < s.quorum ∨ rr.window = true ∨ rr.remaining ≠ 0))
      let malformed : Prop :=
        (kind = .recital ∧ total ≤ index) ∨ (kind = .scaleState ∧ index ≠ total) ∨
        (kind = .recital ∧ body.length = 23 ∧ ∀ rr, recitalRecord body = some rr → badRecord rr)
      (c.source = none → index ≠ 1 → exec i s = .next u) ∧
      (∀ q, c.source = some q → q ≠ p → exec i s = .next u) ∧
      (c.source = none → c.expected = 1 → index = 1 → 1 < total → body.length = 2 →
        exec i s = .next
          { u with receiving := some { c with source := some p, total := some total, wait := 0, expected := 2 } }) ∧
      (c.source = some p → index = c.expected → c.total = some total → index < total → body.length = 2 →
        exec i s = .next { u with receiving := some { c with wait := 0, expected := c.expected + 1 } }) ∧
      (c.source = some p → index ≠ c.expected → ∃ t, exec i s = .next t ∧ gap t) ∧
      ((c.source = none ∧ index = 1 ∧ malformed) ∨
        (c.source = some p ∧ index = c.expected ∧ ∃ n, c.total = some n ∧ (n ≠ total ∨ malformed)) →
        ∃ t, exec i s = .next t ∧ gap t ∧ noticed t .rxError ∧
          (¬ noticed s .rxError →
            ∃ x ∈ t.notices.pending, x.notice = .rxError .formContent p kind.code body.length s.clock.label))

/-- A settled record taken in order, in the first frame of its recital or a later one, whose identifier is not held is
stored with its own set and no flags, as APPLYING once turn - H has come, where it conflicts with no settled entry; a
LEAP_ADD is taken up to its turn, the others before it. Without room the attempt fails MERGE_FULL. An own identifier
ahead of the next sequence moves it (R132, R136, R137). -/
def Obligations.SettledRecordIsInserted : Prop :=
  ∀ (s : State) (sender : BitVec 4) (body : List Byte) (c : RecvCtx) (rr : RecitalRecord) (turn : Nat),
    audible s .recital sender body → body.length = 23 → s.receiving = some c →
    (s.slot sender.toNat).state ≠ .divergent → (s.slot sender.toNat).state ≠ .mismatched →
    (c.source = some sender.toNat ∧ field body 0 1 = c.expected ∧ c.total = some (field body 1 1) ∧
        c.expected < field body 1 1) ∨
      (c.source = none ∧ field body 0 1 = 1 ∧ 1 < field body 1 1) →
    recitalRecord body = some rr → rr.record.wellFormed s.plan.n rr.endorsers = true →
    rr.record.kind.scheduled = true → rr.state ≠ .proposed → s.quorum ≤ countStations rr.endorsers →
    rr.window = false → rr.remaining = 0 →
    s.find rr.record.id = none → rr.record.turn = some turn →
    s.clock.label < turn ∨ (rr.record.kind = .leapAdd ∧ s.clock.label = turn) →
    s.settledConflicts rr.record = [] →
    ∃ t, exec (.recital sender body) s = .next t ∧
      (rr.record.id.proposer = s.pins.stn → (rr.record.id.seq - s.table.nextSeq).toNat < 32768 →
        t.table.nextSeq = rr.record.id.seq + 1) ∧
      (rr.record.id.proposer ≠ s.pins.stn ∨ 32768 ≤ (rr.record.id.seq - s.table.nextSeq).toNat →
        t.table.nextSeq = s.table.nextSeq) ∧
      (s.hasRoom rr.record.kind = true →
        t.find rr.record.id = some
          { rr.record with
            state := if turn ≤ s.clock.label + s.plan.h then .applying else rr.state
            endorsers := rr.endorsers
            flags := []
            window := none
            stamp := s.table.nextStamp
            mark := .none } ∧
        (∃ d, t.receiving = some d ∧ d.source = some sender.toNat ∧ d.total = some (field body 1 1) ∧
          d.wait = 0 ∧ d.expected = c.expected + 1 ∧
          d.tallies = { c.tallies with inserted := c.tallies.inserted + 1 }) ∧
        (∃ x ∈ t.notices.pending, x.notice.kind = .stored) ∧
        ChangesOnly [.table, .line, .roster, .receiving, .notices] s t) ∧
      (s.hasRoom rr.record.kind = false →
        t.find rr.record.id = none ∧
        ∀ d, t.receiving = some d → d.attempts = c.attempts ++ [(sender.toNat, .mergeFull)])

/-- A record taken in order, in the first frame of its recital or a later one, whose identifier is held advances the
entry to a later state with the record's set, or is skipped with MERGE_CONFLICT where that would put two settled turns
within H; otherwise it joins the set of a PROPOSED entry, and the entry is tallied unchanged. A record that is not held
is skipped where it is already complete, a proposal of this station or one too late to be agreed, and where it
conflicts; a PROPOSED one is inserted with its window remaining. The entry keeps its own fields where the record's
differ, and a CUSTODY or WITHDRAW entry is not advanced (log entry 39). An advance to APPLYING raises RATIFIED as one to
RATIFIED does (log entry 20), and an entry that gains endorsers alone counts as unchanged in the tallies (log entry 21);
these three are the model's (R132, R135, R136, R137). -/
def Obligations.RecitalRecordsAreMergedOrSkipped : Prop :=
  ∀ (s : State) (sender : BitVec 4) (body : List Byte) (c : RecvCtx) (rr : RecitalRecord),
    audible s .recital sender body → body.length = 23 → s.receiving = some c →
    (s.slot sender.toNat).state ≠ .divergent → (s.slot sender.toNat).state ≠ .mismatched →
    (c.source = some sender.toNat ∧ field body 0 1 = c.expected ∧ c.total = some (field body 1 1) ∧
        c.expected < field body 1 1) ∨
      (c.source = none ∧ field body 0 1 = 1 ∧ 1 < field body 1 1) →
    recitalRecord body = some rr → rr.record.wellFormed s.plan.n rr.endorsers = true →
    (rr.state = .proposed → rr.window = true ∧ rr.remaining ≠ 0) →
    (rr.state ≠ .proposed → rr.window = false ∧ rr.remaining = 0 ∧ rr.record.kind.scheduled = true ∧
      s.quorum ≤ countStations rr.endorsers) →
    let r := rr.record
    let past (id : Ident) (q : Word) : Word :=
      if id.proposer = s.pins.stn ∧ (id.seq - q).toNat < 32768 then id.seq + 1 else q
    let seq : Word := r.target.elim (past r.id s.table.nextSeq) fun x => past x (past r.id s.table.nextSeq)
    let taken (tallies : Tallies) : Option RecvCtx :=
      some
        { c with source := some sender.toNat, total := some (field body 1 1), wait := 0, expected := c.expected + 1,
                 tallies := tallies }
    let passed (tallies : Tallies) (t : State) : Prop :=
      exec (.recital sender body) s = .next t ∧ t.table.nextSeq = seq ∧ t.receiving = taken tallies ∧
        ChangesOnly [.table, .line, .roster, .receiving, .notices, .free] s t
    let kept : Tallies := { c.tallies with unchanged := c.tallies.unchanged + 1 }
    let skipped : Tallies := { c.tallies with skipped := c.tallies.skipped + 1 }
    let conflict : Tallies := { skipped with conflicts := c.tallies.conflicts + 1 }
    let stands (t : State) : Prop := t.table.entries = s.table.entries ∧ t.table.version = s.table.version
    let complete (x : Nat) : Prop := if r.kind = .leapAdd then x < s.clock.label else x ≤ s.clock.label
    let soon (x : Nat) : Prop := x ≤ s.clock.label + s.plan.e + 2 + s.plan.h
    let late : Prop :=
      (r.kind.scheduled = true ∧ ∃ x, r.turn = some x ∧ soon x) ∨
      (r.kind = .withdraw ∧ ∃ x e, r.target = some x ∧ s.find x = some e ∧
        (e.state = .applying ∨ ∃ y, e.turn = some y ∧ soon y))
    (∀ e, s.find r.id = some e →
      (e.state.code < rr.state.code → e.kind.scheduled = true →
        (s.settledConflicts e.toRecord = [] → ∃ t, passed { c.tallies with advanced := c.tallies.advanced + 1 } t ∧
          t.find r.id = some { e with state := rr.state, endorsers := rr.endorsers, window := none, mark := .none } ∧
          (∀ id, id ≠ r.id → (∀ x ∈ s.table.entries, x.id = id → x.kind ≠ .withdraw) → t.find id = s.find id) ∧
          noticed t .ratified) ∧
        (s.settledConflicts e.toRecord ≠ [] → ∃ t, passed conflict t ∧ stands t ∧ noticed t .mergeConflict)) ∧
      (e.state.code < rr.state.code → e.kind.scheduled = false → ∃ t, passed kept t ∧ stands t) ∧
      (e.state ≠ .proposed → rr.state.code ≤ e.state.code → ∃ t, passed kept t ∧ stands t) ∧
      (e.state = .proposed → rr.state = .proposed →
        let joined : StationSet := e.endorsers ||| rr.endorsers
        let quorate : Prop :=
          e.id.proposer = s.pins.stn ∧ countStations e.endorsers < s.quorum ∧ s.quorum ≤ countStations joined
        (¬ quorate → ∃ t, passed kept t ∧ t.find r.id = some { e with endorsers := joined } ∧
          ∀ id, id ≠ r.id → t.find id = s.find id) ∧
        (quorate → e.kind.scheduled = true → s.settledConflicts e.toRecord = [] → ∃ t m, passed kept t ∧
          t.find r.id = some { e with state := .ratified, endorsers := joined, window := none, mark := m } ∧
          noticed t .ratified))) ∧
    (s.find r.id = none →
      ((∃ x, r.kind.scheduled = true ∧ r.turn = some x ∧ complete x) ∨ (rr.state = .proposed ∧ r.id.proposer = s.pins.stn) ∨
          (rr.state = .proposed ∧ late) →
        ∃ t, passed skipped t ∧ stands t) ∧
      ((∀ x, r.kind.scheduled = true → r.turn = some x → ¬ complete x) → rr.state ≠ .proposed →
        s.settledConflicts r ≠ [] →
        ∃ t, passed conflict t ∧ stands t ∧ noticed t .mergeConflict) ∧
      ((∀ x, r.kind.scheduled = true → r.turn = some x → ¬ complete x) → rr.state = .proposed →
        r.id.proposer ≠ s.pins.stn → ¬ late → s.hasRoom r.kind = true →
        ∃ t, passed { c.tallies with inserted := c.tallies.inserted + 1 } t ∧
          t.find r.id = some
            { r with state := .proposed, endorsers := rr.endorsers, flags := [],
                     window := some (s.clock.label + rr.remaining), stamp := s.table.nextStamp, mark := .none } ∧
          (∀ id, id ≠ r.id → t.find id = s.find id) ∧ noticed t .stored))

/-- A SCALE_STATE taken in order, the first frame of its recital or a later one, is adopted where its label is the own
one and every value and custodian suits the scales defined here: they take what it carries, their markers stand, and the
recital is done; a JOINING round leaves the station ACTIVE or LISTENING by ATT. A RUNNING output has realign pending
where the count of its scale changed, which for a LOCAL scale is the model's reading (log entry 25). Otherwise no scale
changes and the attempt fails OVERTAKEN (R20, R120, R132, R138, R163). -/
def Obligations.ScaleStateIsAdoptedWhole : Prop :=
  ∀ (s : State) (sender : BitVec 4) (body : List Byte) (c : RecvCtx),
    audible s .scaleState sender body → body.length = 27 → s.receiving = some c →
    (s.slot sender.toNat).state ≠ .divergent → (s.slot sender.toNat).state ≠ .mismatched →
    (c.source = some sender.toNat ∧ field body 0 1 = c.expected ∧ c.total = some c.expected ∧ field body 1 1 = c.expected) ∨
      (c.source = none ∧ field body 0 1 = 1 ∧ field body 1 1 = 1) →
    let value (i : Fin 5) : Int := (BitVec.ofNat 24 (field body (7 + 4 * i.val) 3)).toInt
    let custodian (i : Fin 5) : Option Nat :=
      if field body (10 + 4 * i.val) 1 = 255 then none else some (field body (10 + 4 * i.val) 1)
    let fits (i : Fin 5) : Prop :=
      s.scales[i].kind = .undefined ∨
      ((s.scales[i].kind = .civil → -255 ≤ value i ∧ value i ≤ 255) ∧
       (s.scales[i].kind = .localScale → -86400 ≤ value i ∧ value i ≤ 86400) ∧
       (∀ k, custodian i = some k → k < s.plan.n))
    (field body 2 5 = s.clock.label → (∀ i, fits i) →
      ∃ t, exec (.scaleState sender body) s = .next t ∧
        (∀ i : Fin 5, t.scales[i] =
          if s.scales[i].kind = .undefined then s.scales[i]
          else { s.scales[i] with value := value i, custodian := custodian i }) ∧
        t.receiving = none ∧ (∃ x ∈ t.notices.pending, x.notice.kind = .recitalDone) ∧
        (c.origin = .joining → t.station.state = if s.pins.att then .active else .listening) ∧
        (c.origin ≠ .joining → t.station = s.station) ∧
        (∀ (n : Fin 8) (b : Binding), s.outputs[n].binding = some b → s.outputs[n].running = true →
          t.outputs[n].realign = (s.outputs[n].realign || decide (t.count b.scale ≠ s.count b.scale))) ∧
        ChangesOnly [.scales, .table, .line, .station, .roster, .sending, .receiving, .outputs, .notices] s t) ∧
    (field body 2 5 ≠ s.clock.label ∨ ¬ (∀ i, fits i) →
      ∃ t, exec (.scaleState sender body) s = .next t ∧ t.scales = s.scales ∧ t.outputs = s.outputs ∧
        (∀ d, t.receiving = some d → d.attempts = c.attempts ++ [(sender.toNat, .overtaken)]) ∧
        (t.receiving = none → noticed t .recitalFailed))

/-! ### The Output Units -/

/-- A base boundary reaches the RUNNING outputs. One whose period is BOUNDARY begins its second: the next width and period
are loaded, the tick count restarts, a 16-byte record is composed, and SPn and TCn are driven, or held silent while the
latch is set. STEP clears force full; HOLD sets it, with the held flag, where INSERT_BEGIN was taken; SMEAR arms W + 1 or
W labels before a turn within reach, opens in the second after, and holds at index W. At its end label a window closes
COMPLETED, or CUT below index W. A tick period runs on, and an output that is not RUNNING stands. The record shows the
calendar form of the scale's count, with second 60 while the marker is set and none is held or smeared, the value, the
warnings, the days to turn, the flags and the station and lock state as they stand after the other units (log entry 4)
(R157, R159, R161, R162, R164, R167, R168, R172 to R179). -/
def Obligations.BaseBoundaryReachesTheOutputs : Prop :=
  ∀ (s : State) (c : Instr), makesBoundary s c → ∃ t, exec c s = .next t ∧ ∀ n : Fin 8,
    let o := s.outputs[n]
    let p := t.outputs[n]
    let runsOn : Prop :=
      p.tick = o.tick ∧ p.curWidth = o.curWidth ∧ p.curPeriod = o.curPeriod ∧ p.last = o.last ∧ p.underWay = o.underWay
    (o.running = false → p = o) ∧
    (o.running = true → o.latch.set = true → o.releasePending = false → p.latch.set = true) ∧
    (o.running = true → ContextsPlaced s → p.latch.set = true →
      o.latch.set = true ∨ t.station.state = .adrift ∨ t.station.state = .isolated) ∧
    ∀ b : Binding, o.running = true → o.binding = some b →
      let opens : Prop := ∃ w leap k x, b.presentation = .smear w ∧ o.smear = .opened leap k x
      let closes : Prop := ∃ w leap x, b.presentation = .smear w ∧ o.smear = .opened leap w x ∧ t.clock.label = leap.endLabel
      (∀ w leap k x, b.presentation = .smear w → o.smear = .opened leap k x →
        (t.clock.label = leap.endLabel →
          p.result = (if k = w then .completed leap.id else .cut leap.id) ∧
          (o.curPeriod ≠ .boundary → p.smear = .absent ∧ runsOn ∧ (k ≠ w → p.nextPeriod = .boundary))) ∧
        (t.clock.label ≠ leap.endLabel → k = w ∨ o.curPeriod ≠ .boundary →
          p.smear = o.smear ∧ p.result = o.result ∧ runsOn)) ∧
      (¬ opens → o.curPeriod ≠ .boundary → runsOn ∧ p.smear = o.smear ∧ p.nextPeriod = o.nextPeriod) ∧
      (¬ opens ∨ closes → o.curPeriod = .boundary →
          ∃ bytes, p.last = some bytes ∧ bytes.length = 16 ∧ bytes[0]? = some 0x24 ∧
            bytes[1]? = some (BitVec.ofNat 8 (n.val * 16 + b.scale)) ∧ byteSum bytes % 256 = 0 ∧
            p.curWidth = o.nextWidth ∧ p.curPeriod = o.nextPeriod ∧ p.tick = 0 ∧ p.releasePending = false ∧
            (let took (x : ScaleChange) : Prop := ∃ r, t.changeOf b.scale = some r ∧ r.change = x ∧ r.taken = true
             let smears : Prop := ∃ w leap, b.presentation = .smear w ∧ o.smear = .armed leap
             let held : Prop := b.presentation = .hold ∧ took .insertBegin
             recordShows t b.scale (t.count b.scale) (t.familyInserted b.scale = true ∧ ¬ held ∧ ¬ smears) smears held
               (took .offsetTo ∧ ¬ smears) (p.realign = true) bytes) ∧
            (o.releasePending = true → ContextsPlaced s → t.station.state ≠ .adrift → t.station.state ≠ .isolated → p.latch.set = false) ∧
            (p.latch.set = true → p.sp = false ∧ p.underWay = o.underWay) ∧
            (p.latch.set = false → p.sp = (p.forceFull || decide (0 < o.nextWidth)) ∧
              (o.underWay = none → p.underWay = some { bytes := bytes, twelfths := 0 }) ∧
              ∀ x, o.underWay = some x → p.underWay = some x ∧ p.owed = some bytes) ∧
            (b.presentation = .step → p.forceFull = false) ∧
            (b.presentation = .hold →
              (p.forceFull = true ↔ ∃ r, t.changeOf b.scale = some r ∧ r.change = .insertBegin ∧ r.taken = true) ∧
              ((bytes[12]?).getD 0).getLsbD 4 = p.forceFull) ∧
            (∀ w, b.presentation = .smear w → p.forceFull = false ∧
              (∀ leap, o.smear = .armed leap → p.smear = .opened leap 1 (t.count b.scale)) ∧
              (∀ r turn, o.smear = .absent → t.applyingFor b.scale = some r → r.turn = some turn →
                let lag := (t.scale ((t.family b.scale).getD 0)).value
                (r.kind = .leapAdd → t.clock.label + w + 1 = turn → lag < 255 →
                  p.nextPeriod = .ticks (10000000 + 10000000 / w) ∧
                  p.smear = .armed { add := true, id := r.id, turn := turn, period := 10000000 + 10000000 / w }) ∧
                (r.kind = .leapDrop → t.clock.label + w = turn → -255 < lag →
                  p.nextPeriod = .ticks (10000000 - 10000000 / w) ∧
                  p.smear = .armed { add := false, id := r.id, turn := turn, period := 10000000 - 10000000 / w })) ∧
              (o.smear = .absent → (∀ leap, p.smear ≠ .armed leap) → p.smear = .absent ∧ p.nextPeriod = o.nextPeriod)))

/-- When a tick period has run out a new output second begins: a pending release clears the latch, the next width and
period are loaded, the tick count restarts, a 16-byte record is composed, and SPn and TCn are driven, or held silent
while the latch is set. In an open window the record shows count c + k - 1 with the smearing flag, and else the count of
the scale. Before that the command has no effect (the model's guard, log entry 2; R157, R159, R161, R162, R164, R167,
R168, R176, R177). -/
def Obligations.OutputSecondBeginsAtItsPeriod : Prop :=
  ∀ (s : State) (n : Fin 8),
    let o := s.outputs[n]
    let silent : Bool := o.latch.set && !o.releasePending
    (o.running = false ∨ o.curPeriod = .boundary ∨ (∃ p, o.curPeriod = .ticks p ∧ o.tick < p) →
      exec (.outputSecondStart n) s = .next s) ∧
    (∀ (p : Nat) (b : Binding), o.running = true → o.curPeriod = .ticks p → p ≤ o.tick → o.binding = some b →
      ∃ t bytes, exec (.outputSecondStart n) s = .next t ∧
        t.outputs[n].curWidth = o.nextWidth ∧ t.outputs[n].nextWidth = o.nextWidth ∧
        t.outputs[n].curPeriod = o.nextPeriod ∧ t.outputs[n].tick = 0 ∧ t.outputs[n].forceFull = false ∧
        t.outputs[n].releasePending = false ∧ t.outputs[n].realign = o.realign ∧
        t.outputs[n].latch.set = silent ∧
        (o.releasePending = true → raised (.quench n.val .released s.clock.label) s t) ∧
        (o.releasePending = false → t.notices = s.notices) ∧
        t.outputs[n].sp = (!silent && decide (0 < o.nextWidth)) ∧
        t.outputs[n].last = some bytes ∧ bytes.length = 16 ∧ bytes[0]? = some 0x24 ∧
        bytes[1]? = some (BitVec.ofNat 8 (n.val * 16 + b.scale)) ∧ byteSum bytes % 256 = 0 ∧
        (silent = true → t.outputs[n].underWay = o.underWay ∧ t.outputs[n].owed = o.owed) ∧
        (silent = false → o.underWay = none →
          t.outputs[n].underWay = some { bytes := bytes, twelfths := 0 } ∧ t.outputs[n].owed = o.owed) ∧
        (∀ x, silent = false → o.underWay = some x →
          t.outputs[n].underWay = some x ∧ t.outputs[n].owed = some bytes) ∧
        (∀ w leap k c, b.presentation = .smear w → o.smear = .opened leap k c →
          recordShows s b.scale (c + k) False True False False (o.realign = true) bytes) ∧
        ((∀ w, b.presentation = .smear w → o.smear = .absent) →
          recordShows s b.scale (s.count b.scale) (s.familyInserted b.scale = true) False False False (o.realign = true)
            bytes) ∧
        (∀ w leap k c, b.presentation = .smear w → o.smear = .opened leap k c →
          t.outputs[n].smear = .opened leap (k + 1) c ∧
          t.outputs[n].nextPeriod = if k + 2 = w then .boundary else o.nextPeriod) ∧
        (∀ m, m ≠ n → t.outputs[m] = s.outputs[m]) ∧ ChangesOnly [.outputs, .notices] s t)

/-- SPn goes low once the second tick count has reached the current width, unless force full is set or the next
start falls at the same tick; a record under way ends after 160 bit times of 6,250 twelfths of a tick, clears realign
pending where it carried the flag, and gives place to the record owed, which begins as the earlier one ends, so that 12
bit times across the join last 6,250 ticks (R159, R163, R164; log entries 2, 29 and 32 name the model's choices). -/
def Obligations.PulsesAndRecordsEnd : Prop :=
  ∀ (s : State) (n : Fin 8),
    let o := s.outputs[n]
    let startsNow : Prop :=
      (∃ p, o.curPeriod = .ticks p ∧ p ≤ o.tick) ∨ (o.curPeriod = .boundary ∧ 10000100 ≤ s.clock.tick)
    (o.running = true → o.sp = true → o.forceFull = false → o.curWidth ≤ o.tick → ¬ startsNow →
      exec (.pulseEnd n) s = .next { s with outputs := s.outputs.set n { o with sp := false } }) ∧
    (o.running = false ∨ o.sp = false ∨ o.forceFull = true ∨ o.tick < o.curWidth ∨ startsNow →
      exec (.pulseEnd n) s = .next s) ∧
    (∀ x, o.underWay = some x → 1000000 ≤ x.twelfths →
      let next : Output :=
        { o with
          realign := if ((x.bytes[12]?).getD 0).getLsbD 6 then false else o.realign
          underWay := o.owed.map fun bytes => { bytes := bytes, twelfths := x.twelfths - 1000000 }
          owed := none }
      exec (.recordSent n) s = .next { s with outputs := s.outputs.set n next }) ∧
    ((∀ x, o.underWay = some x → x.twelfths < 1000000) → exec (.recordSent n) s = .next s)

/-! ### Encodings and invariants -/

/-- A request frame formed from a request is read back as that request, with every argument at every value and its verdict,
if it is screened, taken at once. -/
def Obligations.RequestFramesRoundTrip : Prop :=
  ∀ (i : Instr) (bytes : List Byte), requestFrame i = some bytes → readTransaction bytes = i.atOnce

/-- The part right after a full reset keeps every invariant. -/
def Obligations.ResetKeepsEveryInvariant : Prop :=
  let s := State.reset
  ClockBounded s ∧ Quiescent s ∧ ContextsPlaced s ∧ RosterSound s ∧ QueueBounded s ∧ OneInTransmission s ∧
    ShelfFixed s ∧ TableBounded s ∧ SettledApart s ∧ EntriesSound s ∧ ScalesSound s ∧ OutputsQuenched s ∧
    NoticesBounded s ∧ StationBounded s ∧ VerdictsSound s ∧ WindowsAhead s

/-- Every step keeps the ranges of the Base Clock: LOCKED is an accepted run of 4, and no base second passes the
substituted boundary (R1, R4, R5). -/
def Obligations.StepsKeepTheClockBounded : Prop :=
  ∀ s t : State, ClockBounded s → step s = .next t → ClockBounded t

/-- Every step keeps the line DETACHED exactly before START, recital contexts in their station states with disjoint
audiences, and the roster slots of this station and beyond N ABSENT (R60, R110, R125, R131, R139). -/
def Obligations.StepsKeepLineContextsAndRosterPlaced : Prop :=
  ∀ s t : State, Quiescent s → ContextsPlaced s → RosterSound s → step s = .next t →
    Quiescent t ∧ ContextsPlaced t ∧ RosterSound t

/-- Every step keeps the transmit queue within 12 frames and 10 of class below 5, by falling class, with exactly one
frame in transmission while the line is SENDING and none otherwise (R60, R76). -/
def Obligations.StepsKeepTheQueueBounded : Prop :=
  ∀ s t : State, Quiescent s → ContextsPlaced s → QueueBounded s → OneInTransmission s → step s = .next t →
    QueueBounded t ∧ OneInTransmission t

/-- Every step keeps the table within its capacity, in order, with no identifier twice, and with no two settled
entries of one family within H of each other (R25, R27, R32, R37). -/
def Obligations.StepsKeepTheTableBounded : Prop :=
  ∀ s t : State, Quiescent s → ContextsPlaced s → TableBounded s → SettledApart s → step s = .next t →
    TableBounded t ∧ SettledApart t

/-- Every step keeps the fields of entries suited to their kinds, settled entries at Q endorsers of the shelf with
the proposer among them, the values and custodians of scales in their ranges, verdicts on their way on sound records, and
windows ahead of the label (R13, R14, R22, R23, R29, R88, R94, R97). -/
def Obligations.StepsKeepEntriesAndScalesSound : Prop :=
  ∀ s t : State, Quiescent s → ContextsPlaced s → ShelfFixed s → TableBounded s → EntriesSound s → ScalesSound s →
    VerdictsSound s → step s = .next t →
    ShelfFixed t ∧ EntriesSound t ∧ ScalesSound t ∧ VerdictsSound t ∧ (WindowsAhead s → WindowsAhead t)

/-- Every step keeps SPn low and no record owed on a quenched output, and the pending notices at one record for each
kind with a count from 1 to 255; it keeps the discord history at two results and the listen count of a JOINING station
below 3 (R105, R117, R118, R167, R168, R191). -/
def Obligations.StepsKeepOutputsQuenchedAndNoticesBounded : Prop :=
  ∀ s t : State, step s = .next t →
    (OutputsQuenched s → NoticesBounded s → OutputsQuenched t ∧ NoticesBounded t) ∧ (StationBounded s → StationBounded t)
end

