-- ==== Sys2Proof/Laws/Bytes.lean ====
section
/-! SUPPORT. Multi-byte fields: their lengths, and that a value written high byte first is read back. -/

namespace Sys2Proof.Machine

set_option Elab.async false

theorem be_length (k v : Nat) : (be k v).length = k := by
  induction k with
  | zero => rfl
  | succ k ih => simp [be, ih]

theorem be_zero (v : Nat) : be 0 v = [] := rfl

theorem ofBE_from (bs : List Byte) (a : Nat) :
    bs.foldl (fun a b => a * 256 + b.toNat) a = a * 256 ^ bs.length + ofBE bs := by
  unfold ofBE
  induction bs generalizing a with
  | nil => simp
  | cons b bs ih =>
    rw [List.foldl_cons, ih, List.foldl_cons, ih (0 * 256 + b.toNat), List.length_cons, pow_succ]
    ring

theorem ofBE_cons (b : Byte) (bs : List Byte) : ofBE (b :: bs) = b.toNat * 256 ^ bs.length + ofBE bs := by
  have := ofBE_from bs (0 * 256 + b.toNat)
  simpa [ofBE] using this

/-- A value below 256 ^ k is read back from its k bytes. -/
theorem ofBE_be (k v : Nat) (h : v < 256 ^ k) : ofBE (be k v) = v := by
  have key : ∀ k v, ofBE (be k v) = v % 256 ^ k := by
    intro k
    induction k with
    | zero => intro v; simp [be, ofBE, Nat.mod_one]
    | succ k ih =>
      intro v
      rw [be, ofBE_cons, be_length, ih, pow_succ, BitVec.toNat_ofNat]
      have := Nat.mod_mul (x := v) (a := 256 ^ k) (b := 256)
      rw [this]
      have h256 : (2 : Nat) ^ 8 = 256 := by norm_num
      rw [h256]; ring
  rw [key, Nat.mod_eq_of_lt h]

/-- A field at the start of the bytes that follow a prefix. -/
theorem field_append (p bs rest : List Byte) (i n : Nat) (hp : p.length = i) (hb : bs.length = n) :
    field (p ++ (bs ++ rest)) i n = ofBE bs := by
  subst hp; subst hb
  simp [field]

/-- The bytes of a check byte and its message sum to 0 (R162, R183). -/
theorem sum_checkByte (bs : List Byte) : (bs ++ [checkByte bs]).foldl (· + ·) 0 = 0 := by
  rw [List.foldl_append]
  simp only [List.foldl_cons, List.foldl_nil, checkByte]
  generalize bs.foldl (fun x y => x + y) 0 = x
  apply BitVec.eq_of_toNat_eq
  simp

/-- The sum of bytes as numbers, taken modulo 256, is their sum as bytes. -/
theorem foldl_add_toNat (bs : List Byte) (a : Byte) :
    (bs.foldl (· + ·) a).toNat = (a.toNat + byteSum bs) % 256 := by
  induction bs generalizing a with
  | nil => simp [byteSum]; omega
  | cons x bs ih => rw [List.foldl_cons, ih]; simp [byteSum, BitVec.toNat_add]; omega

end Sys2Proof.Machine
end

