-- ==== Sys2Proof/Laws/Calendar.lean ====
section
/-! SUPPORT. The calendar and the projected state: the conversions of the model are the relations of the statements. -/

namespace Sys2Proof.Machine

set_option Elab.async false

/-! ### Years -/

/-- The days of the first `k` years from year `y` on. -/
def daysOfYears (y k : Nat) : Nat := ((List.range k).map fun j => yearLength (y + j)).sum

theorem daysOfYears_succ (y k : Nat) : daysOfYears y (k + 1) = daysOfYears y k + yearLength (y + k) := by
  simp [daysOfYears, List.range_succ]

theorem daysOfYears_shift (y k : Nat) : daysOfYears y (k + 1) = yearLength y + daysOfYears (y + 1) k := by
  induction k with
  | zero => simp [daysOfYears]
  | succ k ih =>
    rw [daysOfYears_succ, ih, daysOfYears_succ, show y + (k + 1) = y + 1 + k by omega]
    omega

theorem yearLength_pos (y : Nat) : 0 < yearLength y := by unfold yearLength; split <;> omega

theorem daysOfYears_mono (y : Nat) {a b : Nat} (h : a ≤ b) : daysOfYears y a ≤ daysOfYears y b := by
  induction h with
  | refl => exact Nat.le_refl _
  | step _ ih => rw [Nat.succ_eq_add_one, daysOfYears_succ]; omega

/-- A day is split into the whole years before it and the days passed in its year. -/
theorem yearAndDay_spec (fuel y d : Nat) (h : d < daysOfYears y fuel) :
    ∃ k < fuel, yearAndDay fuel y d = (y + k, d - daysOfYears y k) ∧ daysOfYears y k ≤ d ∧
      d - daysOfYears y k < yearLength (y + k) := by
  induction fuel generalizing y d with
  | zero => simp [daysOfYears] at h
  | succ fuel ih =>
    unfold yearAndDay
    by_cases hd : d < yearLength y
    · exact ⟨0, by omega, by simp [hd, daysOfYears], by simp [daysOfYears], by simpa [daysOfYears] using hd⟩
    · rw [daysOfYears_shift] at h
      obtain ⟨k, hk, he, hl, hlt⟩ := ih (y + 1) (d - yearLength y) (by omega)
      refine ⟨k + 1, by omega, ?_, ?_, ?_⟩
      · rw [if_neg hd, he, daysOfYears_shift]
        exact Prod.ext (by simp; omega) (by simp; omega)
      · rw [daysOfYears_shift]; omega
      · rw [daysOfYears_shift, show y + (k + 1) = y + 1 + k by omega]; omega

theorem yearAndDay_unique (fuel y d k r : Nat) (hk : k < fuel) (hd : d = daysOfYears y k + r)
    (hr : r < yearLength (y + k)) : yearAndDay fuel y d = (y + k, r) := by
  have hlt : d < daysOfYears y fuel := by
    have := daysOfYears_mono y (show k + 1 ≤ fuel by omega)
    rw [daysOfYears_succ] at this; omega
  obtain ⟨j, hj, he, hl, hr'⟩ := yearAndDay_spec fuel y d hlt
  have hjk : j = k := by
    rcases Nat.lt_trichotomy j k with h | h | h
    · have := daysOfYears_mono y (show j + 1 ≤ k by omega)
      rw [daysOfYears_succ] at this; omega
    · exact h
    · have := daysOfYears_mono y (show k + 1 ≤ j by omega)
      rw [daysOfYears_succ] at this; omega
  subst hjk
  rw [he]; simp; omega

theorem daysOfYears_200 : daysOfYears 2000 200 = 73049 := by decide +kernel

/-! ### The calendar (R16) -/

theorem dated_iff (c : Int) (f : CalForm) :
    dated c f ↔ 2000 ≤ f.year ∧ f.year ≤ 2199 ∧ 1 ≤ f.day ∧ f.day ≤ yearLength f.year ∧ f.hour < 24 ∧ f.minute < 60 ∧
      f.second < 60 ∧
      c = (((daysOfYears 2000 (f.year - 2000) + (f.day - 1)) * 86400 + f.hour * 3600 + f.minute * 60 + f.second : Nat) : Int) :=
  Iff.rfl

/-- The calendar form that the model gives a count is the one that R16 gives it. -/
theorem calendar_eq_some_iff (c : Int) (f : CalForm) : calendar c = some f ↔ dated c f := by
  rw [dated_iff]
  have h200 := daysOfYears_200
  constructor
  · intro h
    unfold calendar at h
    split at h
    case isFalse => exact absurd h (by simp)
    case isTrue hc =>
      obtain ⟨n, rfl⟩ := Int.eq_ofNat_of_zero_le hc.1
      have hn : n < 6311433600 := by have := hc.2; simp [Config.calendarSpan] at this; omega
      obtain ⟨k, hk, he, hl, hr⟩ := yearAndDay_spec 200 2000 (n / 86400) (by omega)
      simp only [Int.toNat_natCast, Option.some.injEq, he] at h
      subst h
      simp only [Nat.add_sub_cancel_left]
      refine ⟨by omega, by omega, by omega, by omega, by omega, by omega, by omega, ?_⟩
      have e : daysOfYears 2000 k + (n / 86400 - daysOfYears 2000 k + 1 - 1) = n / 86400 := by omega
      rw [e]
      have hn' : n = n / 86400 * 86400 + n % 86400 / 3600 * 3600 + n % 3600 / 60 * 60 + n % 60 := by omega
      exact congrArg Nat.cast hn'
  · rintro ⟨h1, h2, h3, h4, h5, h6, h7, rfl⟩
    obtain ⟨k, hk⟩ : ∃ k, f.year = 2000 + k := ⟨f.year - 2000, by omega⟩
    rw [hk] at h4 ⊢
    rw [Nat.add_sub_cancel_left]
    have hm := daysOfYears_mono 2000 (show k + 1 ≤ 200 by omega)
    rw [daysOfYears_succ] at hm
    generalize hD : daysOfYears 2000 k = D at *
    have hday : ((D + (f.day - 1)) * 86400 + f.hour * 3600 + f.minute * 60 + f.second) / 86400 = D + (f.day - 1) := by omega
    unfold calendar
    rw [if_pos ⟨by omega, by simp [Config.calendarSpan]; omega⟩]
    simp only [Int.toNat_natCast, hday]
    rw [yearAndDay_unique 200 2000 (D + (f.day - 1)) k (f.day - 1) (by omega) (by omega) (by omega)]
    obtain ⟨y, d, hh, mm, ss⟩ := f
    simp only at *
    subst hk
    rw [Option.some.injEq, CalForm.mk.injEq]
    refine ⟨rfl, by omega, by omega, by omega, by omega⟩

/-- A count within the range of the calendar has a form (R16). -/
theorem calendar_isSome_iff (c : Int) : (calendar c).isSome = true ↔ 0 ≤ c ∧ c < 6311433600 := by
  unfold calendar
  split
  case isTrue h => simpa [Config.calendarSpan] using h
  case isFalse h => simpa [Config.calendarSpan] using h

/-! ### Months (R16) -/

theorem monthWalk_spec (ms : List Nat) (month d m : Nat) (last : Bool) (hd : 1 ≤ d) :
    monthWalk ms month d = some (m, last) ↔
      month ≤ m ∧ m < month + ms.length ∧ (ms.take (m - month)).sum < d ∧ d ≤ (ms.take (m - month + 1)).sum ∧
        last = decide (d = (ms.take (m - month + 1)).sum) := by
  induction ms generalizing month d with
  | nil => simp [monthWalk]; omega
  | cons x xs ih =>
    unfold monthWalk
    by_cases hx : d ≤ x
    · rw [if_pos hx]
      constructor
      · intro h
        simp only [Option.some.injEq, Prod.mk.injEq] at h
        obtain ⟨rfl, rfl⟩ := h
        refine ⟨Nat.le_refl _, by simp, by simp; omega, by simpa using hx, ?_⟩
        simp [beq_eq_decide]
      · rintro ⟨h1, h2, h3, h4, h5⟩
        rcases Nat.eq_or_lt_of_le h1 with rfl | h
        · simp at h5; subst h5; simp [beq_eq_decide]
        · obtain ⟨j, hj⟩ : ∃ j, m - month = j + 1 := ⟨m - month - 1, by omega⟩
          rw [hj] at h3; simp at h3; omega
    · rw [if_neg hx, ih (month + 1) (d - x) (by omega)]
      constructor
      · rintro ⟨h1, h2, h3, h4, h5⟩
        obtain ⟨j, hj⟩ : ∃ j, m - month = j + 1 := ⟨m - month - 1, by omega⟩
        have hj' : m - (month + 1) = j := by omega
        rw [hj'] at h3 h4 h5; rw [hj]
        refine ⟨by omega, by simp; omega, by simp; omega, by simp at h4 ⊢; omega, ?_⟩
        rw [h5, List.take_succ_cons, List.sum_cons, decide_eq_decide]; omega
      · rintro ⟨h1, h2, h3, h4, h5⟩
        rcases Nat.eq_or_lt_of_le h1 with rfl | h
        · simp at h4; omega
        · obtain ⟨j, hj⟩ : ∃ j, m - month = j + 1 := ⟨m - month - 1, by omega⟩
          have hj' : m - (month + 1) = j := by omega
          rw [hj] at h3 h4 h5; rw [hj']
          simp at h2 h3 h4
          refine ⟨by omega, by omega, by omega, by simp; omega, ?_⟩
          rw [h5, List.take_succ_cons, List.sum_cons, decide_eq_decide]; omega

/-- The month of a form, and whether its day is the last of it, are those of R16. -/
theorem monthOf_eq_some_iff (f : CalForm) (m : Nat) (last : Bool) (hd : 1 ≤ f.day) :
    monthOf f = some (m, last) ↔ inMonth f m ∧ last = decide (f.day = ((monthLengths f.year).take m).sum) := by
  have hl : (monthLengths f.year).length = 12 := rfl
  unfold monthOf inMonth
  rw [monthWalk_spec _ _ _ _ _ hd, hl]
  constructor
  · rintro ⟨h1, h2, h3, h4, h5⟩
    rw [show m - 1 + 1 = m by omega] at h4 h5
    exact ⟨⟨h1, by omega, h3, h4⟩, h5⟩
  · rintro ⟨⟨h1, h2, h3, h4⟩, h5⟩
    rw [show m - 1 + 1 = m by omega]
    exact ⟨h1, by omega, h3, h4, h5⟩

end Sys2Proof.Machine
end

