-- ==== Sys2Proof/Laws/Frames.lean ====
section
/-! SUPPORT. What each shared operation may change: one lemma for each, cited in place of unfolding it. -/

namespace Sys2Proof.Machine

set_option Elab.async false

/-! ### The relation -/

theorem ChangesOnly.refl (ps : List Part) (s : State) : ChangesOnly ps s s := by
  intro p _; cases p <;> rfl

theorem agreesOn.trans {s t u : State} {p : Part} (h : agreesOn s t p) (k : agreesOn t u p) : agreesOn s u p := by
  cases p <;> simp only [agreesOn] at * <;> rw [k, h]

theorem ChangesOnly.trans {ps : List Part} {s t u : State} (h : ChangesOnly ps s t) (k : ChangesOnly ps t u) :
    ChangesOnly ps s u := fun p hp => (h p hp).trans (k p hp)

theorem ChangesOnly.mono {ps qs : List Part} {s t : State} (h : ChangesOnly ps s t) (sub : ps ⊆ qs) :
    ChangesOnly qs s t := fun p hp => h p fun hm => hp (sub hm)

theorem ChangesOnly.then {ps qs rs : List Part} {s t u : State} (h : ChangesOnly ps s t) (k : ChangesOnly qs t u)
    (hp : ps ⊆ rs := by decide) (hq : qs ⊆ rs := by decide) : ChangesOnly rs s u :=
  (h.mono hp).trans (k.mono hq)

theorem ChangesOnly.foldl {α : Type} {ps : List Part} {g : State → α → State}
    (h : ∀ t x, ChangesOnly ps t (g t x)) (l : List α) (s : State) : ChangesOnly ps s (l.foldl g s) := by
  induction l generalizing s with
  | nil => exact .refl _ _
  | cons x l ih => exact (h s x).trans (ih _)

theorem ChangesOnly.ite {ps : List Part} {c : Prop} [Decidable c] {s t u : State} (h : ChangesOnly ps s t)
    (k : ChangesOnly ps s u) : ChangesOnly ps s (if c then t else u) := by split <;> assumption

/-! ### Ops -/

theorem withReceiving_frame (c : Option RecvCtx) (s : State) : ChangesOnly [.receiving] s { s with receiving := c } := by
  intro p hp; cases p <;> first | rfl | simp at hp

theorem withSending_frame (c : Option SendCtx) (s : State) : ChangesOnly [.sending] s { s with sending := c } := by
  intro p hp; cases p <;> first | rfl | simp at hp

theorem withStation_frame (x : Station) (s : State) : ChangesOnly [.station] s { s with station := x } := by
  intro p hp; cases p <;> first | rfl | simp at hp

theorem drawn_frame  (s : State) : ChangesOnly [.free] s (s.drawn) := by
  intro p hp; cases p <;> first | rfl | simp at hp

theorem raise_frame (n : Notice) (s : State) : ChangesOnly [.notices] s (raise n s) := by
  intro p hp; cases p <;> first | rfl | simp at hp

theorem claiming_frame (id : Ident) (s : State) : ChangesOnly [.verdicts] s (s.claiming id) := by
  intro p hp; cases p <;> first | rfl | simp at hp

theorem awaiting_frame (v : PendingVerdict) (s : State) : ChangesOnly [.verdicts] s (s.awaiting v) := by
  intro p hp; cases p <;> first | rfl | simp at hp

theorem setSlot_frame (p : Nat) (sl : Slot) (s : State) : ChangesOnly [.roster] s (s.setSlot p sl) := by
  intro p hp; cases p <;> first | rfl | simp at hp

theorem setQueue_frame (q : List Frame) (s : State) : ChangesOnly [.line] s (s.setQueue q) := by
  intro p hp; cases p <;> first | rfl | simp at hp

theorem setLine_frame (l : Line) (s : State) : ChangesOnly [.line] s (s.setLine l) := by
  intro p hp; cases p <;> first | rfl | simp at hp

theorem setClock_frame (c : Clock) (s : State) : ChangesOnly [.clock] s (s.setClock c) := by
  intro p hp; cases p <;> first | rfl | simp at hp

theorem setOutput_frame (n : Fin 8) (o : Output) (s : State) : ChangesOnly [.outputs] s (s.setOutput n o) := by
  intro p hp; cases p <;> first | rfl | simp at hp

theorem setEntries_frame (es : List Entry) (s : State) : ChangesOnly [.table] s (s.setEntries es) := by
  intro p hp; cases p <;> first | rfl | simp at hp

theorem modify_frame (id : Ident) (f : Entry → Entry) (s : State) : ChangesOnly [.table] s (s.modify id f) := by
  intro p hp; cases p <;> first | rfl | simp at hp

theorem moveMark_frame (id : Ident) (a b : Mark) (s : State) : ChangesOnly [.table] s (s.moveMark id a b) := by
  intro p hp; cases p <;> first | rfl | simp at hp

theorem setMark_frame (id : Ident) (m : Mark) (s : State) : ChangesOnly [.table] s (s.setMark id m) := by
  intro p hp; cases p <;> first | rfl | simp at hp

theorem setSeq_frame (q : Word) (s : State) : ChangesOnly [.table] s (s.setSeq q) := by
  intro p hp; cases p <;> first | rfl | simp at hp

theorem setScale_frame (k : Nat) (sc : Scale) (s : State) : ChangesOnly [.scales] s (s.setScale k sc) := by
  unfold State.setScale; split
  · intro p hp; cases p <;> first | rfl | simp at hp
  · exact .refl _ _

theorem offer_frame (f : Frame) (s : State) : ChangesOnly [.line, .notices] s (offer f s) := by
  unfold offer; split
  · exact (setQueue_frame _ s).mono (by decide)
  · split
    · exact (raise_frame _ s).mono (by decide)
    · exact .refl _ _

theorem storeEntry_frame (r : Record) (st : EntryState) (es : StationSet) (fl : List CfgRule) (w : Option Nat) (m : Mark)
    (o : StoreOrigin) (s : State) : ChangesOnly [.table, .notices] s (storeEntry r st es fl w m o s) := by
  intro p hp; cases p <;> first | rfl | simp at hp

theorem freeEntry_frame (id : Ident) (n : Notice) (s : State) : ChangesOnly [.table, .line, .notices] s (freeEntry id n s) := by
  intro p hp; cases p <;> first | rfl | simp at hp

theorem freeExecuted_frame (id : Ident) (e : StationSet) (s : State) : ChangesOnly [.table, .notices] s (freeExecuted id e s) := by
  intro p hp; cases p <;> first | rfl | simp at hp

/-! ### Lifecycle -/

theorem quenchOutput_frame (c : QuenchDetail) (n : Fin 8) (s : State) : ChangesOnly [.outputs, .notices] s (quenchOutput c s n) := by
  simp only [quenchOutput]; split
  · split
    · exact (setOutput_frame _ _ s).mono (by decide)
    · exact (setOutput_frame _ _ s).then (raise_frame _ _)
  · exact .refl _ _

theorem quenchWhere_frame (p : Fin 8 → Output → Bool) (c : QuenchDetail) (s : State) : ChangesOnly [.outputs, .notices] s (quenchWhere p c s) := by
  refine ChangesOnly.foldl (fun t n => ?_) _ s
  exact .ite (quenchOutput_frame c n t) (.refl _ _)

theorem quenchOnState_frame (st : StationState) (s : State) : ChangesOnly [.outputs, .notices] s (quenchOnState st s) := by
  unfold quenchOnState; split
  · exact quenchWhere_frame _ _ s
  · exact quenchWhere_frame _ _ s
  · exact .refl _ _

theorem abandonRecital_frame  (s : State) : ChangesOnly [.sending] s (abandonRecital s) := by
  intro p hp; cases p <;> first | rfl | simp at hp

theorem setRequest_frame (k : Nat) (q : ReqState) (s : State) : ChangesOnly [.receiving] s (setRequest k q s) := by
  unfold setRequest; split
  · split
    · intro p hp; cases p <;> first | rfl | simp at hp
    · exact .refl _ _
  · exact .refl _ _

theorem reportPurged_frame (f : Frame) (s : State) : ChangesOnly [.table, .sending, .receiving] s (reportPurged s f) := by
  unfold reportPurged; split
  · exact (moveMark_frame _ _ _ s).mono (by decide)
  · exact (moveMark_frame _ _ _ s).mono (by decide)
  · exact (setRequest_frame _ _ s).mono (by decide)
  · exact .ite ((abandonRecital_frame s).mono (by decide)) (.refl _ _)
  · exact .ite ((abandonRecital_frame s).mono (by decide)) (.refl _ _)
  · exact .refl _ _

theorem purgeForbidden_frame  (s : State) : ChangesOnly [.table, .line, .sending, .receiving] s (purgeForbidden s) := by
  exact (setQueue_frame _ s).then
    (ChangesOnly.foldl (ps := [.table, .sending, .receiving]) (fun t f => reportPurged_frame f t) _ _)

theorem dropContexts_frame (st : StationState) (s : State) : ChangesOnly [.sending, .receiving] s (dropContexts st s) := by
  cases st <;> (intro p hp; cases p <;> first | rfl | simp at hp)

theorem enterState_frame (st : StationState) (s : State) : ChangesOnly [.table, .line, .station, .sending, .receiving, .outputs, .notices] s (enterState st s) := by
  unfold enterState
  refine .ite (.refl _ _) ?_
  have h1 : ChangesOnly [.station] s { s with station := s.station.entered st } := by
    intro p hp; cases p <;> first | rfl | simp at hp
  exact ((h1.then (rs := [.station, .sending, .receiving]) (dropContexts_frame _ _)).then
    (rs := [.table, .line, .station, .sending, .receiving]) (purgeForbidden_frame _)).then (quenchOnState_frame st _)

/-! ### Recital -/

theorem offerRequest_frame  (s : State) : ChangesOnly [.line, .receiving, .notices] s (offerRequest s) := by
  unfold offerRequest; split
  · exact .refl _ _
  · exact (offer_frame _ s).then (withReceiving_frame _ _)

theorem askRecital_frame (o : RecvOrigin) (k : Nat) (s : State) : ChangesOnly [.line, .receiving, .notices, .serial] s (askRecital o k s) := by
  unfold askRecital; split
  · exact .refl _ _
  · refine ChangesOnly.then (ps := [.serial, .receiving]) ?_ (offerRequest_frame _)
    intro p hp; cases p <;> first | rfl | simp at hp

theorem roundFailed_frame (o : RecvOrigin) (s : State) : ChangesOnly [.table, .line, .station, .sending, .receiving, .outputs, .notices] s (roundFailed o s) := by
  cases o <;> first | exact enterState_frame _ s | exact .refl _ _

theorem failAttempt_frame (c : AttemptCause) (s : State) : ChangesOnly [.table, .line, .station, .sending, .receiving, .outputs, .notices, .serial] s (failAttempt c s) := by
  unfold failAttempt; split
  · exact .refl _ _
  · dsimp only
    split
    · refine ChangesOnly.then (ps := [.serial, .receiving]) ?_ (offerRequest_frame _)
      intro p hp; cases p <;> first | rfl | simp at hp
    · refine ChangesOnly.then (ps := [.receiving]) ?_ ((raise_frame _ _).then (rs := [.table, .line, .station, .sending, .receiving, .outputs, .notices]) (roundFailed_frame _ _))
      intro p hp; cases p <;> first | rfl | simp at hp

theorem recitalOfferFailed_frame  (s : State) : ChangesOnly [.sending] s (recitalOfferFailed s) := by
  unfold recitalOfferFailed; split
  · exact .refl _ _
  · exact .ite (abandonRecital_frame s) (by intro p hp; cases p <;> first | rfl | simp at hp)

theorem offerRecitalFrame_frame  (s : State) : ChangesOnly [.line, .sending, .notices] s (offerRecitalFrame s) := by
  unfold offerRecitalFrame; split
  · exact .refl _ _
  · refine .ite ?_ ((offer_frame _ s).then (recitalOfferFailed_frame _))
    exact (offer_frame _ s).then (withSending_frame _ _)

theorem startRecital_frame (a : StationSet) (s : State) : ChangesOnly [.line, .sending, .notices, .serial] s (startRecital a s) := by
  refine ChangesOnly.then (ps := [.serial, .sending]) ?_ (offerRecitalFrame_frame _)
  intro p hp; cases p <;> first | rfl | simp at hp

theorem recitalFrameSent_frame  (s : State) : ChangesOnly [.line, .sending, .notices] s (recitalFrameSent s) := by
  unfold recitalFrameSent; split
  · exact .refl _ _
  · refine ChangesOnly.then (ps := [.sending]) ?_ (offerRecitalFrame_frame _)
    intro p hp; cases p <;> first | rfl | simp at hp

theorem recitalEnded_frame  (s : State) : ChangesOnly [.line, .sending, .notices, .serial] s (recitalEnded s) := by
  unfold recitalEnded; split
  · exact .refl _ _
  · refine .ite ?_ (ChangesOnly.then (ps := [.sending]) ?_ (startRecital_frame _ _)) <;>
      (intro p hp; cases p <;> first | rfl | simp at hp)

/-! ### Agreement -/

theorem offerPropose_frame (r : Record) (s : State) : ChangesOnly [.table, .line, .notices] s (offerPropose r s) := by
  exact (offer_frame _ s).then (setMark_frame _ _ _)

theorem offerRatify_frame (id : Ident) (e : StationSet) (s : State) : ChangesOnly [.table, .line, .notices] s (offerRatify id e s) := by
  exact (offer_frame _ s).then (setMark_frame _ _ _)

theorem lapseOvertaken_frame (id : Ident) (s : State) : ChangesOnly [.table, .line, .notices] s (lapseOvertaken id s) := by
  exact ChangesOnly.foldl (fun t w => freeEntry_frame w _ t) _ s

theorem withdrawTarget_frame (a b : Ident) (s : State) : ChangesOnly [.table, .line, .notices] s (withdrawTarget a b s) := by
  unfold withdrawTarget; split
  · exact .refl _ _
  · exact .ite ((raise_frame _ s).mono (by decide)) (freeEntry_frame _ _ s)

theorem ratifyClaim_frame (e : Entry) (x : StationSet) (s : State) : ChangesOnly [.table, .line, .scales, .notices] s (ratifyClaim e x s) := by
  unfold ratifyClaim; split
  · exact (setScale_frame _ _ s).then (freeExecuted_frame _ _ _)
  · exact (withdrawTarget_frame _ _ s).then (freeExecuted_frame _ _ _)
  · exact .ite ((modify_frame _ _ s).then (raise_frame _ _)) ((freeEntry_frame _ _ s).mono (by decide))

theorem ratifyOwn_frame (id : Ident) (s : State) : ChangesOnly [.table, .line, .scales, .notices] s (ratifyOwn id s) := by
  unfold ratifyOwn; split
  · exact .refl _ _
  · rename_i e _
    have hc := ratifyClaim_frame e e.endorsers s
    refine .ite ?_ (.ite ((ChangesOnly.ite (.refl _ _) (offer_frame _ s)).then (ratifyClaim_frame _ _ _)) (.refl _ _))
    exact .ite hc (.ite (.ite (hc.then (offerRatify_frame _ _ _)) (hc.then (setMark_frame _ _ _))) hc)

theorem addEndorsers_frame (id : Ident) (x : StationSet) (s : State) : ChangesOnly [.table, .line, .scales, .notices] s (addEndorsers id x s) := by
  unfold addEndorsers; split
  · exact .refl _ _
  · exact .ite (.refl _ _) (.ite ((modify_frame _ _ s).then (ratifyOwn_frame _ _)) ((modify_frame _ _ s).mono (by decide)))

theorem retestQuorum_frame  (s : State) : ChangesOnly [.table, .line, .scales, .notices] s (retestQuorum s) := by
  exact .ite (ChangesOnly.foldl (fun t id => ratifyOwn_frame id t) _ s) (.refl _ _)

theorem reofferRatify_frame  (s : State) : ChangesOnly [.table, .line, .notices] s (reofferRatify s) := by
  refine .ite (ChangesOnly.foldl (fun t id => ?_) _ s) (.refl _ _)
  split
  · exact offerRatify_frame _ _ t
  · exact .refl _ _

theorem reofferPropose_frame  (s : State) : ChangesOnly [.table, .line, .notices] s (reofferPropose s) := by
  refine .ite (ChangesOnly.foldl (fun t id => ?_) _ s) (.refl _ _)
  split
  · exact offerPropose_frame _ t
  · exact .refl _ _

theorem expireEntry_frame (id : Ident) (s : State) : ChangesOnly [.table, .line, .notices] s (expireEntry id s) := by
  unfold expireEntry; split
  · exact .ite (freeEntry_frame _ _ s) (.refl _ _)
  · exact .refl _ _

theorem expireWindows_frame  (s : State) : ChangesOnly [.table, .line, .notices] s (expireWindows s) := by
  exact ChangesOnly.foldl (fun t id => expireEntry_frame id t) _ s

/-! ### Merging a recital -/

theorem tally_frame (f : Tallies → Tallies) (s : State) : ChangesOnly [.receiving] s (tally f s) := by
  intro p hp; cases p <;> first | rfl | simp at hp

theorem recoverSequence_frame (id : Ident) (s : State) : ChangesOnly [.table] s (recoverSequence id s) := by
  exact .ite (by intro p hp; cases p <;> first | rfl | simp at hp) (.refl _ _)

theorem recoverSequences_frame (r : Record) (s : State) : ChangesOnly [.table] s (recoverSequences r s) := by
  unfold recoverSequences; dsimp only; split
  · exact (recoverSequence_frame _ s).then (recoverSequence_frame _ _)
  · exact recoverSequence_frame _ s

theorem skipConflict_frame (r : Record) (s : State) : ChangesOnly [.receiving, .notices, .free] s (skipConflict r s) := by
  exact ((raise_frame _ s).then (rs := [.notices, .free]) (drawn_frame _)).then (tally_frame _ _)

theorem advanceEntry_frame (rr : RecitalRecord) (s : State) : ChangesOnly [.table, .line, .receiving, .notices] s (advanceEntry rr s) := by
  have h := (modify_frame rr.record.id
    (fun x => { x with state := rr.state, endorsers := rr.endorsers, window := none, mark := .none }) s).then
    (rs := [.table, .line, .notices]) (raise_frame (.ratified rr.record.id rr.endorsers .merged) _)
  exact ChangesOnly.then (ps := [.table, .line, .notices]) (.ite (h.then (lapseOvertaken_frame _ _)) h) (tally_frame _ _)

theorem mergeHeld_frame (rr : RecitalRecord) (e : Entry) (s : State) : ChangesOnly [.table, .line, .scales, .receiving, .notices, .free] s (mergeHeld rr e s) := by
  unfold mergeHeld
  refine .ite (.ite ?_ (.ite ((advanceEntry_frame _ s).mono (by decide)) ((skipConflict_frame _ s).mono (by decide))))
    (.ite ?_ ?_)
  · exact (tally_frame _ s).mono (by decide)
  · exact (tally_frame _ s).then (addEndorsers_frame _ _ _)
  · exact (tally_frame _ s).mono (by decide)

theorem insertRecord_frame (rr : RecitalRecord) (s : State) : ChangesOnly [.table, .line, .receiving, .notices] s (insertRecord rr s) := by
  have h := (storeEntry_frame rr.record (insertionState s rr) rr.endorsers []
    (if insertionState s rr = .proposed then some (s.clock.label + rr.remaining) else none) .none .merge s).mono
    (qs := [.table, .line, .notices]) (by decide)
  exact ChangesOnly.then (ps := [.table, .line, .notices]) (.ite (h.then (lapseOvertaken_frame _ _)) h) (tally_frame _ _)

theorem mergeNew_frame (rr : RecitalRecord) (s : State) : ChangesOnly [.table, .line, .scales, .station, .sending, .receiving, .outputs, .notices, .free, .serial] s (mergeNew rr s) := by
  have ht := (tally_frame Tallies.skip s).mono (qs := [.table, .line, .scales, .station, .sending, .receiving, .outputs, .notices, .free, .serial]) (by decide)
  exact .ite ht (.ite ht (.ite ht (.ite ((skipConflict_frame _ s).mono (by decide))
    (.ite ((failAttempt_frame _ s).mono (by decide)) ((insertRecord_frame _ s).mono (by decide))))))

theorem mergeRecord_frame (rr : RecitalRecord) (s : State) : ChangesOnly [.table, .line, .scales, .station, .sending, .receiving, .outputs, .notices, .free, .serial] s (mergeRecord rr s) := by
  unfold mergeRecord; dsimp only; split
  · exact (recoverSequences_frame _ s).then (mergeHeld_frame _ _ _)
  · exact (recoverSequences_frame _ s).then (mergeNew_frame _ _)

theorem failForm_frame (k : FrameKind) (p : Nat) (b : List Byte) (s : State) : ChangesOnly [.table, .line, .station, .sending, .receiving, .outputs, .notices, .serial] s (failForm k p b s) := by
  exact (raise_frame _ s).then (failAttempt_frame _ _)

theorem adoptScales_frame (b : List Byte) (s : State) : ChangesOnly [.scales, .outputs] s (adoptScales b s) := by
  intro p hp; cases p <;> first | rfl | simp at hp

theorem recitalDone_frame (p : Nat) (s : State) : ChangesOnly [.table, .line, .station, .sending, .receiving, .outputs, .notices] s (recitalDone p s) := by
  unfold recitalDone; split
  · exact .refl _ _
  · rename_i c _
    have h : ChangesOnly [.table, .line, .station, .sending, .receiving, .outputs, .notices] s (raise (.recitalDone p c.origin c.tallies) { s with receiving := none }) := by
      intro p hp; cases p <;> first | rfl | simp at hp
    dsimp only; split
    · exact h.trans (enterState_frame _ _)
    · exact h

theorem handScales_frame (p l : Nat) (b : List Byte) (s : State) : ChangesOnly [.table, .line, .scales, .station, .sending, .receiving, .outputs, .notices, .serial] s (handScales p l b s) := by
  exact .ite ((adoptScales_frame _ s).then (recitalDone_frame _ _)) ((failAttempt_frame _ s).mono (by decide))

theorem takeInOrder_frame (k : FrameKind) (p : Nat) (b : List Byte) (c : RecvCtx) (n : Nat) (s : State) : ChangesOnly [.table, .line, .scales, .station, .sending, .receiving, .outputs, .notices, .free, .serial] s (takeInOrder k p b c n s) := by
  unfold takeInOrder; split
  · exact (failForm_frame _ _ _ s).mono (by decide)
  · have h : ChangesOnly [.receiving] s { s with receiving := some { c with wait := 0, expected := c.expected + 1 } } := by
      intro p hp; cases p <;> first | rfl | simp at hp
    dsimp only; split
    · exact h.mono (by decide)
    · exact h.then (mergeRecord_frame _ _)
    · exact h.then (handScales_frame _ _ _ _)

theorem takeRecitalFrame_frame (k : FrameKind) (p : Nat) (b : List Byte) (s : State) : ChangesOnly [.table, .line, .scales, .station, .sending, .receiving, .outputs, .notices, .free, .serial] s (takeRecitalFrame k p b s) := by
  unfold takeRecitalFrame; split
  · exact .refl _ _
  · refine .ite (.refl _ _) ?_
    dsimp only; split
    · refine .ite ?_ (.refl _ _)
      refine ChangesOnly.then (ps := [.receiving]) ?_ (takeInOrder_frame _ _ _ _ _ _)
      intro p hp; cases p <;> first | rfl | simp at hp
    · exact .ite (.refl _ _) (.ite (takeInOrder_frame _ _ _ _ _ s) ((failAttempt_frame _ s).mono (by decide)))

/-! ### The Apply Unit -/

theorem setChange_frame (k : Nat) (c : ChangeRecord) (s : State) : ChangesOnly [.report] s (s.setChange k c) := by
  exact .ite (by intro p hp; cases p <;> first | rfl | simp at hp) (.refl _ _)

theorem handChange_frame (c : ScaleChange) (k : Nat) (v : Int) (id : Ident) (s : State) : ChangesOnly [.scales, .report] s (handChange c k v id s) := by
  exact (setScale_frame _ _ s).then
    (ChangesOnly.foldl (ps := [.report]) (fun t x => setChange_frame x _ t) _ _)

theorem completeEntry_frame (c : ScaleChange) (e : Entry) (s : State) : ChangesOnly [.scales, .table, .line, .report, .notices] s (completeEntry c e s) := by
  exact (handChange_frame _ _ _ _ s).then (freeEntry_frame _ _ _)

theorem enterApplying_frame (id : Ident) (s : State) : ChangesOnly [.table, .line, .notices] s (enterApplying id s) := by
  exact (modify_frame _ _ s).then (lapseOvertaken_frame _ _)

theorem actWhenDue_frame (e : Entry) (n : Nat) (s : State) : ChangesOnly [.scales, .table, .line, .report, .notices] s (actWhenDue e n s) := by
  unfold actWhenDue; split
  · exact .ite ((handChange_frame _ _ _ _ s).mono (by decide)) (.ite (completeEntry_frame _ _ s) (.refl _ _))
  · exact .ite (completeEntry_frame _ _ s) (.refl _ _)
  · exact .ite (completeEntry_frame _ _ s) (.refl _ _)
  · exact .refl _ _

theorem applyEntry_frame (id : Ident) (s : State) : ChangesOnly [.scales, .table, .line, .report, .notices] s (applyEntry id s) := by
  unfold applyEntry; split
  · exact .refl _ _
  · split
    · exact .refl _ _
    · split
      · exact .refl _ _
      · exact .ite ((enterApplying_frame _ s).then (actWhenDue_frame _ _ _)) (.refl _ _)
      · exact actWhenDue_frame _ _ s

theorem applyPass_frame  (s : State) : ChangesOnly [.scales, .table, .line, .report, .notices] s (applyPass s) := by
  refine .ite (.refl _ _) ?_
  have h1 : ChangesOnly [.report] s (clearChanges s) := by
    intro p hp; cases p <;> first | rfl | simp at hp
  have h2 (t : State) : ChangesOnly [.report] t (formReport t) := by
    intro p hp; cases p <;> first | rfl | simp at hp
  exact (h1.then (rs := [.scales, .table, .line, .report, .notices]) (ChangesOnly.foldl (fun t id => applyEntry_frame id t) _ _)).then (h2 _)

/-! ### Outputs -/

theorem startSecond_frame (n : Fin 8) (b : Bool) (s : State) : ChangesOnly [.outputs, .notices] s (startSecond n b s) := by
  unfold startSecond; dsimp only; split
  · exact .refl _ _
  · exact (ChangesOnly.ite (raise_frame _ s) (.refl _ _)).then (setOutput_frame _ _ _)

theorem outputBoundary_frame (n : Fin 8) (s : State) : ChangesOnly [.outputs, .notices] s (outputBoundary s n) := by
  have h := (setOutput_frame n (s.outputs[n].closeWindow s.clock.label) s).mono (qs := [.outputs, .notices]) (by decide)
  exact .ite (.refl _ _) (.ite (h.trans (startSecond_frame _ _ _)) h)

theorem outputsBoundary_frame  (s : State) : ChangesOnly [.outputs, .notices] s (outputsBoundary s) := by
  exact ChangesOnly.foldl (fun t n => outputBoundary_frame n t) _ s

/-! ### The Station Controller -/

theorem changeSlot_frame (p : Nat) (sl : Slot) (c : PeerCause) (s : State) : ChangesOnly [.roster, .notices] s (changeSlot p sl c s) := by
  have h := (setSlot_frame p sl s).mono (qs := [.roster, .notices]) (by decide)
  exact .ite h (h.then (raise_frame _ _))

theorem reportSender_frame (p : Nat) (s : State) : ChangesOnly [.roster, .notices] s (reportSender p s) := by
  exact .ite (changeSlot_frame _ _ _ s) (.refl _ _)

theorem silenceSlot_frame (p : Nat) (s : State) : ChangesOnly [.roster, .notices] s (silenceSlot p s) := by
  exact changeSlot_frame _ _ _ s

theorem advanceSilences_frame  (s : State) : ChangesOnly [.roster, .notices] s (advanceSilences s) := by
  refine ChangesOnly.foldl (fun t p => ?_) _ s
  exact .ite ((setSlot_frame _ _ t).then (silenceSlot_frame _ _)) (.refl _ _)

theorem evaluatePlan_frame  (s : State) : ChangesOnly [.table, .line, .station, .sending, .receiving, .outputs, .notices] s (evaluatePlan s) := by
  exact .ite ((raise_frame _ s).then (enterState_frame _ _)) (.refl _ _)

theorem armAdoption_frame  (s : State) : ChangesOnly [.station] s (armAdoption s) := by
  refine .ite ?_ (.refl _ _)
  split
  · intro p hp; cases p <;> first | rfl | simp at hp
  · intro p hp; cases p <;> first | rfl | simp at hp
  · exact .refl _ _

theorem evaluateLabel_frame  (s : State) : ChangesOnly [.table, .line, .station, .sending, .receiving, .outputs, .notices] s (evaluateLabel s) := by
  unfold evaluateLabel; dsimp only
  refine .ite (.ite ?_ (.ite ((armAdoption_frame s).mono (by decide)) (.refl _ _))) (.ite (enterState_frame _ s) (.refl _ _))
  exact ((raise_frame _ s).then (rs := [.table, .line, .station, .sending, .receiving, .outputs, .notices]) (enterState_frame _ _)).then (armAdoption_frame _)

theorem evaluateDiscord_frame (s : State) :
    ChangesOnly [.line, .station, .receiving, .notices, .serial] s (evaluateDiscord s) := by
  have h (x : Station) := (withStation_frame x s).mono (qs := [.line, .station, .receiving, .notices, .serial]) (by decide)
  unfold evaluateDiscord; dsimp only
  refine .ite ?_ (h _)
  split
  · exact (h _).trans ((askRecital_frame _ _ _).then (withStation_frame _ _))
  · exact h _

theorem endListening_frame  (s : State) : ChangesOnly [.table, .line, .station, .sending, .receiving, .outputs, .notices, .serial] s (endListening s) := by
  unfold endListening; split
  · exact (enterState_frame _ s).then (askRecital_frame _ _ _)
  · exact (enterState_frame _ s).mono (by decide)

theorem endListeningIfDue_frame  (s : State) : ChangesOnly [.table, .line, .station, .sending, .receiving, .outputs, .notices, .serial] s (endListeningIfDue s) := by
  exact .ite (endListening_frame s) (.refl _ _)

theorem advanceListening_frame  (s : State) : ChangesOnly [.table, .line, .station, .sending, .receiving, .outputs, .notices, .serial] s (advanceListening s) := by
  refine .ite (ChangesOnly.then (ps := [.station]) ?_ (endListeningIfDue_frame _)) (.refl _ _)
  intro p hp; cases p <;> first | rfl | simp at hp

theorem offerBeacon_frame  (s : State) : ChangesOnly [.line, .notices] s (offerBeacon s) := by
  exact .ite (offer_frame _ s) (.refl _ _)

theorem requestIfDue_frame  (s : State) : ChangesOnly [.clock, .station] s (requestIfDue s) := by
  unfold requestIfDue; split
  · intro p hp; cases p <;> first | rfl | simp at hp
  · exact .refl _ _

theorem advanceAdoption_frame  (s : State) : ChangesOnly [.clock, .station] s (advanceAdoption s) := by
  unfold advanceAdoption; split
  · refine ChangesOnly.then (ps := [.station]) ?_ (requestIfDue_frame _)
    intro p hp; cases p <;> first | rfl | simp at hp
  · exact .refl _ _

theorem afterAdoption_frame  (s : State) : ChangesOnly [.table, .line, .station, .sending, .receiving, .outputs, .notices] s (afterAdoption s) := by
  unfold afterAdoption; split
  · exact enterState_frame _ s
  · intro p hp; cases p <;> first | rfl | simp at hp
  · exact .refl _ _

theorem takeReport_frame (r : LabelReport) (s : State) : ChangesOnly [.table, .line, .station, .roster, .sending, .receiving, .outputs, .notices] s (takeReport r s) := by
  have hc (t : State) : ChangesOnly [.station] t (clearAdoption t) := by
    intro p hp; cases p <;> first | rfl | simp at hp
  unfold takeReport; split
  · exact ((ChangesOnly.foldl (fun t p => changeSlot_frame p _ _ t) _ s).then (rs := [.station, .roster, .notices]) (hc _)).then
      (afterAdoption_frame _)
  · exact (hc s).mono (by decide)
  · exact .refl _ _

theorem beaconWork_frame  (s : State) : ChangesOnly [.table, .line, .station, .roster, .sending, .receiving, .outputs, .notices, .serial] s (beaconWork s) := by
  have h1 := (advanceSilences_frame s).then (rs := [.table, .line, .station, .roster, .sending, .receiving, .outputs, .notices, .serial]) (evaluatePlan_frame _)
  have h2 := h1.then (rs := [.table, .line, .station, .roster, .sending, .receiving, .outputs, .notices, .serial]) (evaluateLabel_frame _)
  have h3 := h2.then (rs := [.table, .line, .station, .roster, .sending, .receiving, .outputs, .notices, .serial]) (evaluateDiscord_frame _)
  exact (h3.then (rs := [.table, .line, .station, .roster, .sending, .receiving, .outputs, .notices, .serial]) (advanceListening_frame _)).then (offerBeacon_frame _)

theorem stationWork_frame (r : LabelReport) (s : State) : ChangesOnly [.clock, .table, .line, .station, .roster, .sending, .receiving, .outputs, .notices, .serial] s (stationWork r s) := by
  refine .ite (.refl _ _) ?_
  have h0 : ChangesOnly [.roster] s { s with roster := s.roster.map Slot.older } := by
    intro p hp; cases p <;> first | rfl | simp at hp
  have h := ((h0.then (rs := [.clock, .table, .line, .station, .roster, .sending, .receiving, .outputs, .notices, .serial]) (takeReport_frame r _)).then (rs := [.clock, .table, .line, .station, .roster, .sending, .receiving, .outputs, .notices, .serial]) (advanceAdoption_frame _))
  exact .ite (h.then (beaconWork_frame _)) h

theorem meetBeacon_frame (sl : Slot) (l : Nat) (s : State) : ChangesOnly [.clock, .station] s (meetBeacon sl l s) := by
  unfold meetBeacon; split
  · refine .ite (ChangesOnly.then (ps := [.station]) ?_ (requestIfDue_frame _)) (.refl _ _)
    intro p hp; cases p <;> first | rfl | simp at hp
  · exact .refl _ _

theorem takeBeacon_frame (p : Nat) (b : List Byte) (s : State) : ChangesOnly [.clock, .station, .roster, .notices] s (takeBeacon p b s) := by
  unfold takeBeacon; split
  · exact (raise_frame _ s).mono (by decide)
  · exact (changeSlot_frame _ _ _ s).then (meetBeacon_frame _ _ _)

theorem joinAfterReset_frame  (s : State) : ChangesOnly [.table, .line, .station, .sending, .receiving, .outputs, .notices] s (joinAfterReset s) := by
  unfold joinAfterReset; split
  · exact .refl _ _
  · exact (enterState_frame .joining s).then (withStation_frame _ _)

theorem lineReset_frame (src : ResetSource) (s : State) : ChangesOnly [.table, .line, .station, .roster, .sending, .receiving, .outputs, .notices] s (lineReset src s) := by
  refine .ite (.refl _ _) (ChangesOnly.then (ps := [.table, .line, .station, .roster, .sending, .receiving, .outputs, .notices]) ?_ (raise_frame _ _))
  refine ChangesOnly.then (ps := [.table, .line, .station, .roster, .sending, .receiving]) ?_ (joinAfterReset_frame _)
  intro p hp; cases p <;> first | rfl | simp at hp

/-! ### Boundaries -/

theorem takeLabel_frame (b : Bool) (s : State) : ChangesOnly [.clock, .notices, .free] s ((takeLabel b s).2) := by
  have h (t : State) (v : Nat) : ChangesOnly [.clock, .notices, .free] t (t.withLabel v) := by
    intro p hp; cases p <;> first | rfl | simp at hp
  unfold takeLabel; dsimp only; split
  · exact h s _
  · exact h s _
  · split
    · exact h s _
    · exact ((h s _).trans ((drawn_frame _).mono (by decide))).trans ((raise_frame _ _).mono (by decide))

theorem moveWindows_frame (j : Int) (s : State) : ChangesOnly [.table] s (moveWindows j s) := by
  exact .ite (setEntries_frame _ s) (.refl _ _)

theorem reofferRecital_frame  (s : State) : ChangesOnly [.line, .sending, .notices] s (reofferRecital s) := by
  unfold reofferRecital; split
  · exact .ite (offerRecitalFrame_frame s) (.refl _ _)
  · exact .refl _ _

theorem timeoutIfDue_frame  (s : State) : ChangesOnly [.table, .line, .station, .sending, .receiving, .outputs, .notices, .serial] s (timeoutIfDue s) := by
  unfold timeoutIfDue; split
  · exact .ite (failAttempt_frame _ s) (.refl _ _)
  · exact .refl _ _

theorem receiveWork_frame  (s : State) : ChangesOnly [.table, .line, .station, .sending, .receiving, .outputs, .notices, .serial] s (receiveWork s) := by
  unfold receiveWork; split
  · exact .refl _ _
  · rename_i c _
    have h : ChangesOnly [.receiving] s { s with receiving := some { c with wait := c.wait + 1 } } := by
      intro p hp; cases p <;> first | rfl | simp at hp
    refine .ite (.ite (h.then (failAttempt_frame _ _)) ?_) (.refl _ _)
    exact .ite (h.then (offerRequest_frame _)) (h.mono (by decide))

theorem runStage_frame (r : LabelReport) (x : Stage) (s : State) : ChangesOnly [.clock, .scales, .table, .line, .station, .roster, .sending, .receiving, .report, .outputs, .notices, .serial] s (runStage r x s) := by
  cases x
  · exact (applyPass_frame s).mono (by decide)
  · exact (expireWindows_frame s).mono (by decide)
  · exact (stationWork_frame r s).mono (by decide)
  · exact (retestQuorum_frame s).mono (by decide)
  · exact (reofferRatify_frame s).mono (by decide)
  · exact (reofferPropose_frame s).mono (by decide)
  · exact (reofferRecital_frame s).mono (by decide)
  · exact (receiveWork_frame s).mono (by decide)

theorem runStages_frame (o : BoundaryOrder) (r : LabelReport) (s : State) : ChangesOnly [.clock, .scales, .table, .line, .station, .roster, .sending, .receiving, .report, .outputs, .notices, .serial] s (runStages o r s) := by
  exact ChangesOnly.foldl (fun t x => runStage_frame r x t) _ s

theorem realignIfAdopted_frame (r : LabelReport) (s : State) : ChangesOnly [.outputs] s (realignIfAdopted r s) := by
  cases r <;> (intro p hp; cases p <;> first | rfl | simp at hp)

theorem boundary_frame (o : BoundaryOrder) (s : State) : ChangesOnly [.clock, .scales, .table, .line, .station, .roster, .sending, .receiving, .report, .outputs, .notices, .free, .serial] s (boundary o s) := by
  exact ((((takeLabel_frame o.passBeforeTest s).then (rs := [.clock, .scales, .table, .line, .station, .roster, .sending, .receiving, .report, .outputs, .notices, .free, .serial]) (moveWindows_frame _ _)).then
    (rs := [.clock, .scales, .table, .line, .station, .roster, .sending, .receiving, .report, .outputs, .notices, .free, .serial]) (runStages_frame o _ _)).then (rs := [.clock, .scales, .table, .line, .station, .roster, .sending, .receiving, .report, .outputs, .notices, .free, .serial]) (realignIfAdopted_frame _ _)).then (outputsBoundary_frame _)

theorem secinEdge_frame (o : BoundaryOrder) (s : State) : ChangesOnly [.clock, .scales, .table, .line, .station, .roster, .sending, .receiving, .report, .outputs, .notices, .free, .serial] s (secinEdge o s) := by
  have hc (c : Clock) := (setClock_frame c s).mono (qs := [.clock, .scales, .table, .line, .station, .roster, .sending, .receiving, .report, .outputs, .notices, .free, .serial]) (by decide)
  unfold secinEdge spuriousEdge; dsimp only
  refine .ite (.ite ?_ ((hc _).trans (boundary_frame o _))) ((hc _).trans (boundary_frame o _))
  split
  · exact (raise_frame _ s).mono (by decide)
  · exact .ite (((hc _).trans (boundary_frame o _)).then (raise_frame _ _)) ((hc _).then (raise_frame _ _))

theorem substitutedBoundary_frame (o : BoundaryOrder) (s : State) : ChangesOnly [.clock, .scales, .table, .line, .station, .roster, .sending, .receiving, .report, .outputs, .notices, .free, .serial] s (substitutedBoundary o s) := by
  refine .ite ?_ (.refl _ _)
  exact ((setClock_frame _ s).then (rs := [.clock, .scales, .table, .line, .station, .roster, .sending, .receiving, .report, .outputs, .notices, .free, .serial]) (boundary_frame o _)).then (raise_frame _ _)

/-! ### The line -/

theorem synchronise_frame  (s : State) : ChangesOnly [.line] s (synchronise s) := by
  exact .ite (setLine_frame _ s) (.refl _ _)

theorem frameBegin_frame  (s : State) : ChangesOnly [.table, .line, .sending, .receiving] s (frameBegin s) := by
  refine .ite ?_ (.refl _ _)
  have hb (t : State) : ChangesOnly [.line] t (beginHead t) := by
    unfold beginHead; split
    · exact .refl _ _
    · exact .ite (setLine_frame _ t) (.refl _ _)
  exact ((setQueue_frame _ s).then (rs := [.table, .line, .sending, .receiving])
    (ChangesOnly.foldl (fun t f => reportPurged_frame f t) _ _)).then (hb _)

theorem deferTo_frame  (s : State) : ChangesOnly [.line] s (deferTo s) := by
  exact .ite (setLine_frame _ s) (.refl _ _)

theorem reportSent_frame (f : Frame) (s : State) : ChangesOnly [.table, .line, .sending, .receiving, .notices, .serial] s (reportSent s f) := by
  unfold reportSent; split
  · exact (moveMark_frame _ _ _ s).mono (by decide)
  · exact (moveMark_frame _ _ _ s).mono (by decide)
  · exact (setRequest_frame _ _ s).mono (by decide)
  · exact .ite ((recitalFrameSent_frame s).mono (by decide)) (.refl _ _)
  · exact .ite ((recitalEnded_frame s).mono (by decide)) (.refl _ _)
  · exact .refl _ _

theorem reportAbandoned_frame (f : Frame) (s : State) : ChangesOnly [.table, .sending, .receiving] s (reportAbandoned s f) := by
  unfold reportAbandoned; split
  · exact (moveMark_frame _ _ _ s).mono (by decide)
  · exact (moveMark_frame _ _ _ s).mono (by decide)
  · exact (setRequest_frame _ _ s).mono (by decide)
  · exact .ite ((recitalOfferFailed_frame s).mono (by decide)) (.refl _ _)
  · exact .ite ((recitalOfferFailed_frame s).mono (by decide)) (.refl _ _)
  · exact .refl _ _

theorem frameSent_frame  (s : State) : ChangesOnly [.table, .line, .sending, .receiving, .notices, .serial] s (frameSent s) := by
  unfold frameSent; split
  · refine .ite ?_ (.refl _ _)
    have h := ((setLine_frame (s.line.toIdle 0) s).then (rs := [.table, .line, .sending, .receiving, .notices, .serial]) (setQueue_frame (dropInTx s.line.queue) _))
    unfold unlessSilent; split
    · exact h
    · exact h.trans (reportSent_frame _ _)
  · exact .refl _ _

theorem abandonFrame_frame (f : Frame) (s : State) : ChangesOnly [.table, .sending, .receiving, .notices] s (abandonFrame f s) := by
  exact (reportAbandoned_frame f s).then (raise_frame _ _)

theorem clashNow_frame (s : State) : ChangesOnly [.table, .line, .sending, .receiving, .notices] s (clashNow s) := by
  unfold clashNow; split
  · rename_i f _ _
    have h (q : List Frame) : ChangesOnly [.line] s ((s.setLine (lineAfterClash s f)).setQueue q) :=
      (setLine_frame _ s).trans (setQueue_frame q _)
    refine .ite ?_ (.refl _ _)
    dsimp only; split
    · exact (h _).mono (by decide)
    · exact (h _).then (reportPurged_frame _ _)
    · exact .ite ((h _).then (abandonFrame_frame _ _)) ((h _).mono (by decide))
  · exact .refl _ _

theorem abandonStanding_frame  (s : State) : ChangesOnly [.table, .line, .sending, .receiving, .notices] s (abandonStanding s) := by
  unfold abandonStanding; split
  · exact (setQueue_frame _ s).then (abandonFrame_frame _ _)
  · exact .refl _ _

theorem abandonNow_frame  (s : State) : ChangesOnly [.table, .line, .sending, .receiving, .notices] s (abandonNow s) := by
  exact .ite (abandonStanding_frame s) (.ite (clashNow_frame s) (.refl _ _))

theorem discardFrame_frame (c : RxCause) (m : Bool) (p k n : Nat) (s : State) : ChangesOnly [.line, .notices] s (discardFrame c m p k n s) := by
  exact (setLine_frame _ s).then (raise_frame _ _)

/-! ### Received frames -/

theorem rejectProposal_frame (id : Ident) (r : Reason) (s : State) : ChangesOnly [.line, .notices] s (rejectProposal id r s) := by
  exact .ite (offer_frame _ s) (.refl _ _)

theorem raiseFlagged_frame (id : Ident) (fl : List CfgRule) (s : State) : ChangesOnly [.notices] s (raiseFlagged id fl s) := by
  exact .ite (.refl _ _) (raise_frame _ s)

theorem storeProposal_frame (r : Record) (fl : List CfgRule) (s : State) : ChangesOnly [.table, .line, .notices] s (storeProposal r fl s) := by
  have h := (storeEntry_frame r .proposed (receivedEndorsers s r.id.proposer) fl
    (some (s.clock.label + s.plan.e + 2)) .none .line s).then (rs := [.table, .line, .notices]) (raiseFlagged_frame r.id fl _)
  exact .ite (h.then (offer_frame _ _)) h

theorem takeVerdict_frame (r : Record) (v : Verdict) (s : State) : ChangesOnly [.table, .line, .notices] s (takeVerdict r v s) := by
  unfold takeVerdict; refine .ite (.refl _ _) ?_; split
  · exact (rejectProposal_frame _ _ s).mono (by decide)
  · split
    · exact (rejectProposal_frame _ _ s).mono (by decide)
    · exact storeProposal_frame _ _ s

theorem judgeProposal_frame (w : VerdictTime) (r : Record) (s : State) : ChangesOnly [.table, .line, .verdicts, .notices] s (judgeProposal w r s) := by
  cases w
  · exact (takeVerdict_frame r _ s).mono (by decide)
  · exact (takeVerdict_frame r _ s).mono (by decide)
  · exact (awaiting_frame _ s).mono (by decide)

/-- In a state that screens proposals the verdict is taken as R86 and R87 give. -/
theorem takeVerdict_screens {r : Record} {v : Verdict} {s : State} (h : s.station.state.screens = true) :
    takeVerdict r v s =
      match v with
      | .reject reason => rejectProposal r.id reason s
      | .accept flags =>
        match s.storeRefusal r with
        | some reason => rejectProposal r.id reason s
        | none => storeProposal r flags s := by
  cases v <;> exact if_neg (by simp [h])

/-- In another state the verdict is dropped (R88). -/
theorem takeVerdict_drops {r : Record} {v : Verdict} {s : State} (h : s.station.state.screens = false) :
    takeVerdict r v s = s := by
  simp [takeVerdict, h]

/-- In ACTIVE the verdict on a local proposal is taken as R83 gives. -/
theorem takeOwnVerdict_active {whole : Bool} {code : Byte} {r : Record} {v : Verdict} {s : State} (h : s.station.state = .active) :
    takeOwnVerdict whole code r v s =
      match v with
      | .reject reason => refuseProposal code reason s
      | .accept flags =>
        match s.storeRefusal r with
        | some reason => refuseProposal code reason s
        | none => announce whole code r flags (storeOwn r flags s) := by
  cases v <;> exact if_neg (by simp [h])

theorem takePropose_frame (w : VerdictTime) (p : Nat) (b : List Byte) (s : State) : ChangesOnly [.table, .line, .verdicts, .notices] s (takePropose w p b s) := by
  refine .ite (.refl _ _) ?_
  split
  · exact (raise_frame _ s).mono (by decide)
  · exact .ite (judgeProposal_frame _ _ s) ((raise_frame _ s).mono (by decide))

theorem takeEndorse_frame (p : Nat) (b : List Byte) (s : State) : ChangesOnly [.table, .line, .scales, .notices] s (takeEndorse p b s) := by
  refine .ite (.refl _ _) ?_
  split
  · exact .ite (addEndorsers_frame _ _ s) (.refl _ _)
  · exact .refl _ _

theorem takeObject_frame (p : Nat) (b : List Byte) (s : State) : ChangesOnly [.table, .line, .notices] s (takeObject p b s) := by
  refine .ite (.refl _ _) ?_
  split
  · exact (raise_frame _ s).mono (by decide)
  · split
    · exact .refl _ _
    · exact .ite (freeEntry_frame _ _ s) ((raise_frame _ s).mono (by decide))

theorem missEntry_frame (id : Ident) (x : StationSet) (s : State) : ChangesOnly [.line, .receiving, .notices, .serial] s (missEntry id x s) := by
  have h := (raise_frame (.missedEntry id x s.clock.label) s).mono (qs := [.line, .receiving, .notices, .serial]) (by decide)
  exact .ite (h.trans (askRecital_frame _ _ _)) h

theorem takeRatify_frame (p : Nat) (b : List Byte) (s : State) : ChangesOnly [.scales, .table, .line, .receiving, .notices, .serial] s (takeRatify p b s) := by
  refine .ite (.refl _ _) ?_
  dsimp only; split
  · exact (raise_frame _ s).mono (by decide)
  · split
    · exact (missEntry_frame _ _ s).mono (by decide)
    · exact .ite ((ratifyClaim_frame _ _ s).mono (by decide)) (.refl _ _)

theorem takeReciteReq_frame (p : Nat) (b : List Byte) (s : State) : ChangesOnly [.line, .sending, .notices, .serial] s (takeReciteReq p b s) := by
  refine .ite ((raise_frame _ s).mono (by decide)) (.ite (.refl _ _) ?_)
  unfold placeRequester; split
  · exact startRecital_frame _ s
  · intro p hp; cases p <;> first | rfl | simp at hp

theorem deliver_frame (w : VerdictTime) (k : FrameKind) (p : Nat) (b : List Byte) (s : State) : ChangesOnly [.clock, .scales, .table, .line, .station, .roster, .sending, .receiving, .verdicts, .outputs, .notices, .free, .serial] s (deliver w k p b s) := by
  cases k
  · exact (takeBeacon_frame p b s).mono (by decide)
  · exact (takePropose_frame w p b s).mono (by decide)
  · exact (takeEndorse_frame p b s).mono (by decide)
  · exact (takeObject_frame p b s).mono (by decide)
  · exact (takeRatify_frame p b s).mono (by decide)
  · exact (takeReciteReq_frame p b s).mono (by decide)
  · exact (takeRecitalFrame_frame _ p b s).mono (by decide)
  · exact (takeRecitalFrame_frame _ p b s).mono (by decide)

theorem handOn_frame (w : VerdictTime) (k : FrameKind) (p : Nat) (b : List Byte) (s : State) : ChangesOnly [.clock, .scales, .table, .line, .station, .roster, .sending, .receiving, .verdicts, .outputs, .notices, .free, .serial] s (handOn w k p b s) := by
  exact ((setLine_frame _ s).then (rs := [.clock, .scales, .table, .line, .station, .roster, .sending, .receiving, .verdicts, .outputs, .notices, .free, .serial]) (reportSender_frame p _)).then (deliver_frame w k p b _)

theorem receiveTyped_frame (w : VerdictTime) (k : FrameKind) (p : Nat) (b : List Byte) (s : State) : ChangesOnly [.clock, .scales, .table, .line, .station, .roster, .sending, .receiving, .verdicts, .outputs, .notices, .free, .serial] s (receiveTyped w k p b s) := by
  refine .ite ?_ (.refl _ _)
  split
  · exact (discardFrame_frame _ _ _ _ _ s).mono (by decide)
  · exact handOn_frame _ _ _ _ s

theorem receiveRaw_frame (f : RawFrame) (s : State) : ChangesOnly [.clock, .scales, .table, .line, .station, .roster, .sending, .receiving, .verdicts, .outputs, .notices, .free, .serial] s (receiveRaw f s) := by
  refine .ite ?_ (.refl _ _)
  split
  · exact (discardFrame_frame _ _ _ _ _ s).mono (by decide)
  · exact handOn_frame _ _ _ _ s

/-! ### The port -/

theorem respond_frame (c : Byte) (st : Status) (r : Nat) (d : Data) (s : State) : ChangesOnly [.port] s (respond c st r d s) := by
  intro p hp; cases p <;> first | rfl | simp at hp

theorem storeOwn_frame (r : Record) (fl : List CfgRule) (s : State) : ChangesOnly [.table, .notices] s (storeOwn r fl s) := by
  exact ((storeEntry_frame _ _ _ _ _ _ _ s).then (rs := [.table, .notices]) (setSeq_frame _ _)).then (raiseFlagged_frame _ _ _)

/-- A ratification joins the claims on their way without touching the others. -/
theorem mem_claimNext {id : Ident} {vs : List PendingVerdict} {v : PendingVerdict} :
    v ∈ claimNext id vs ↔ v = .ratify id ∨ v ∈ vs := by
  induction vs with
  | nil => simp [claimNext]
  | cons w ws ih => cases w <;> simp [claimNext, ih, or_left_comm]

/-- An announced proposal is answered; a shelf of one station settles it, or has the ratification still to make. -/
theorem announce_frame (whole : Bool) (c : Byte) (r : Record) (fl : List CfgRule) (s : State) : ChangesOnly [.scales, .table, .line, .verdicts, .port, .notices] s (announce whole c r fl s) := by
  refine .ite ?_ ((offerPropose_frame _ s).then (respond_frame _ _ _ _ _))
  cases whole
  · exact (claiming_frame _ s).then (respond_frame _ _ _ _ _)
  · exact (ratifyOwn_frame _ s).then (respond_frame _ _ _ _ _)

theorem refuseProposal_frame (c : Byte) (r : Reason) (s : State) : ChangesOnly [.port] s (refuseProposal c r s) := by
  cases r <;> exact respond_frame _ _ _ _ s

theorem takeOwnVerdict_frame (whole : Bool) (c : Byte) (r : Record) (v : Verdict) (s : State) : ChangesOnly [.scales, .table, .line, .verdicts, .port, .notices] s (takeOwnVerdict whole c r v s) := by
  unfold takeOwnVerdict
  refine .ite ((respond_frame _ _ _ _ s).mono (by decide)) ?_
  split
  · exact (refuseProposal_frame _ _ _).mono (by decide)
  · split
    · exact (refuseProposal_frame _ _ _).mono (by decide)
    · exact ((storeOwn_frame _ _ _).mono (by decide)).trans (announce_frame _ _ _ _ _)

theorem judgeOwn_frame (w : VerdictTime) (c : Byte) (r : Record) (s : State) : ChangesOnly [.scales, .table, .line, .verdicts, .port, .notices] s (judgeOwn w c r s) := by
  cases w
  · exact takeOwnVerdict_frame _ c r _ s
  · exact takeOwnVerdict_frame _ c r _ s
  · intro p hp; cases p <;> first | rfl | simp at hp

theorem proposeOwn_frame (w : VerdictTime) (c : Byte) (mk : Option (Word → Record)) (s : State) : ChangesOnly [.scales, .table, .line, .verdicts, .port, .notices] s (proposeOwn w c mk s) := by
  have hr (t : State) (st : Status) : ChangesOnly [.scales, .table, .line, .verdicts, .port, .notices] t (refuse c st t) := (respond_frame _ _ _ _ t).mono (by decide)
  refine .ite (hr s _) ?_
  split
  · exact hr s _
  · refine .ite ?_ (hr s _)
    exact ((setSeq_frame (freeSequence s s.held s.table.nextSeq) s).mono (by decide)).trans (judgeOwn_frame _ _ _ _)

/-- A ratification that is due reaches the table, the line, the scales and the notices alone. -/
theorem ratifyStored_frame (id : Ident) (s : State) : ChangesOnly [.scales, .table, .line, .notices] s (ratifyStored id s) := by
  unfold ratifyStored; split
  · exact .ite ((ratifyOwn_frame _ s).mono (by decide)) (.refl _ _)
  · exact .refl _ _

/-- A ratification that is due finds nothing to ratify where its entry is no longer held PROPOSED (R31). -/
theorem ratifyStored_eq {id : Ident} {s : State} (h : ∀ e, s.find id = some e → e.state ≠ .proposed) :
    ratifyStored id s = s := by
  unfold ratifyStored; split
  · next e he => exact if_neg (h e he)
  · rfl

/-- A claim that is made reaches the table, the line, the scales, the port, the notices and the claims still on their
way alone. -/
theorem take_frame (v : PendingVerdict) (s : State) : ChangesOnly [.scales, .table, .line, .verdicts, .port, .notices] s (v.take s) := by
  cases v
  · exact (takeVerdict_frame _ _ s).mono (by decide)
  · exact takeOwnVerdict_frame _ _ _ _ s
  · exact (ratifyStored_frame _ s).mono (by decide)

theorem setQuenchLevel_frame (g : Group) (b : Bool) (s : State) : ChangesOnly [.pins] s (s.setQuenchLevel g b) := by
  cases g <;> (intro p hp; cases p <;> first | rfl | simp at hp)

theorem setQuenchCfg_frame (g : Group) (c : QuenchCfg) (s : State) : ChangesOnly [.qaCfg, .qbCfg] s (s.setQuenchCfg g c) := by
  cases g <;> (intro p hp; cases p <;> first | rfl | simp at hp)

theorem driveQuench_frame (g : Group) (b : Bool) (s : State) : ChangesOnly [.pins, .outputs, .notices] s (driveQuench g b s) := by
  have h := (setQuenchLevel_frame g (b != (s.quenchCfg g).activeLow) s).mono (qs := [.pins, .outputs, .notices]) (by decide)
  exact .ite (h.then (quenchWhere_frame _ _ _)) h

end Sys2Proof.Machine
end

