-- ==== Sys2Proof/Laws/State.lean ====
section
/-! SUPPORT. What each named update of the state leaves in each field: one lemma for each field and update. -/

namespace Sys2Proof.Machine

set_option Elab.async false

/-! ### drawn -/

@[simp] theorem drawn_pins (s : State) : s.drawn.pins = s.pins := rfl
@[simp] theorem drawn_clock (s : State) : s.drawn.clock = s.clock := rfl
@[simp] theorem drawn_plan (s : State) : s.drawn.plan = s.plan := rfl
@[simp] theorem drawn_quorum (s : State) : s.drawn.quorum = s.quorum := rfl
@[simp] theorem drawn_planDigest (s : State) : s.drawn.planDigest = s.planDigest := rfl
@[simp] theorem drawn_scales (s : State) : s.drawn.scales = s.scales := rfl
@[simp] theorem drawn_table (s : State) : s.drawn.table = s.table := rfl
@[simp] theorem drawn_line (s : State) : s.drawn.line = s.line := rfl
@[simp] theorem drawn_station (s : State) : s.drawn.station = s.station := rfl
@[simp] theorem drawn_roster (s : State) : s.drawn.roster = s.roster := rfl
@[simp] theorem drawn_sending (s : State) : s.drawn.sending = s.sending := rfl
@[simp] theorem drawn_receiving (s : State) : s.drawn.receiving = s.receiving := rfl
@[simp] theorem drawn_verdicts (s : State) : s.drawn.verdicts = s.verdicts := rfl
@[simp] theorem drawn_report (s : State) : s.drawn.report = s.report := rfl
@[simp] theorem drawn_outputs (s : State) : s.drawn.outputs = s.outputs := rfl
@[simp] theorem drawn_qaCfg (s : State) : s.drawn.qaCfg = s.qaCfg := rfl
@[simp] theorem drawn_qbCfg (s : State) : s.drawn.qbCfg = s.qbCfg := rfl
@[simp] theorem drawn_port (s : State) : s.drawn.port = s.port := rfl
@[simp] theorem drawn_notices (s : State) : s.drawn.notices = s.notices := rfl
@[simp] theorem drawn_free (s : State) : s.drawn.free = s.free + 1 := rfl
@[simp] theorem drawn_serial (s : State) : s.drawn.serial = s.serial := rfl
@[simp] theorem drawn_pending (s : State) : s.drawn.pending = s.pending := rfl

/-! ### raise -/

@[simp] theorem raise_pins (n : Notice) (s : State) : (raise n s).pins = s.pins := rfl
@[simp] theorem raise_clock (n : Notice) (s : State) : (raise n s).clock = s.clock := rfl
@[simp] theorem raise_plan (n : Notice) (s : State) : (raise n s).plan = s.plan := rfl
@[simp] theorem raise_quorum (n : Notice) (s : State) : (raise n s).quorum = s.quorum := rfl
@[simp] theorem raise_planDigest (n : Notice) (s : State) : (raise n s).planDigest = s.planDigest := rfl
@[simp] theorem raise_scales (n : Notice) (s : State) : (raise n s).scales = s.scales := rfl
@[simp] theorem raise_table (n : Notice) (s : State) : (raise n s).table = s.table := rfl
@[simp] theorem raise_line (n : Notice) (s : State) : (raise n s).line = s.line := rfl
@[simp] theorem raise_station (n : Notice) (s : State) : (raise n s).station = s.station := rfl
@[simp] theorem raise_roster (n : Notice) (s : State) : (raise n s).roster = s.roster := rfl
@[simp] theorem raise_sending (n : Notice) (s : State) : (raise n s).sending = s.sending := rfl
@[simp] theorem raise_receiving (n : Notice) (s : State) : (raise n s).receiving = s.receiving := rfl
@[simp] theorem raise_verdicts (n : Notice) (s : State) : (raise n s).verdicts = s.verdicts := rfl
@[simp] theorem raise_report (n : Notice) (s : State) : (raise n s).report = s.report := rfl
@[simp] theorem raise_outputs (n : Notice) (s : State) : (raise n s).outputs = s.outputs := rfl
@[simp] theorem raise_qaCfg (n : Notice) (s : State) : (raise n s).qaCfg = s.qaCfg := rfl
@[simp] theorem raise_qbCfg (n : Notice) (s : State) : (raise n s).qbCfg = s.qbCfg := rfl
@[simp] theorem raise_port (n : Notice) (s : State) : (raise n s).port = s.port := rfl
@[simp] theorem raise_notices (n : Notice) (s : State) :
    (raise n s).notices = { s.notices with pending := addNotice n s.clock.label s.notices.pending } := rfl
@[simp] theorem raise_free (n : Notice) (s : State) : (raise n s).free = s.free := rfl
@[simp] theorem raise_serial (n : Notice) (s : State) : (raise n s).serial = s.serial := rfl
@[simp] theorem raise_pending (n : Notice) (s : State) : (raise n s).pending = s.pending := rfl

/-! ### setSlot -/

@[simp] theorem setSlot_pins (s : State) (p : Nat) (sl : Slot) : (s.setSlot p sl).pins = s.pins := rfl
@[simp] theorem setSlot_clock (s : State) (p : Nat) (sl : Slot) : (s.setSlot p sl).clock = s.clock := rfl
@[simp] theorem setSlot_plan (s : State) (p : Nat) (sl : Slot) : (s.setSlot p sl).plan = s.plan := rfl
@[simp] theorem setSlot_quorum (s : State) (p : Nat) (sl : Slot) : (s.setSlot p sl).quorum = s.quorum := rfl
@[simp] theorem setSlot_planDigest (s : State) (p : Nat) (sl : Slot) :
    (s.setSlot p sl).planDigest = s.planDigest := rfl
@[simp] theorem setSlot_scales (s : State) (p : Nat) (sl : Slot) : (s.setSlot p sl).scales = s.scales := rfl
@[simp] theorem setSlot_table (s : State) (p : Nat) (sl : Slot) : (s.setSlot p sl).table = s.table := rfl
@[simp] theorem setSlot_line (s : State) (p : Nat) (sl : Slot) : (s.setSlot p sl).line = s.line := rfl
@[simp] theorem setSlot_station (s : State) (p : Nat) (sl : Slot) : (s.setSlot p sl).station = s.station := rfl
@[simp] theorem setSlot_roster (s : State) (p : Nat) (sl : Slot) :
    (s.setSlot p sl).roster = s.roster.setIfInBounds p sl := rfl
@[simp] theorem setSlot_sending (s : State) (p : Nat) (sl : Slot) : (s.setSlot p sl).sending = s.sending := rfl
@[simp] theorem setSlot_receiving (s : State) (p : Nat) (sl : Slot) : (s.setSlot p sl).receiving = s.receiving := rfl
@[simp] theorem setSlot_verdicts (s : State) (p : Nat) (sl : Slot) : (s.setSlot p sl).verdicts = s.verdicts := rfl
@[simp] theorem setSlot_report (s : State) (p : Nat) (sl : Slot) : (s.setSlot p sl).report = s.report := rfl
@[simp] theorem setSlot_outputs (s : State) (p : Nat) (sl : Slot) : (s.setSlot p sl).outputs = s.outputs := rfl
@[simp] theorem setSlot_qaCfg (s : State) (p : Nat) (sl : Slot) : (s.setSlot p sl).qaCfg = s.qaCfg := rfl
@[simp] theorem setSlot_qbCfg (s : State) (p : Nat) (sl : Slot) : (s.setSlot p sl).qbCfg = s.qbCfg := rfl
@[simp] theorem setSlot_port (s : State) (p : Nat) (sl : Slot) : (s.setSlot p sl).port = s.port := rfl
@[simp] theorem setSlot_notices (s : State) (p : Nat) (sl : Slot) : (s.setSlot p sl).notices = s.notices := rfl
@[simp] theorem setSlot_free (s : State) (p : Nat) (sl : Slot) : (s.setSlot p sl).free = s.free := rfl
@[simp] theorem setSlot_serial (s : State) (p : Nat) (sl : Slot) : (s.setSlot p sl).serial = s.serial := rfl
@[simp] theorem setSlot_pending (s : State) (p : Nat) (sl : Slot) : (s.setSlot p sl).pending = s.pending := rfl

/-! ### setQueue -/

@[simp] theorem setQueue_pins (s : State) (q : List Frame) : (s.setQueue q).pins = s.pins := rfl
@[simp] theorem setQueue_clock (s : State) (q : List Frame) : (s.setQueue q).clock = s.clock := rfl
@[simp] theorem setQueue_plan (s : State) (q : List Frame) : (s.setQueue q).plan = s.plan := rfl
@[simp] theorem setQueue_quorum (s : State) (q : List Frame) : (s.setQueue q).quorum = s.quorum := rfl
@[simp] theorem setQueue_planDigest (s : State) (q : List Frame) : (s.setQueue q).planDigest = s.planDigest := rfl
@[simp] theorem setQueue_scales (s : State) (q : List Frame) : (s.setQueue q).scales = s.scales := rfl
@[simp] theorem setQueue_table (s : State) (q : List Frame) : (s.setQueue q).table = s.table := rfl
@[simp] theorem setQueue_line (s : State) (q : List Frame) : (s.setQueue q).line = { s.line with queue := q } := rfl
@[simp] theorem setQueue_station (s : State) (q : List Frame) : (s.setQueue q).station = s.station := rfl
@[simp] theorem setQueue_roster (s : State) (q : List Frame) : (s.setQueue q).roster = s.roster := rfl
@[simp] theorem setQueue_sending (s : State) (q : List Frame) : (s.setQueue q).sending = s.sending := rfl
@[simp] theorem setQueue_receiving (s : State) (q : List Frame) : (s.setQueue q).receiving = s.receiving := rfl
@[simp] theorem setQueue_verdicts (s : State) (q : List Frame) : (s.setQueue q).verdicts = s.verdicts := rfl
@[simp] theorem setQueue_report (s : State) (q : List Frame) : (s.setQueue q).report = s.report := rfl
@[simp] theorem setQueue_outputs (s : State) (q : List Frame) : (s.setQueue q).outputs = s.outputs := rfl
@[simp] theorem setQueue_qaCfg (s : State) (q : List Frame) : (s.setQueue q).qaCfg = s.qaCfg := rfl
@[simp] theorem setQueue_qbCfg (s : State) (q : List Frame) : (s.setQueue q).qbCfg = s.qbCfg := rfl
@[simp] theorem setQueue_port (s : State) (q : List Frame) : (s.setQueue q).port = s.port := rfl
@[simp] theorem setQueue_notices (s : State) (q : List Frame) : (s.setQueue q).notices = s.notices := rfl
@[simp] theorem setQueue_free (s : State) (q : List Frame) : (s.setQueue q).free = s.free := rfl
@[simp] theorem setQueue_serial (s : State) (q : List Frame) : (s.setQueue q).serial = s.serial := rfl
@[simp] theorem setQueue_pending (s : State) (q : List Frame) : (s.setQueue q).pending = s.pending := rfl

/-! ### setLine -/

@[simp] theorem setLine_pins (s : State) (l : Line) : (s.setLine l).pins = s.pins := rfl
@[simp] theorem setLine_clock (s : State) (l : Line) : (s.setLine l).clock = s.clock := rfl
@[simp] theorem setLine_plan (s : State) (l : Line) : (s.setLine l).plan = s.plan := rfl
@[simp] theorem setLine_quorum (s : State) (l : Line) : (s.setLine l).quorum = s.quorum := rfl
@[simp] theorem setLine_planDigest (s : State) (l : Line) : (s.setLine l).planDigest = s.planDigest := rfl
@[simp] theorem setLine_scales (s : State) (l : Line) : (s.setLine l).scales = s.scales := rfl
@[simp] theorem setLine_table (s : State) (l : Line) : (s.setLine l).table = s.table := rfl
@[simp] theorem setLine_line (s : State) (l : Line) : (s.setLine l).line = l := rfl
@[simp] theorem setLine_station (s : State) (l : Line) : (s.setLine l).station = s.station := rfl
@[simp] theorem setLine_roster (s : State) (l : Line) : (s.setLine l).roster = s.roster := rfl
@[simp] theorem setLine_sending (s : State) (l : Line) : (s.setLine l).sending = s.sending := rfl
@[simp] theorem setLine_receiving (s : State) (l : Line) : (s.setLine l).receiving = s.receiving := rfl
@[simp] theorem setLine_verdicts (s : State) (l : Line) : (s.setLine l).verdicts = s.verdicts := rfl
@[simp] theorem setLine_report (s : State) (l : Line) : (s.setLine l).report = s.report := rfl
@[simp] theorem setLine_outputs (s : State) (l : Line) : (s.setLine l).outputs = s.outputs := rfl
@[simp] theorem setLine_qaCfg (s : State) (l : Line) : (s.setLine l).qaCfg = s.qaCfg := rfl
@[simp] theorem setLine_qbCfg (s : State) (l : Line) : (s.setLine l).qbCfg = s.qbCfg := rfl
@[simp] theorem setLine_port (s : State) (l : Line) : (s.setLine l).port = s.port := rfl
@[simp] theorem setLine_notices (s : State) (l : Line) : (s.setLine l).notices = s.notices := rfl
@[simp] theorem setLine_free (s : State) (l : Line) : (s.setLine l).free = s.free := rfl
@[simp] theorem setLine_serial (s : State) (l : Line) : (s.setLine l).serial = s.serial := rfl
@[simp] theorem setLine_pending (s : State) (l : Line) : (s.setLine l).pending = s.pending := rfl

/-! ### setClock -/

@[simp] theorem setClock_pins (s : State) (c : Clock) : (s.setClock c).pins = s.pins := rfl
@[simp] theorem setClock_clock (s : State) (c : Clock) : (s.setClock c).clock = c := rfl
@[simp] theorem setClock_plan (s : State) (c : Clock) : (s.setClock c).plan = s.plan := rfl
@[simp] theorem setClock_quorum (s : State) (c : Clock) : (s.setClock c).quorum = s.quorum := rfl
@[simp] theorem setClock_planDigest (s : State) (c : Clock) : (s.setClock c).planDigest = s.planDigest := rfl
@[simp] theorem setClock_scales (s : State) (c : Clock) : (s.setClock c).scales = s.scales := rfl
@[simp] theorem setClock_table (s : State) (c : Clock) : (s.setClock c).table = s.table := rfl
@[simp] theorem setClock_line (s : State) (c : Clock) : (s.setClock c).line = s.line := rfl
@[simp] theorem setClock_station (s : State) (c : Clock) : (s.setClock c).station = s.station := rfl
@[simp] theorem setClock_roster (s : State) (c : Clock) : (s.setClock c).roster = s.roster := rfl
@[simp] theorem setClock_sending (s : State) (c : Clock) : (s.setClock c).sending = s.sending := rfl
@[simp] theorem setClock_receiving (s : State) (c : Clock) : (s.setClock c).receiving = s.receiving := rfl
@[simp] theorem setClock_verdicts (s : State) (c : Clock) : (s.setClock c).verdicts = s.verdicts := rfl
@[simp] theorem setClock_report (s : State) (c : Clock) : (s.setClock c).report = s.report := rfl
@[simp] theorem setClock_outputs (s : State) (c : Clock) : (s.setClock c).outputs = s.outputs := rfl
@[simp] theorem setClock_qaCfg (s : State) (c : Clock) : (s.setClock c).qaCfg = s.qaCfg := rfl
@[simp] theorem setClock_qbCfg (s : State) (c : Clock) : (s.setClock c).qbCfg = s.qbCfg := rfl
@[simp] theorem setClock_port (s : State) (c : Clock) : (s.setClock c).port = s.port := rfl
@[simp] theorem setClock_notices (s : State) (c : Clock) : (s.setClock c).notices = s.notices := rfl
@[simp] theorem setClock_free (s : State) (c : Clock) : (s.setClock c).free = s.free := rfl
@[simp] theorem setClock_serial (s : State) (c : Clock) : (s.setClock c).serial = s.serial := rfl
@[simp] theorem setClock_pending (s : State) (c : Clock) : (s.setClock c).pending = s.pending := rfl

/-! ### setOutput -/

@[simp] theorem setOutput_pins (s : State) (n : Fin 8) (o : Output) : (s.setOutput n o).pins = s.pins := rfl
@[simp] theorem setOutput_clock (s : State) (n : Fin 8) (o : Output) : (s.setOutput n o).clock = s.clock := rfl
@[simp] theorem setOutput_plan (s : State) (n : Fin 8) (o : Output) : (s.setOutput n o).plan = s.plan := rfl
@[simp] theorem setOutput_quorum (s : State) (n : Fin 8) (o : Output) : (s.setOutput n o).quorum = s.quorum := rfl
@[simp] theorem setOutput_planDigest (s : State) (n : Fin 8) (o : Output) :
    (s.setOutput n o).planDigest = s.planDigest := rfl
@[simp] theorem setOutput_scales (s : State) (n : Fin 8) (o : Output) : (s.setOutput n o).scales = s.scales := rfl
@[simp] theorem setOutput_table (s : State) (n : Fin 8) (o : Output) : (s.setOutput n o).table = s.table := rfl
@[simp] theorem setOutput_line (s : State) (n : Fin 8) (o : Output) : (s.setOutput n o).line = s.line := rfl
@[simp] theorem setOutput_station (s : State) (n : Fin 8) (o : Output) : (s.setOutput n o).station = s.station := rfl
@[simp] theorem setOutput_roster (s : State) (n : Fin 8) (o : Output) : (s.setOutput n o).roster = s.roster := rfl
@[simp] theorem setOutput_sending (s : State) (n : Fin 8) (o : Output) : (s.setOutput n o).sending = s.sending := rfl
@[simp] theorem setOutput_receiving (s : State) (n : Fin 8) (o : Output) :
    (s.setOutput n o).receiving = s.receiving := rfl
@[simp] theorem setOutput_verdicts (s : State) (n : Fin 8) (o : Output) :
    (s.setOutput n o).verdicts = s.verdicts := rfl
@[simp] theorem setOutput_report (s : State) (n : Fin 8) (o : Output) : (s.setOutput n o).report = s.report := rfl
@[simp] theorem setOutput_outputs (s : State) (n : Fin 8) (o : Output) :
    (s.setOutput n o).outputs = s.outputs.set n o := rfl
@[simp] theorem setOutput_qaCfg (s : State) (n : Fin 8) (o : Output) : (s.setOutput n o).qaCfg = s.qaCfg := rfl
@[simp] theorem setOutput_qbCfg (s : State) (n : Fin 8) (o : Output) : (s.setOutput n o).qbCfg = s.qbCfg := rfl
@[simp] theorem setOutput_port (s : State) (n : Fin 8) (o : Output) : (s.setOutput n o).port = s.port := rfl
@[simp] theorem setOutput_notices (s : State) (n : Fin 8) (o : Output) : (s.setOutput n o).notices = s.notices := rfl
@[simp] theorem setOutput_free (s : State) (n : Fin 8) (o : Output) : (s.setOutput n o).free = s.free := rfl
@[simp] theorem setOutput_serial (s : State) (n : Fin 8) (o : Output) : (s.setOutput n o).serial = s.serial := rfl
@[simp] theorem setOutput_pending (s : State) (n : Fin 8) (o : Output) : (s.setOutput n o).pending = s.pending := rfl

/-! ### setEntries -/

@[simp] theorem setEntries_pins (s : State) (es : List Entry) : (s.setEntries es).pins = s.pins := rfl
@[simp] theorem setEntries_clock (s : State) (es : List Entry) : (s.setEntries es).clock = s.clock := rfl
@[simp] theorem setEntries_plan (s : State) (es : List Entry) : (s.setEntries es).plan = s.plan := rfl
@[simp] theorem setEntries_quorum (s : State) (es : List Entry) : (s.setEntries es).quorum = s.quorum := rfl
@[simp] theorem setEntries_planDigest (s : State) (es : List Entry) :
    (s.setEntries es).planDigest = s.planDigest := rfl
@[simp] theorem setEntries_scales (s : State) (es : List Entry) : (s.setEntries es).scales = s.scales := rfl
@[simp] theorem setEntries_table (s : State) (es : List Entry) :
    (s.setEntries es).table = { s.table with entries := es, version := s.table.version + 1 } := rfl
@[simp] theorem setEntries_line (s : State) (es : List Entry) : (s.setEntries es).line = s.line := rfl
@[simp] theorem setEntries_station (s : State) (es : List Entry) : (s.setEntries es).station = s.station := rfl
@[simp] theorem setEntries_roster (s : State) (es : List Entry) : (s.setEntries es).roster = s.roster := rfl
@[simp] theorem setEntries_sending (s : State) (es : List Entry) : (s.setEntries es).sending = s.sending := rfl
@[simp] theorem setEntries_receiving (s : State) (es : List Entry) : (s.setEntries es).receiving = s.receiving := rfl
@[simp] theorem setEntries_verdicts (s : State) (es : List Entry) : (s.setEntries es).verdicts = s.verdicts := rfl
@[simp] theorem setEntries_report (s : State) (es : List Entry) : (s.setEntries es).report = s.report := rfl
@[simp] theorem setEntries_outputs (s : State) (es : List Entry) : (s.setEntries es).outputs = s.outputs := rfl
@[simp] theorem setEntries_qaCfg (s : State) (es : List Entry) : (s.setEntries es).qaCfg = s.qaCfg := rfl
@[simp] theorem setEntries_qbCfg (s : State) (es : List Entry) : (s.setEntries es).qbCfg = s.qbCfg := rfl
@[simp] theorem setEntries_port (s : State) (es : List Entry) : (s.setEntries es).port = s.port := rfl
@[simp] theorem setEntries_notices (s : State) (es : List Entry) : (s.setEntries es).notices = s.notices := rfl
@[simp] theorem setEntries_free (s : State) (es : List Entry) : (s.setEntries es).free = s.free := rfl
@[simp] theorem setEntries_serial (s : State) (es : List Entry) : (s.setEntries es).serial = s.serial := rfl
@[simp] theorem setEntries_pending (s : State) (es : List Entry) : (s.setEntries es).pending = s.pending := rfl

/-! ### modify -/

@[simp] theorem modify_pins (s : State) (id : Ident) (f : Entry → Entry) : (s.modify id f).pins = s.pins := rfl
@[simp] theorem modify_clock (s : State) (id : Ident) (f : Entry → Entry) : (s.modify id f).clock = s.clock := rfl
@[simp] theorem modify_plan (s : State) (id : Ident) (f : Entry → Entry) : (s.modify id f).plan = s.plan := rfl
@[simp] theorem modify_quorum (s : State) (id : Ident) (f : Entry → Entry) : (s.modify id f).quorum = s.quorum := rfl
@[simp] theorem modify_planDigest (s : State) (id : Ident) (f : Entry → Entry) :
    (s.modify id f).planDigest = s.planDigest := rfl
@[simp] theorem modify_scales (s : State) (id : Ident) (f : Entry → Entry) : (s.modify id f).scales = s.scales := rfl
@[simp] theorem modify_table (s : State) (id : Ident) (f : Entry → Entry) :
    (s.modify id f).table = { s.table with entries := updateEntry id f s.table.entries, version := s.table.version + 1 } := rfl
@[simp] theorem modify_line (s : State) (id : Ident) (f : Entry → Entry) : (s.modify id f).line = s.line := rfl
@[simp] theorem modify_station (s : State) (id : Ident) (f : Entry → Entry) :
    (s.modify id f).station = s.station := rfl
@[simp] theorem modify_roster (s : State) (id : Ident) (f : Entry → Entry) : (s.modify id f).roster = s.roster := rfl
@[simp] theorem modify_sending (s : State) (id : Ident) (f : Entry → Entry) :
    (s.modify id f).sending = s.sending := rfl
@[simp] theorem modify_receiving (s : State) (id : Ident) (f : Entry → Entry) :
    (s.modify id f).receiving = s.receiving := rfl
@[simp] theorem modify_verdicts (s : State) (id : Ident) (f : Entry → Entry) :
    (s.modify id f).verdicts = s.verdicts := rfl
@[simp] theorem modify_report (s : State) (id : Ident) (f : Entry → Entry) : (s.modify id f).report = s.report := rfl
@[simp] theorem modify_outputs (s : State) (id : Ident) (f : Entry → Entry) :
    (s.modify id f).outputs = s.outputs := rfl
@[simp] theorem modify_qaCfg (s : State) (id : Ident) (f : Entry → Entry) : (s.modify id f).qaCfg = s.qaCfg := rfl
@[simp] theorem modify_qbCfg (s : State) (id : Ident) (f : Entry → Entry) : (s.modify id f).qbCfg = s.qbCfg := rfl
@[simp] theorem modify_port (s : State) (id : Ident) (f : Entry → Entry) : (s.modify id f).port = s.port := rfl
@[simp] theorem modify_notices (s : State) (id : Ident) (f : Entry → Entry) :
    (s.modify id f).notices = s.notices := rfl
@[simp] theorem modify_free (s : State) (id : Ident) (f : Entry → Entry) : (s.modify id f).free = s.free := rfl
@[simp] theorem modify_serial (s : State) (id : Ident) (f : Entry → Entry) : (s.modify id f).serial = s.serial := rfl
@[simp] theorem modify_pending (s : State) (id : Ident) (f : Entry → Entry) :
    (s.modify id f).pending = s.pending := rfl

/-! ### setSeq -/

@[simp] theorem setSeq_pins (s : State) (q : Word) : (s.setSeq q).pins = s.pins := rfl
@[simp] theorem setSeq_clock (s : State) (q : Word) : (s.setSeq q).clock = s.clock := rfl
@[simp] theorem setSeq_plan (s : State) (q : Word) : (s.setSeq q).plan = s.plan := rfl
@[simp] theorem setSeq_quorum (s : State) (q : Word) : (s.setSeq q).quorum = s.quorum := rfl
@[simp] theorem setSeq_planDigest (s : State) (q : Word) : (s.setSeq q).planDigest = s.planDigest := rfl
@[simp] theorem setSeq_scales (s : State) (q : Word) : (s.setSeq q).scales = s.scales := rfl
@[simp] theorem setSeq_table (s : State) (q : Word) : (s.setSeq q).table = { s.table with nextSeq := q } := rfl
@[simp] theorem setSeq_line (s : State) (q : Word) : (s.setSeq q).line = s.line := rfl
@[simp] theorem setSeq_station (s : State) (q : Word) : (s.setSeq q).station = s.station := rfl
@[simp] theorem setSeq_roster (s : State) (q : Word) : (s.setSeq q).roster = s.roster := rfl
@[simp] theorem setSeq_sending (s : State) (q : Word) : (s.setSeq q).sending = s.sending := rfl
@[simp] theorem setSeq_receiving (s : State) (q : Word) : (s.setSeq q).receiving = s.receiving := rfl
@[simp] theorem setSeq_verdicts (s : State) (q : Word) : (s.setSeq q).verdicts = s.verdicts := rfl
@[simp] theorem setSeq_report (s : State) (q : Word) : (s.setSeq q).report = s.report := rfl
@[simp] theorem setSeq_outputs (s : State) (q : Word) : (s.setSeq q).outputs = s.outputs := rfl
@[simp] theorem setSeq_qaCfg (s : State) (q : Word) : (s.setSeq q).qaCfg = s.qaCfg := rfl
@[simp] theorem setSeq_qbCfg (s : State) (q : Word) : (s.setSeq q).qbCfg = s.qbCfg := rfl
@[simp] theorem setSeq_port (s : State) (q : Word) : (s.setSeq q).port = s.port := rfl
@[simp] theorem setSeq_notices (s : State) (q : Word) : (s.setSeq q).notices = s.notices := rfl
@[simp] theorem setSeq_free (s : State) (q : Word) : (s.setSeq q).free = s.free := rfl
@[simp] theorem setSeq_serial (s : State) (q : Word) : (s.setSeq q).serial = s.serial := rfl
@[simp] theorem setSeq_pending (s : State) (q : Word) : (s.setSeq q).pending = s.pending := rfl

/-! ### setMark -/

@[simp] theorem setMark_pins (s : State) (id : Ident) (m : Mark) : (s.setMark id m).pins = s.pins := rfl
@[simp] theorem setMark_clock (s : State) (id : Ident) (m : Mark) : (s.setMark id m).clock = s.clock := rfl
@[simp] theorem setMark_plan (s : State) (id : Ident) (m : Mark) : (s.setMark id m).plan = s.plan := rfl
@[simp] theorem setMark_quorum (s : State) (id : Ident) (m : Mark) : (s.setMark id m).quorum = s.quorum := rfl
@[simp] theorem setMark_planDigest (s : State) (id : Ident) (m : Mark) :
    (s.setMark id m).planDigest = s.planDigest := rfl
@[simp] theorem setMark_scales (s : State) (id : Ident) (m : Mark) : (s.setMark id m).scales = s.scales := rfl
@[simp] theorem setMark_table (s : State) (id : Ident) (m : Mark) :
    (s.setMark id m).table = { s.table with entries := updateEntry id (fun e => { e with mark := m }) s.table.entries } := rfl
@[simp] theorem setMark_line (s : State) (id : Ident) (m : Mark) : (s.setMark id m).line = s.line := rfl
@[simp] theorem setMark_station (s : State) (id : Ident) (m : Mark) : (s.setMark id m).station = s.station := rfl
@[simp] theorem setMark_roster (s : State) (id : Ident) (m : Mark) : (s.setMark id m).roster = s.roster := rfl
@[simp] theorem setMark_sending (s : State) (id : Ident) (m : Mark) : (s.setMark id m).sending = s.sending := rfl
@[simp] theorem setMark_receiving (s : State) (id : Ident) (m : Mark) :
    (s.setMark id m).receiving = s.receiving := rfl
@[simp] theorem setMark_verdicts (s : State) (id : Ident) (m : Mark) :
    (s.setMark id m).verdicts = s.verdicts := rfl
@[simp] theorem setMark_report (s : State) (id : Ident) (m : Mark) : (s.setMark id m).report = s.report := rfl
@[simp] theorem setMark_outputs (s : State) (id : Ident) (m : Mark) : (s.setMark id m).outputs = s.outputs := rfl
@[simp] theorem setMark_qaCfg (s : State) (id : Ident) (m : Mark) : (s.setMark id m).qaCfg = s.qaCfg := rfl
@[simp] theorem setMark_qbCfg (s : State) (id : Ident) (m : Mark) : (s.setMark id m).qbCfg = s.qbCfg := rfl
@[simp] theorem setMark_port (s : State) (id : Ident) (m : Mark) : (s.setMark id m).port = s.port := rfl
@[simp] theorem setMark_notices (s : State) (id : Ident) (m : Mark) : (s.setMark id m).notices = s.notices := rfl
@[simp] theorem setMark_free (s : State) (id : Ident) (m : Mark) : (s.setMark id m).free = s.free := rfl
@[simp] theorem setMark_serial (s : State) (id : Ident) (m : Mark) : (s.setMark id m).serial = s.serial := rfl
@[simp] theorem setMark_pending (s : State) (id : Ident) (m : Mark) : (s.setMark id m).pending = s.pending := rfl

/-! ### moveMark -/

@[simp] theorem moveMark_pins (s : State) (id : Ident) (a b : Mark) : (s.moveMark id a b).pins = s.pins := rfl
@[simp] theorem moveMark_clock (s : State) (id : Ident) (a b : Mark) : (s.moveMark id a b).clock = s.clock := rfl
@[simp] theorem moveMark_plan (s : State) (id : Ident) (a b : Mark) : (s.moveMark id a b).plan = s.plan := rfl
@[simp] theorem moveMark_quorum (s : State) (id : Ident) (a b : Mark) : (s.moveMark id a b).quorum = s.quorum := rfl
@[simp] theorem moveMark_planDigest (s : State) (id : Ident) (a b : Mark) :
    (s.moveMark id a b).planDigest = s.planDigest := rfl
@[simp] theorem moveMark_scales (s : State) (id : Ident) (a b : Mark) : (s.moveMark id a b).scales = s.scales := rfl
@[simp] theorem moveMark_table (s : State) (id : Ident) (a b : Mark) :
    (s.moveMark id a b).table =
      { s.table with
        entries := s.table.entries.map fun e => if e.id = id ∧ e.mark = a then { e with mark := b } else e } := rfl
@[simp] theorem moveMark_line (s : State) (id : Ident) (a b : Mark) : (s.moveMark id a b).line = s.line := rfl
@[simp] theorem moveMark_station (s : State) (id : Ident) (a b : Mark) :
    (s.moveMark id a b).station = s.station := rfl
@[simp] theorem moveMark_roster (s : State) (id : Ident) (a b : Mark) : (s.moveMark id a b).roster = s.roster := rfl
@[simp] theorem moveMark_sending (s : State) (id : Ident) (a b : Mark) :
    (s.moveMark id a b).sending = s.sending := rfl
@[simp] theorem moveMark_receiving (s : State) (id : Ident) (a b : Mark) :
    (s.moveMark id a b).receiving = s.receiving := rfl
@[simp] theorem moveMark_verdicts (s : State) (id : Ident) (a b : Mark) :
    (s.moveMark id a b).verdicts = s.verdicts := rfl
@[simp] theorem moveMark_report (s : State) (id : Ident) (a b : Mark) : (s.moveMark id a b).report = s.report := rfl
@[simp] theorem moveMark_outputs (s : State) (id : Ident) (a b : Mark) :
    (s.moveMark id a b).outputs = s.outputs := rfl
@[simp] theorem moveMark_qaCfg (s : State) (id : Ident) (a b : Mark) : (s.moveMark id a b).qaCfg = s.qaCfg := rfl
@[simp] theorem moveMark_qbCfg (s : State) (id : Ident) (a b : Mark) : (s.moveMark id a b).qbCfg = s.qbCfg := rfl
@[simp] theorem moveMark_port (s : State) (id : Ident) (a b : Mark) : (s.moveMark id a b).port = s.port := rfl
@[simp] theorem moveMark_notices (s : State) (id : Ident) (a b : Mark) :
    (s.moveMark id a b).notices = s.notices := rfl
@[simp] theorem moveMark_free (s : State) (id : Ident) (a b : Mark) : (s.moveMark id a b).free = s.free := rfl
@[simp] theorem moveMark_serial (s : State) (id : Ident) (a b : Mark) : (s.moveMark id a b).serial = s.serial := rfl
@[simp] theorem moveMark_pending (s : State) (id : Ident) (a b : Mark) :
    (s.moveMark id a b).pending = s.pending := rfl

/-! ### setScale -/

@[simp] theorem setScale_pins (s : State) (k : Nat) (sc : Scale) :
    (s.setScale k sc).pins = s.pins := by unfold State.setScale; split <;> rfl
@[simp] theorem setScale_clock (s : State) (k : Nat) (sc : Scale) :
    (s.setScale k sc).clock = s.clock := by unfold State.setScale; split <;> rfl
@[simp] theorem setScale_plan (s : State) (k : Nat) (sc : Scale) :
    (s.setScale k sc).plan = s.plan := by unfold State.setScale; split <;> rfl
@[simp] theorem setScale_quorum (s : State) (k : Nat) (sc : Scale) :
    (s.setScale k sc).quorum = s.quorum := by unfold State.setScale; split <;> rfl
@[simp] theorem setScale_planDigest (s : State) (k : Nat) (sc : Scale) :
    (s.setScale k sc).planDigest = s.planDigest := by unfold State.setScale; split <;> rfl
@[simp] theorem setScale_scales (s : State) (k : Nat) (sc : Scale) :
    (s.setScale k sc).scales = if 1 ≤ k then s.scales.setIfInBounds (k - 1) sc else s.scales := by unfold State.setScale; split <;> rfl
@[simp] theorem setScale_table (s : State) (k : Nat) (sc : Scale) :
    (s.setScale k sc).table = s.table := by unfold State.setScale; split <;> rfl
@[simp] theorem setScale_line (s : State) (k : Nat) (sc : Scale) :
    (s.setScale k sc).line = s.line := by unfold State.setScale; split <;> rfl
@[simp] theorem setScale_station (s : State) (k : Nat) (sc : Scale) :
    (s.setScale k sc).station = s.station := by unfold State.setScale; split <;> rfl
@[simp] theorem setScale_roster (s : State) (k : Nat) (sc : Scale) :
    (s.setScale k sc).roster = s.roster := by unfold State.setScale; split <;> rfl
@[simp] theorem setScale_sending (s : State) (k : Nat) (sc : Scale) :
    (s.setScale k sc).sending = s.sending := by unfold State.setScale; split <;> rfl
@[simp] theorem setScale_receiving (s : State) (k : Nat) (sc : Scale) :
    (s.setScale k sc).receiving = s.receiving := by unfold State.setScale; split <;> rfl
@[simp] theorem setScale_verdicts (s : State) (k : Nat) (sc : Scale) :
    (s.setScale k sc).verdicts = s.verdicts := by unfold State.setScale; split <;> rfl
@[simp] theorem setScale_report (s : State) (k : Nat) (sc : Scale) :
    (s.setScale k sc).report = s.report := by unfold State.setScale; split <;> rfl
@[simp] theorem setScale_outputs (s : State) (k : Nat) (sc : Scale) :
    (s.setScale k sc).outputs = s.outputs := by unfold State.setScale; split <;> rfl
@[simp] theorem setScale_qaCfg (s : State) (k : Nat) (sc : Scale) :
    (s.setScale k sc).qaCfg = s.qaCfg := by unfold State.setScale; split <;> rfl
@[simp] theorem setScale_qbCfg (s : State) (k : Nat) (sc : Scale) :
    (s.setScale k sc).qbCfg = s.qbCfg := by unfold State.setScale; split <;> rfl
@[simp] theorem setScale_port (s : State) (k : Nat) (sc : Scale) :
    (s.setScale k sc).port = s.port := by unfold State.setScale; split <;> rfl
@[simp] theorem setScale_notices (s : State) (k : Nat) (sc : Scale) :
    (s.setScale k sc).notices = s.notices := by unfold State.setScale; split <;> rfl
@[simp] theorem setScale_free (s : State) (k : Nat) (sc : Scale) :
    (s.setScale k sc).free = s.free := by unfold State.setScale; split <;> rfl
@[simp] theorem setScale_serial (s : State) (k : Nat) (sc : Scale) :
    (s.setScale k sc).serial = s.serial := by unfold State.setScale; split <;> rfl
@[simp] theorem setScale_pending (s : State) (k : Nat) (sc : Scale) :
    (s.setScale k sc).pending = s.pending := by unfold State.setScale; split <;> rfl

/-! ### setChange -/

@[simp] theorem setChange_pins (s : State) (k : Nat) (c : ChangeRecord) :
    (s.setChange k c).pins = s.pins := by unfold State.setChange; split <;> rfl
@[simp] theorem setChange_clock (s : State) (k : Nat) (c : ChangeRecord) :
    (s.setChange k c).clock = s.clock := by unfold State.setChange; split <;> rfl
@[simp] theorem setChange_plan (s : State) (k : Nat) (c : ChangeRecord) :
    (s.setChange k c).plan = s.plan := by unfold State.setChange; split <;> rfl
@[simp] theorem setChange_quorum (s : State) (k : Nat) (c : ChangeRecord) :
    (s.setChange k c).quorum = s.quorum := by unfold State.setChange; split <;> rfl
@[simp] theorem setChange_planDigest (s : State) (k : Nat) (c : ChangeRecord) :
    (s.setChange k c).planDigest = s.planDigest := by unfold State.setChange; split <;> rfl
@[simp] theorem setChange_scales (s : State) (k : Nat) (c : ChangeRecord) :
    (s.setChange k c).scales = s.scales := by unfold State.setChange; split <;> rfl
@[simp] theorem setChange_table (s : State) (k : Nat) (c : ChangeRecord) :
    (s.setChange k c).table = s.table := by unfold State.setChange; split <;> rfl
@[simp] theorem setChange_line (s : State) (k : Nat) (c : ChangeRecord) :
    (s.setChange k c).line = s.line := by unfold State.setChange; split <;> rfl
@[simp] theorem setChange_station (s : State) (k : Nat) (c : ChangeRecord) :
    (s.setChange k c).station = s.station := by unfold State.setChange; split <;> rfl
@[simp] theorem setChange_roster (s : State) (k : Nat) (c : ChangeRecord) :
    (s.setChange k c).roster = s.roster := by unfold State.setChange; split <;> rfl
@[simp] theorem setChange_sending (s : State) (k : Nat) (c : ChangeRecord) :
    (s.setChange k c).sending = s.sending := by unfold State.setChange; split <;> rfl
@[simp] theorem setChange_receiving (s : State) (k : Nat) (c : ChangeRecord) :
    (s.setChange k c).receiving = s.receiving := by unfold State.setChange; split <;> rfl
@[simp] theorem setChange_verdicts (s : State) (k : Nat) (c : ChangeRecord) :
    (s.setChange k c).verdicts = s.verdicts := by unfold State.setChange; split <;> rfl
@[simp] theorem setChange_report (s : State) (k : Nat) (c : ChangeRecord) :
    (s.setChange k c).report = if 1 ≤ k then { s.report with change := s.report.change.setIfInBounds (k - 1) (some c) } else s.report := by unfold State.setChange; split <;> rfl
@[simp] theorem setChange_outputs (s : State) (k : Nat) (c : ChangeRecord) :
    (s.setChange k c).outputs = s.outputs := by unfold State.setChange; split <;> rfl
@[simp] theorem setChange_qaCfg (s : State) (k : Nat) (c : ChangeRecord) :
    (s.setChange k c).qaCfg = s.qaCfg := by unfold State.setChange; split <;> rfl
@[simp] theorem setChange_qbCfg (s : State) (k : Nat) (c : ChangeRecord) :
    (s.setChange k c).qbCfg = s.qbCfg := by unfold State.setChange; split <;> rfl
@[simp] theorem setChange_port (s : State) (k : Nat) (c : ChangeRecord) :
    (s.setChange k c).port = s.port := by unfold State.setChange; split <;> rfl
@[simp] theorem setChange_notices (s : State) (k : Nat) (c : ChangeRecord) :
    (s.setChange k c).notices = s.notices := by unfold State.setChange; split <;> rfl
@[simp] theorem setChange_free (s : State) (k : Nat) (c : ChangeRecord) :
    (s.setChange k c).free = s.free := by unfold State.setChange; split <;> rfl
@[simp] theorem setChange_serial (s : State) (k : Nat) (c : ChangeRecord) :
    (s.setChange k c).serial = s.serial := by unfold State.setChange; split <;> rfl
@[simp] theorem setChange_pending (s : State) (k : Nat) (c : ChangeRecord) :
    (s.setChange k c).pending = s.pending := by unfold State.setChange; split <;> rfl

/-! ### withLabel -/

@[simp] theorem withLabel_pins (s : State) (v : Nat) : (s.withLabel v).pins = s.pins := rfl
@[simp] theorem withLabel_clock (s : State) (v : Nat) :
    (s.withLabel v).clock = { s.clock with label := v, pendingLabel := none } := rfl
@[simp] theorem withLabel_plan (s : State) (v : Nat) : (s.withLabel v).plan = s.plan := rfl
@[simp] theorem withLabel_quorum (s : State) (v : Nat) : (s.withLabel v).quorum = s.quorum := rfl
@[simp] theorem withLabel_planDigest (s : State) (v : Nat) : (s.withLabel v).planDigest = s.planDigest := rfl
@[simp] theorem withLabel_scales (s : State) (v : Nat) : (s.withLabel v).scales = s.scales := rfl
@[simp] theorem withLabel_table (s : State) (v : Nat) : (s.withLabel v).table = s.table := rfl
@[simp] theorem withLabel_line (s : State) (v : Nat) : (s.withLabel v).line = s.line := rfl
@[simp] theorem withLabel_station (s : State) (v : Nat) : (s.withLabel v).station = s.station := rfl
@[simp] theorem withLabel_roster (s : State) (v : Nat) : (s.withLabel v).roster = s.roster := rfl
@[simp] theorem withLabel_sending (s : State) (v : Nat) : (s.withLabel v).sending = s.sending := rfl
@[simp] theorem withLabel_receiving (s : State) (v : Nat) : (s.withLabel v).receiving = s.receiving := rfl
@[simp] theorem withLabel_verdicts (s : State) (v : Nat) : (s.withLabel v).verdicts = s.verdicts := rfl
@[simp] theorem withLabel_report (s : State) (v : Nat) : (s.withLabel v).report = s.report := rfl
@[simp] theorem withLabel_outputs (s : State) (v : Nat) : (s.withLabel v).outputs = s.outputs := rfl
@[simp] theorem withLabel_qaCfg (s : State) (v : Nat) : (s.withLabel v).qaCfg = s.qaCfg := rfl
@[simp] theorem withLabel_qbCfg (s : State) (v : Nat) : (s.withLabel v).qbCfg = s.qbCfg := rfl
@[simp] theorem withLabel_port (s : State) (v : Nat) : (s.withLabel v).port = s.port := rfl
@[simp] theorem withLabel_notices (s : State) (v : Nat) : (s.withLabel v).notices = s.notices := rfl
@[simp] theorem withLabel_free (s : State) (v : Nat) : (s.withLabel v).free = s.free := rfl
@[simp] theorem withLabel_serial (s : State) (v : Nat) : (s.withLabel v).serial = s.serial := rfl
@[simp] theorem withLabel_pending (s : State) (v : Nat) : (s.withLabel v).pending = s.pending := rfl

/-! ### setQuenchCfg -/

@[simp] theorem setQuenchCfg_pins (s : State) (g : Group) (c : QuenchCfg) :
    (s.setQuenchCfg g c).pins = s.pins := by cases g <;> rfl
@[simp] theorem setQuenchCfg_clock (s : State) (g : Group) (c : QuenchCfg) :
    (s.setQuenchCfg g c).clock = s.clock := by cases g <;> rfl
@[simp] theorem setQuenchCfg_plan (s : State) (g : Group) (c : QuenchCfg) :
    (s.setQuenchCfg g c).plan = s.plan := by cases g <;> rfl
@[simp] theorem setQuenchCfg_quorum (s : State) (g : Group) (c : QuenchCfg) :
    (s.setQuenchCfg g c).quorum = s.quorum := by cases g <;> rfl
@[simp] theorem setQuenchCfg_planDigest (s : State) (g : Group) (c : QuenchCfg) :
    (s.setQuenchCfg g c).planDigest = s.planDigest := by cases g <;> rfl
@[simp] theorem setQuenchCfg_scales (s : State) (g : Group) (c : QuenchCfg) :
    (s.setQuenchCfg g c).scales = s.scales := by cases g <;> rfl
@[simp] theorem setQuenchCfg_table (s : State) (g : Group) (c : QuenchCfg) :
    (s.setQuenchCfg g c).table = s.table := by cases g <;> rfl
@[simp] theorem setQuenchCfg_line (s : State) (g : Group) (c : QuenchCfg) :
    (s.setQuenchCfg g c).line = s.line := by cases g <;> rfl
@[simp] theorem setQuenchCfg_station (s : State) (g : Group) (c : QuenchCfg) :
    (s.setQuenchCfg g c).station = s.station := by cases g <;> rfl
@[simp] theorem setQuenchCfg_roster (s : State) (g : Group) (c : QuenchCfg) :
    (s.setQuenchCfg g c).roster = s.roster := by cases g <;> rfl
@[simp] theorem setQuenchCfg_sending (s : State) (g : Group) (c : QuenchCfg) :
    (s.setQuenchCfg g c).sending = s.sending := by cases g <;> rfl
@[simp] theorem setQuenchCfg_receiving (s : State) (g : Group) (c : QuenchCfg) :
    (s.setQuenchCfg g c).receiving = s.receiving := by cases g <;> rfl
@[simp] theorem setQuenchCfg_verdicts (s : State) (g : Group) (c : QuenchCfg) :
    (s.setQuenchCfg g c).verdicts = s.verdicts := by cases g <;> rfl
@[simp] theorem setQuenchCfg_report (s : State) (g : Group) (c : QuenchCfg) :
    (s.setQuenchCfg g c).report = s.report := by cases g <;> rfl
@[simp] theorem setQuenchCfg_outputs (s : State) (g : Group) (c : QuenchCfg) :
    (s.setQuenchCfg g c).outputs = s.outputs := by cases g <;> rfl
@[simp] theorem setQuenchCfg_qaCfg (s : State) (g : Group) (c : QuenchCfg) :
    (s.setQuenchCfg g c).qaCfg = if g = .qa then c else s.qaCfg := by cases g <;> rfl
@[simp] theorem setQuenchCfg_qbCfg (s : State) (g : Group) (c : QuenchCfg) :
    (s.setQuenchCfg g c).qbCfg = if g = .qb then c else s.qbCfg := by cases g <;> rfl
@[simp] theorem setQuenchCfg_port (s : State) (g : Group) (c : QuenchCfg) :
    (s.setQuenchCfg g c).port = s.port := by cases g <;> rfl
@[simp] theorem setQuenchCfg_notices (s : State) (g : Group) (c : QuenchCfg) :
    (s.setQuenchCfg g c).notices = s.notices := by cases g <;> rfl
@[simp] theorem setQuenchCfg_free (s : State) (g : Group) (c : QuenchCfg) :
    (s.setQuenchCfg g c).free = s.free := by cases g <;> rfl
@[simp] theorem setQuenchCfg_serial (s : State) (g : Group) (c : QuenchCfg) :
    (s.setQuenchCfg g c).serial = s.serial := by cases g <;> rfl
@[simp] theorem setQuenchCfg_pending (s : State) (g : Group) (c : QuenchCfg) :
    (s.setQuenchCfg g c).pending = s.pending := by cases g <;> rfl

/-! ### setQuenchLevel -/

@[simp] theorem setQuenchLevel_pins (s : State) (g : Group) (h : Bool) :
    (s.setQuenchLevel g h).pins = if g = .qa then { s.pins with qa := h } else { s.pins with qb := h } := by cases g <;> rfl
@[simp] theorem setQuenchLevel_clock (s : State) (g : Group) (h : Bool) :
    (s.setQuenchLevel g h).clock = s.clock := by cases g <;> rfl
@[simp] theorem setQuenchLevel_plan (s : State) (g : Group) (h : Bool) :
    (s.setQuenchLevel g h).plan = s.plan := by cases g <;> rfl
@[simp] theorem setQuenchLevel_quorum (s : State) (g : Group) (h : Bool) :
    (s.setQuenchLevel g h).quorum = s.quorum := by cases g <;> rfl
@[simp] theorem setQuenchLevel_planDigest (s : State) (g : Group) (h : Bool) :
    (s.setQuenchLevel g h).planDigest = s.planDigest := by cases g <;> rfl
@[simp] theorem setQuenchLevel_scales (s : State) (g : Group) (h : Bool) :
    (s.setQuenchLevel g h).scales = s.scales := by cases g <;> rfl
@[simp] theorem setQuenchLevel_table (s : State) (g : Group) (h : Bool) :
    (s.setQuenchLevel g h).table = s.table := by cases g <;> rfl
@[simp] theorem setQuenchLevel_line (s : State) (g : Group) (h : Bool) :
    (s.setQuenchLevel g h).line = s.line := by cases g <;> rfl
@[simp] theorem setQuenchLevel_station (s : State) (g : Group) (h : Bool) :
    (s.setQuenchLevel g h).station = s.station := by cases g <;> rfl
@[simp] theorem setQuenchLevel_roster (s : State) (g : Group) (h : Bool) :
    (s.setQuenchLevel g h).roster = s.roster := by cases g <;> rfl
@[simp] theorem setQuenchLevel_sending (s : State) (g : Group) (h : Bool) :
    (s.setQuenchLevel g h).sending = s.sending := by cases g <;> rfl
@[simp] theorem setQuenchLevel_receiving (s : State) (g : Group) (h : Bool) :
    (s.setQuenchLevel g h).receiving = s.receiving := by cases g <;> rfl
@[simp] theorem setQuenchLevel_verdicts (s : State) (g : Group) (h : Bool) :
    (s.setQuenchLevel g h).verdicts = s.verdicts := by cases g <;> rfl
@[simp] theorem setQuenchLevel_report (s : State) (g : Group) (h : Bool) :
    (s.setQuenchLevel g h).report = s.report := by cases g <;> rfl
@[simp] theorem setQuenchLevel_outputs (s : State) (g : Group) (h : Bool) :
    (s.setQuenchLevel g h).outputs = s.outputs := by cases g <;> rfl
@[simp] theorem setQuenchLevel_qaCfg (s : State) (g : Group) (h : Bool) :
    (s.setQuenchLevel g h).qaCfg = s.qaCfg := by cases g <;> rfl
@[simp] theorem setQuenchLevel_qbCfg (s : State) (g : Group) (h : Bool) :
    (s.setQuenchLevel g h).qbCfg = s.qbCfg := by cases g <;> rfl
@[simp] theorem setQuenchLevel_port (s : State) (g : Group) (h : Bool) :
    (s.setQuenchLevel g h).port = s.port := by cases g <;> rfl
@[simp] theorem setQuenchLevel_notices (s : State) (g : Group) (h : Bool) :
    (s.setQuenchLevel g h).notices = s.notices := by cases g <;> rfl
@[simp] theorem setQuenchLevel_free (s : State) (g : Group) (h : Bool) :
    (s.setQuenchLevel g h).free = s.free := by cases g <;> rfl
@[simp] theorem setQuenchLevel_serial (s : State) (g : Group) (h : Bool) :
    (s.setQuenchLevel g h).serial = s.serial := by cases g <;> rfl
@[simp] theorem setQuenchLevel_pending (s : State) (g : Group) (h : Bool) :
    (s.setQuenchLevel g h).pending = s.pending := by cases g <;> rfl

/-! ### respond -/

@[simp] theorem respond_pins (c : Byte) (st : Status) (r : Nat) (d : Data) (s : State) :
    (respond c st r d s).pins = s.pins := rfl
@[simp] theorem respond_clock (c : Byte) (st : Status) (r : Nat) (d : Data) (s : State) :
    (respond c st r d s).clock = s.clock := rfl
@[simp] theorem respond_plan (c : Byte) (st : Status) (r : Nat) (d : Data) (s : State) :
    (respond c st r d s).plan = s.plan := rfl
@[simp] theorem respond_quorum (c : Byte) (st : Status) (r : Nat) (d : Data) (s : State) :
    (respond c st r d s).quorum = s.quorum := rfl
@[simp] theorem respond_planDigest (c : Byte) (st : Status) (r : Nat) (d : Data) (s : State) :
    (respond c st r d s).planDigest = s.planDigest := rfl
@[simp] theorem respond_scales (c : Byte) (st : Status) (r : Nat) (d : Data) (s : State) :
    (respond c st r d s).scales = s.scales := rfl
@[simp] theorem respond_table (c : Byte) (st : Status) (r : Nat) (d : Data) (s : State) :
    (respond c st r d s).table = s.table := rfl
@[simp] theorem respond_line (c : Byte) (st : Status) (r : Nat) (d : Data) (s : State) :
    (respond c st r d s).line = s.line := rfl
@[simp] theorem respond_station (c : Byte) (st : Status) (r : Nat) (d : Data) (s : State) :
    (respond c st r d s).station = s.station := rfl
@[simp] theorem respond_roster (c : Byte) (st : Status) (r : Nat) (d : Data) (s : State) :
    (respond c st r d s).roster = s.roster := rfl
@[simp] theorem respond_sending (c : Byte) (st : Status) (r : Nat) (d : Data) (s : State) :
    (respond c st r d s).sending = s.sending := rfl
@[simp] theorem respond_receiving (c : Byte) (st : Status) (r : Nat) (d : Data) (s : State) :
    (respond c st r d s).receiving = s.receiving := rfl
@[simp] theorem respond_verdicts (c : Byte) (st : Status) (r : Nat) (d : Data) (s : State) :
    (respond c st r d s).verdicts = s.verdicts := rfl
@[simp] theorem respond_report (c : Byte) (st : Status) (r : Nat) (d : Data) (s : State) :
    (respond c st r d s).report = s.report := rfl
@[simp] theorem respond_outputs (c : Byte) (st : Status) (r : Nat) (d : Data) (s : State) :
    (respond c st r d s).outputs = s.outputs := rfl
@[simp] theorem respond_qaCfg (c : Byte) (st : Status) (r : Nat) (d : Data) (s : State) :
    (respond c st r d s).qaCfg = s.qaCfg := rfl
@[simp] theorem respond_qbCfg (c : Byte) (st : Status) (r : Nat) (d : Data) (s : State) :
    (respond c st r d s).qbCfg = s.qbCfg := rfl
@[simp] theorem respond_port (c : Byte) (st : Status) (r : Nat) (d : Data) (s : State) :
    (respond c st r d s).port = Port.answer c st r d := rfl
@[simp] theorem respond_notices (c : Byte) (st : Status) (r : Nat) (d : Data) (s : State) :
    (respond c st r d s).notices = s.notices := rfl
@[simp] theorem respond_free (c : Byte) (st : Status) (r : Nat) (d : Data) (s : State) :
    (respond c st r d s).free = s.free := rfl
@[simp] theorem respond_serial (c : Byte) (st : Status) (r : Nat) (d : Data) (s : State) :
    (respond c st r d s).serial = s.serial := rfl
@[simp] theorem respond_pending (c : Byte) (st : Status) (r : Nat) (d : Data) (s : State) :
    (respond c st r d s).pending = s.pending := rfl

/-! ### awaiting -/

@[simp] theorem awaiting_pins (s : State) (v : PendingVerdict) : (s.awaiting v).pins = s.pins := rfl
@[simp] theorem awaiting_clock (s : State) (v : PendingVerdict) : (s.awaiting v).clock = s.clock := rfl
@[simp] theorem awaiting_plan (s : State) (v : PendingVerdict) : (s.awaiting v).plan = s.plan := rfl
@[simp] theorem awaiting_quorum (s : State) (v : PendingVerdict) : (s.awaiting v).quorum = s.quorum := rfl
@[simp] theorem awaiting_planDigest (s : State) (v : PendingVerdict) : (s.awaiting v).planDigest = s.planDigest := rfl
@[simp] theorem awaiting_scales (s : State) (v : PendingVerdict) : (s.awaiting v).scales = s.scales := rfl
@[simp] theorem awaiting_table (s : State) (v : PendingVerdict) : (s.awaiting v).table = s.table := rfl
@[simp] theorem awaiting_line (s : State) (v : PendingVerdict) : (s.awaiting v).line = s.line := rfl
@[simp] theorem awaiting_station (s : State) (v : PendingVerdict) : (s.awaiting v).station = s.station := rfl
@[simp] theorem awaiting_roster (s : State) (v : PendingVerdict) : (s.awaiting v).roster = s.roster := rfl
@[simp] theorem awaiting_sending (s : State) (v : PendingVerdict) : (s.awaiting v).sending = s.sending := rfl
@[simp] theorem awaiting_receiving (s : State) (v : PendingVerdict) : (s.awaiting v).receiving = s.receiving := rfl
@[simp] theorem awaiting_verdicts (s : State) (v : PendingVerdict) : (s.awaiting v).verdicts = s.verdicts ++ [v] := rfl
@[simp] theorem awaiting_report (s : State) (v : PendingVerdict) : (s.awaiting v).report = s.report := rfl
@[simp] theorem awaiting_outputs (s : State) (v : PendingVerdict) : (s.awaiting v).outputs = s.outputs := rfl
@[simp] theorem awaiting_qaCfg (s : State) (v : PendingVerdict) : (s.awaiting v).qaCfg = s.qaCfg := rfl
@[simp] theorem awaiting_qbCfg (s : State) (v : PendingVerdict) : (s.awaiting v).qbCfg = s.qbCfg := rfl
@[simp] theorem awaiting_port (s : State) (v : PendingVerdict) : (s.awaiting v).port = s.port := rfl
@[simp] theorem awaiting_notices (s : State) (v : PendingVerdict) : (s.awaiting v).notices = s.notices := rfl
@[simp] theorem awaiting_free (s : State) (v : PendingVerdict) : (s.awaiting v).free = s.free := rfl
@[simp] theorem awaiting_serial (s : State) (v : PendingVerdict) : (s.awaiting v).serial = s.serial := rfl
@[simp] theorem awaiting_pending (s : State) (v : PendingVerdict) : (s.awaiting v).pending = s.pending := rfl

/-! ### claiming -/

@[simp] theorem claiming_pins (s : State) (id : Ident) : (s.claiming id).pins = s.pins := rfl
@[simp] theorem claiming_clock (s : State) (id : Ident) : (s.claiming id).clock = s.clock := rfl
@[simp] theorem claiming_plan (s : State) (id : Ident) : (s.claiming id).plan = s.plan := rfl
@[simp] theorem claiming_quorum (s : State) (id : Ident) : (s.claiming id).quorum = s.quorum := rfl
@[simp] theorem claiming_planDigest (s : State) (id : Ident) : (s.claiming id).planDigest = s.planDigest := rfl
@[simp] theorem claiming_scales (s : State) (id : Ident) : (s.claiming id).scales = s.scales := rfl
@[simp] theorem claiming_table (s : State) (id : Ident) : (s.claiming id).table = s.table := rfl
@[simp] theorem claiming_line (s : State) (id : Ident) : (s.claiming id).line = s.line := rfl
@[simp] theorem claiming_station (s : State) (id : Ident) : (s.claiming id).station = s.station := rfl
@[simp] theorem claiming_roster (s : State) (id : Ident) : (s.claiming id).roster = s.roster := rfl
@[simp] theorem claiming_sending (s : State) (id : Ident) : (s.claiming id).sending = s.sending := rfl
@[simp] theorem claiming_receiving (s : State) (id : Ident) : (s.claiming id).receiving = s.receiving := rfl
@[simp] theorem claiming_verdicts (s : State) (id : Ident) : (s.claiming id).verdicts = claimNext id s.verdicts := rfl
@[simp] theorem claiming_report (s : State) (id : Ident) : (s.claiming id).report = s.report := rfl
@[simp] theorem claiming_outputs (s : State) (id : Ident) : (s.claiming id).outputs = s.outputs := rfl
@[simp] theorem claiming_qaCfg (s : State) (id : Ident) : (s.claiming id).qaCfg = s.qaCfg := rfl
@[simp] theorem claiming_qbCfg (s : State) (id : Ident) : (s.claiming id).qbCfg = s.qbCfg := rfl
@[simp] theorem claiming_port (s : State) (id : Ident) : (s.claiming id).port = s.port := rfl
@[simp] theorem claiming_notices (s : State) (id : Ident) : (s.claiming id).notices = s.notices := rfl
@[simp] theorem claiming_free (s : State) (id : Ident) : (s.claiming id).free = s.free := rfl
@[simp] theorem claiming_serial (s : State) (id : Ident) : (s.claiming id).serial = s.serial := rfl
@[simp] theorem claiming_pending (s : State) (id : Ident) : (s.claiming id).pending = s.pending := rfl

end Sys2Proof.Machine
end

