-- ==== Sys2Proof/Laws/Table.lean ====
section
/-! SUPPORT. What the operations on the Transition Table do: which entry is found under which identifier, and what they keep of its order and bounds. -/

namespace Sys2Proof.Machine

set_option Elab.async false

/-! ### Lookup -/

/-- The entry of a list held under an identifier. -/
def lookup (es : List Entry) (id : Ident) : Option Entry := es.find? fun e => decide (e.id = id)

theorem find_eq_lookup (s : State) (id : Ident) : s.find id = lookup s.table.entries id := rfl

theorem find_of_entries {s t : State} (h : t.table.entries = s.table.entries) (id : Ident) : t.find id = s.find id := by
  simp only [State.find, h]

theorem find_of_table {s t : State} (h : t.table = s.table) (id : Ident) : t.find id = s.find id := by
  simp only [State.find, h]

theorem lookup_id {es : List Entry} {id : Ident} {e : Entry} (h : lookup es id = some e) : e.id = id := by
  simpa using List.find?_some h

theorem find_id {s : State} {id : Ident} {e : Entry} (h : s.find id = some e) : e.id = id := lookup_id h

theorem mem_of_find {s : State} {id : Ident} {e : Entry} (h : s.find id = some e) : e ∈ s.table.entries :=
  List.mem_of_find?_eq_some h

theorem lookup_none_iff {es : List Entry} {id : Ident} : lookup es id = none ↔ ∀ e ∈ es, e.id ≠ id := by
  simp [lookup, List.find?_eq_none]

theorem holds_eq_false_iff {s : State} {id : Ident} : s.holds id = false ↔ s.find id = none := by
  simp [State.holds]

theorem find_of_mem {s : State} {e : Entry} (hn : (s.table.entries.map fun x => x.id).Nodup)
    (h : e ∈ s.table.entries) : s.find e.id = some e := by
  simp only [State.find]
  generalize s.table.entries = es at *
  induction es with
  | nil => simp at h
  | cons x es ih =>
    simp only [List.map_cons, List.nodup_cons, List.mem_map, not_exists, not_and] at hn
    rcases List.mem_cons.1 h with rfl | h
    · simp
    · have : x.id ≠ e.id := fun k => hn.1 e h k.symm
      simp [this, ih hn.2 h]

theorem lookup_cons (x : Entry) (es : List Entry) (id : Ident) :
    lookup (x :: es) id = if x.id = id then some x else lookup es id := by
  by_cases h : x.id = id <;> simp [lookup, h]

/-! ### Insertion in table order -/

theorem insertEntry_perm (e : Entry) (es : List Entry) : (insertEntry e es).Perm (e :: es) := by
  induction es with
  | nil => exact .refl _
  | cons x es ih =>
    unfold insertEntry
    split
    · exact .refl _
    · exact (ih.cons x).trans (.swap e x es)

theorem mem_insertEntry {e x : Entry} {es : List Entry} : x ∈ insertEntry e es ↔ x = e ∨ x ∈ es := by
  rw [(insertEntry_perm e es).mem_iff]; simp

theorem length_insertEntry (e : Entry) (es : List Entry) : (insertEntry e es).length = es.length + 1 :=
  (insertEntry_perm e es).length_eq

theorem lookup_insertEntry (e : Entry) (es : List Entry) (id : Ident) (h : lookup es e.id = none) :
    lookup (insertEntry e es) id = if e.id = id then some e else lookup es id := by
  induction es with
  | nil => simp [insertEntry, lookup_cons]
  | cons x es ih =>
    have hx : x.id ≠ e.id := (lookup_none_iff.1 h) x (by simp)
    have hes : lookup es e.id = none := lookup_none_iff.2 fun y hy => (lookup_none_iff.1 h) y (by simp [hy])
    unfold insertEntry
    split
    · rw [lookup_cons]
    · rw [lookup_cons, lookup_cons, ih hes]
      by_cases k : x.id = id
      · subst k; simp [Ne.symm hx]
      · simp [k]

theorem find_insert {s t : State} {e : Entry} (ht : t.table.entries = insertEntry e s.table.entries)
    (h : s.find e.id = none) (id : Ident) : t.find id = if e.id = id then some e else s.find id := by
  rw [find_eq_lookup, ht, lookup_insertEntry _ _ _ h]; rfl

/-! ### Updates and removals -/

theorem lookup_updateEntry (id : Ident) (f : Entry → Entry) (hf : ∀ e, (f e).id = e.id) (es : List Entry) (x : Ident) :
    lookup (updateEntry id f es) x = if x = id then (lookup es x).map f else lookup es x := by
  induction es with
  | nil => simp [updateEntry, lookup]
  | cons y es ih =>
    have hy : updateEntry id f (y :: es) = (if y.id = id then f y else y) :: updateEntry id f es := rfl
    rw [hy, lookup_cons, lookup_cons, ih]
    by_cases h : y.id = id
    · simp only [h, if_true, hf]
      by_cases k : id = x
      · subst k; simp
      · simp [k, Ne.symm k]
    · simp only [h, if_false]
      by_cases k : y.id = x
      · subst k; simp [h]
      · simp [k]

theorem find_modify (s : State) (id : Ident) (f : Entry → Entry) (hf : ∀ e, (f e).id = e.id) (x : Ident) :
    (s.modify id f).find x = if x = id then (s.find x).map f else s.find x :=
  lookup_updateEntry id f hf _ x

theorem find_setMark (s : State) (id : Ident) (m : Mark) (x : Ident) :
    (s.setMark id m).find x = if x = id then (s.find x).map (fun e => { e with mark := m }) else s.find x :=
  lookup_updateEntry id (fun e => { e with mark := m }) (fun _ => rfl) s.table.entries x

theorem lookup_eraseEntry (id : Ident) (es : List Entry) (x : Ident) :
    lookup (eraseEntry id es) x = if x = id then none else lookup es x := by
  induction es with
  | nil => simp [eraseEntry, lookup]
  | cons y es ih =>
    by_cases h : y.id = id
    · have : eraseEntry id (y :: es) = eraseEntry id es := by simp [eraseEntry, h]
      rw [this, ih, lookup_cons]
      by_cases k : x = id
      · simp [k]
      · simp [k, h, Ne.symm k]
    · have : eraseEntry id (y :: es) = y :: eraseEntry id es := by simp [eraseEntry, h]
      rw [this, lookup_cons, ih, lookup_cons]
      by_cases k : y.id = x
      · subst k; simp [h]
      · simp [k]

theorem find_freeEntry (id : Ident) (n : Notice) (s : State) (x : Ident) :
    (freeEntry id n s).find x = if x = id then none else s.find x := lookup_eraseEntry id _ x

theorem find_freeExecuted (id : Ident) (set : StationSet) (s : State) (x : Ident) :
    (freeExecuted id set s).find x = if x = id then none else s.find x := lookup_eraseEntry id _ x

theorem lookup_moveMark (id : Ident) (a b : Mark) (es : List Entry) (x : Ident) :
    lookup (es.map fun e => if e.id = id ∧ e.mark = a then { e with mark := b } else e) x =
      (lookup es x).map fun e => if e.id = id ∧ e.mark = a then { e with mark := b } else e := by
  induction es with
  | nil => rfl
  | cons y es ih =>
    rw [List.map_cons, lookup_cons, lookup_cons, ih]
    have : (if y.id = id ∧ y.mark = a then { y with mark := b } else y).id = y.id := by split <;> rfl
    rw [this]
    by_cases k : y.id = x <;> simp [k]

theorem find_moveMark (s : State) (id : Ident) (a b : Mark) (x : Ident) :
    (s.moveMark id a b).find x =
      (s.find x).map fun e => if e.id = id ∧ e.mark = a then { e with mark := b } else e :=
  lookup_moveMark id a b _ x

/-! ### Storing -/

theorem find_storeEntry (r : Record) (st : EntryState) (set : StationSet) (flags : List CfgRule) (w : Option Nat)
    (m : Mark) (o : StoreOrigin) (s : State) (h : s.find r.id = none) (x : Ident) :
    (storeEntry r st set flags w m o s).find x =
      if x = r.id then
        some { r with state := st, endorsers := set, flags := flags, window := w, stamp := s.table.nextStamp, mark := m }
      else s.find x := by
  have := find_insert (s := s) (t := storeEntry r st set flags w m o s)
    (e := { r with state := st, endorsers := set, flags := flags, window := w, stamp := s.table.nextStamp, mark := m })
    rfl h x
  rw [this]
  by_cases k : x = r.id
  · subst k; simp
  · simp [k, Ne.symm k]

/-- FLAGGED leaves the table. -/
@[simp] theorem raiseFlagged_table (id : Ident) (flags : List CfgRule) (s : State) :
    (raiseFlagged id flags s).table = s.table := by unfold raiseFlagged; split <;> rfl

/-- A stored local proposal is found PROPOSED under its identifier, with its window, and the other entries stand. -/
theorem find_storeOwn {r : Record} (flags : List CfgRule) {s : State} (h : s.find r.id = none) (x : Ident) :
    (storeOwn r flags s).find x =
      if x = r.id then
        some { r with state := .proposed, endorsers := addStation noStations s.pins.stn, flags := flags,
                      window := some (s.clock.label + s.plan.e), stamp := s.table.nextStamp, mark := .none }
      else s.find x := by
  unfold storeOwn
  rw [find_of_table (raiseFlagged_table _ _ _)]
  exact find_storeEntry r .proposed (addStation noStations s.pins.stn) flags _ .none .ownPort s h x

/-- STORED is raised, and FLAGGED after it where there are flags. -/
theorem storeOwn_notices (r : Record) (flags : List CfgRule) (s : State) :
    (storeOwn r flags s).notices =
      let stored := addNotice (.stored r.id r.kind .ownPort .proposed) s.clock.label s.notices.pending
      { s.notices with
        pending := if flags = [] then stored else addNotice (.flagged r.id flags) s.clock.label stored } := by
  unfold storeOwn raiseFlagged; by_cases h : flags = []
  · simp only [if_pos h]; rfl
  · simp only [if_neg h]; rfl

/-- The next sequence rises by one. -/
theorem storeOwn_nextSeq (r : Record) (flags : List CfgRule) (s : State) :
    (storeOwn r flags s).table.nextSeq = s.table.nextSeq + 1 := by
  simp [storeOwn]

/-- On a shelf of one station a stored local proposal whose ratification is a later claim is held as R85 says. -/
theorem announce_alone {code : Byte} {r : Record} {flags : List CfgRule} {s : State} (hn : s.plan.n ≤ 1)
    (h : s.find r.id = none) :
    storedAlone code r flags s (announce false code r flags (storeOwn r flags s)) ∧
      (announce false code r flags (storeOwn r flags s)).table.nextSeq = s.table.nextSeq + 1 ∧
      ChangesOnly [.table, .verdicts, .port, .notices] s (announce false code r flags (storeOwn r flags s)) := by
  have hf := storeOwn_frame r flags s
  have hp : (storeOwn r flags s).plan.n ≤ 1 := (hf .plan (by decide)).symm ▸ hn
  rw [show announce false code r flags (storeOwn r flags s) =
    answerOk code (.proposal r.id flags) ((storeOwn r flags s).claiming r.id) from if_pos hp]
  refine ⟨⟨?_, ?_, storeOwn_notices r flags s, rfl, ?_⟩, storeOwn_nextSeq r flags s, ?_⟩
  · exact (find_storeOwn flags h r.id).trans (by simp [addStation, noStations])
  · exact fun y hy => (find_storeOwn flags h y).trans (if_neg hy)
  · exact congrArg _ (hf .verdicts (by decide))
  · exact hf.then ((claiming_frame r.id _).then (rs := [.verdicts, .port]) (respond_frame _ _ _ _ _))

/-- On a shelf of one station the ratification of an own entry is the claim on the table alone, for a scheduled entry in
any station state (R85, R90). -/
theorem ratifyOwn_alone {id : Ident} {e : Entry} {s : State} (hn : s.plan.n ≤ 1) (he : s.find id = some e)
    (h : e.kind.scheduled = true ∨ s.station.state = .active) : ratifyOwn id s = ratifyClaim e e.endorsers s := by
  unfold ratifyOwn
  rw [he]
  dsimp only
  rw [if_pos hn, if_pos hn]
  rcases h with h | h
  · rw [if_pos h]
  · rw [if_pos h]; exact ite_self _

/-- Screening accepts no identifier that is held and no record for which there is no room (R44, R51, R52). -/
theorem storeRefusal_of_accept {s : State} {r : Record} {flags : List CfgRule} (h : screen s r = .accept flags) :
    s.find r.id = none ∧ s.hasRoom r.kind = true ∧ s.storeRefusal r = none := by
  unfold screen at h
  split at h
  · simp at h
  · rename_i hf
    unfold fixedRules at hf
    split at hf; · simp at hf
    split at hf; · simp at hf
    split at hf; · simp at hf
    split at hf; · simp at hf
    split at hf; · simp at hf
    split at hf; · simp at hf
    split at hf; · simp at hf
    split at hf; · simp at hf
    rename_i h1 h2
    have h1' : s.holds r.id = false := by simpa using h1
    have h2' : s.hasRoom r.kind = true := by simpa using h2
    refine ⟨holds_eq_false_iff.1 h1', h2', ?_⟩
    simp [State.storeRefusal, h1', h2']

/-! ### Order and bounds -/

theorem turnOrdered_of_before {a b : Entry} (h : a.before b = true) : turnOrdered a b = true := by
  unfold Entry.before at h; unfold turnOrdered
  cases ha : a.turn <;> cases hb : b.turn <;> simp_all
  omega

theorem turnOrdered_of_not_before {a b : Entry} (h : ¬ a.before b = true) : turnOrdered b a = true := by
  unfold Entry.before at h; unfold turnOrdered
  cases ha : a.turn <;> cases hb : b.turn <;> simp_all

theorem turnOrdered_trans {a b c : Entry} (h : turnOrdered a b = true) (k : turnOrdered b c = true) :
    turnOrdered a c = true := by
  unfold turnOrdered at *
  cases ha : a.turn <;> cases hb : b.turn <;> cases hc : c.turn <;> simp_all
  all_goals omega

/-- Insertion in table order keeps the order (R37). -/
theorem insertEntry_ordered (e : Entry) (es : List Entry)
    (h : es.Pairwise fun a b => turnOrdered a b = true) :
    (insertEntry e es).Pairwise fun a b => turnOrdered a b = true := by
  induction es with
  | nil => simp [insertEntry]
  | cons x es ih =>
    rw [List.pairwise_cons] at h
    unfold insertEntry
    split
    · rename_i hb
      refine List.pairwise_cons.2 ⟨fun y hy => ?_, List.pairwise_cons.2 h⟩
      rcases List.mem_cons.1 hy with rfl | hy
      · exact turnOrdered_of_before hb
      · exact turnOrdered_trans (turnOrdered_of_before hb) (h.1 y hy)
    · rename_i hb
      refine List.pairwise_cons.2 ⟨fun y hy => ?_, ih h.2⟩
      rcases mem_insertEntry.1 hy with rfl | hy
      · exact turnOrdered_of_not_before hb
      · exact h.1 y hy

end Sys2Proof.Machine
end

