-- ==== Sys2Proof/Laws/Queue.lean ====
section
/-! SUPPORT. What the operations on the transmit queue and the pending notices keep: membership, bounds and order. -/

namespace Sys2Proof.Machine

set_option Elab.async false

/-! ### The transmit queue (R76) -/

theorem insertFrame_perm (f : Frame) (q : List Frame) : (insertFrame f q).Perm (f :: q) := by
  induction q with
  | nil => exact .refl _
  | cons g q ih =>
    unfold insertFrame
    split
    · exact (ih.cons g).trans (.swap f g q)
    · exact .refl _

theorem mem_insertFrame {f g : Frame} {q : List Frame} : g ∈ insertFrame f q ↔ g = f ∨ g ∈ q := by
  rw [(insertFrame_perm f q).mem_iff]; simp

theorem insertFrame_ordered (f : Frame) (q : List Frame) (h : q.Pairwise fun a b => b.cls ≤ a.cls) :
    (insertFrame f q).Pairwise fun a b => b.cls ≤ a.cls := by
  induction q with
  | nil => simp [insertFrame]
  | cons g q ih =>
    rw [List.pairwise_cons] at h
    unfold insertFrame
    split
    · rename_i hb
      refine List.pairwise_cons.2 ⟨fun y hy => ?_, ih h.2⟩
      rcases mem_insertFrame.1 hy with rfl | hy
      · exact hb
      · exact h.1 y hy
    · rename_i hb
      refine List.pairwise_cons.2 ⟨fun y hy => ?_, List.pairwise_cons.2 h⟩
      rcases List.mem_cons.1 hy with rfl | hy
      · omega
      · have := h.1 y hy; omega

/-- A queue within its limits and in its order (R76). -/
def queueOk (q : List Frame) : Prop := q.length ≤ 12 ∧ lowCount q ≤ 10 ∧ q.Pairwise fun f g => g.cls ≤ f.cls

theorem insertFrame_ok {f : Frame} {q : List Frame} (h : queueOk q) (room : roomFor q f.cls = true) :
    queueOk (insertFrame f q) := by
  simp only [roomFor, Bool.and_eq_true, Bool.or_eq_true, decide_eq_true_eq] at room
  refine ⟨?_, ?_, insertFrame_ordered f q h.2.2⟩
  · rw [(insertFrame_perm f q).length_eq]; simp; omega
  · have hq := h.2.1
    have hr := room.2
    unfold lowCount at *
    rw [(insertFrame_perm f q).countP_eq, List.countP_cons]
    split
    · rename_i hl; simp at hl; omega
    · omega

/-- A sublist of a queue within its limits is within them. -/
theorem queueOk.sublist {q r : List Frame} (h : queueOk q) (hs : r.Sublist q) : queueOk r :=
  ⟨hs.length_le.trans h.1, (hs.countP_le).trans h.2.1, h.2.2.sublist hs⟩

/-- A change of frames that keeps their classes keeps the limits. -/
theorem queueOk.map {q : List Frame} (h : queueOk q) (g : Frame → Frame) (hg : ∀ f, (g f).cls = f.cls) :
    queueOk (q.map g) := by
  refine ⟨by simpa using h.1, ?_, ?_⟩
  · unfold lowCount at *
    rw [List.countP_map]
    have : ((fun f : Frame => decide (f.cls < 5)) ∘ g) = fun f => decide (f.cls < 5) := by
      funext f; simp [hg]
    rw [this]; exact h.2.1
  · rw [List.pairwise_map]; simpa [hg] using h.2.2

/-- What an offer does: the frame is queued, or dropped with TXQ_FULL, or dropped (R76). -/
theorem offer_cases (f : Frame) (s : State) :
    (s.wouldQueue f = true ∧ offer f s = s.setQueue (insertFrame f s.line.queue)) ∨
    (s.wouldQueue f = false ∧ offer f s = raise (.txqFull f.kind f.cls f.ident) s) ∨
    (s.wouldQueue f = false ∧ offer f s = s) := by
  unfold offer
  cases h : s.wouldQueue f
  · cases k : kindPermitted s.station.state f.kind <;> simp
  · simp

theorem offer_table (f : Frame) (s : State) : (offer f s).table = s.table := offer_frame f s .table (by decide)

theorem find_offer (f : Frame) (s : State) (id : Ident) : (offer f s).find id = s.find id :=
  find_of_table (offer_table f s) id

/-! ### Pending notices (R191) -/

theorem exists_kind_addNotice (n : Notice) (l : Nat) (ps : List PendingNotice) :
    ∃ p ∈ addNotice n l ps, p.notice.kind = n.kind := by
  induction ps with
  | nil => exact ⟨_, List.mem_singleton.2 rfl, rfl⟩
  | cons p ps ih =>
    unfold addNotice
    split
    · rename_i h; exact ⟨_, List.mem_cons_self, h⟩
    · rcases ih with ⟨x, hx, hk⟩; exact ⟨x, List.mem_cons_of_mem _ hx, hk⟩

theorem kind_stays (n : Notice) (l : Nat) (ps : List PendingNotice) (k : NoticeKind)
    (h : ∃ p ∈ ps, p.notice.kind = k) : ∃ p ∈ addNotice n l ps, p.notice.kind = k := by
  induction ps with
  | nil => simp at h
  | cons p ps ih =>
    rcases h with ⟨x, hx, hk⟩
    unfold addNotice
    split
    · rcases List.mem_cons.1 hx with rfl | hx
      · exact ⟨_, List.mem_cons_self, hk⟩
      · exact ⟨x, List.mem_cons_of_mem _ hx, hk⟩
    · rcases List.mem_cons.1 hx with rfl | hx
      · exact ⟨_, List.mem_cons_self, hk⟩
      · rcases ih ⟨x, hx, hk⟩ with ⟨y, hy, hyk⟩; exact ⟨y, List.mem_cons_of_mem _ hy, hyk⟩

/-- A pending set that holds each kind at most once, with counts from 1 to 255. -/
def noticesOk (ps : List PendingNotice) : Prop :=
  (ps.map fun p => p.notice.kind).Nodup ∧ ∀ p ∈ ps, 1 ≤ p.count ∧ p.count ≤ 255

theorem mem_kinds_addNotice (n : Notice) (l : Nat) (ps : List PendingNotice) (k : NoticeKind) :
    k ∈ (addNotice n l ps).map (fun p => p.notice.kind) ↔ k = n.kind ∨ k ∈ ps.map fun p => p.notice.kind := by
  induction ps with
  | nil => simp [addNotice]
  | cons p ps ih =>
    unfold addNotice
    split
    · rename_i h; simp [h]
    · rw [List.map_cons, List.mem_cons, ih, List.map_cons, List.mem_cons]; tauto

theorem addNotice_ok {n : Notice} {l : Nat} {ps : List PendingNotice} (h : noticesOk ps) :
    noticesOk (addNotice n l ps) := by
  induction ps with
  | nil => refine ⟨by simp [addNotice], ?_⟩; simp [addNotice]
  | cons p ps ih =>
    have hn := h.1
    rw [List.map_cons, List.nodup_cons] at hn
    have hp : 1 ≤ p.count ∧ p.count ≤ 255 := h.2 p (by simp)
    have hps : noticesOk ps := ⟨hn.2, fun x hx => h.2 x (List.mem_cons_of_mem _ hx)⟩
    unfold addNotice
    split
    · refine ⟨by simpa using hn, fun x hx => ?_⟩
      rcases List.mem_cons.1 hx with rfl | hx
      · simp only; omega
      · exact hps.2 x hx
    · rename_i hk
      refine ⟨?_, fun x hx => ?_⟩
      · rw [List.map_cons, List.nodup_cons]
        refine ⟨fun hm => ?_, (ih hps).1⟩
        rcases (mem_kinds_addNotice _ _ _ _).1 hm with h' | h'
        · exact hk h'
        · exact hn.1 h'
      · rcases List.mem_cons.1 hx with rfl | hx
        · exact hp
        · exact (ih hps).2 x hx

end Sys2Proof.Machine
end

