-- ==== Sys2Proof/Laws/Outputs.lean ====
section
/-! SUPPORT. What the quench operations do to each output (R165 to R167), and what the checks of START decide (R187). -/

namespace Sys2Proof.Machine

set_option Elab.async false

/-! ### Quenching -/

theorem get_of_eq {v w : Vector Output 8} (h : v = w) (m : Fin 8) : v[m] = w[m] := h ▸ rfl

theorem setOutput_get (s : State) (n m : Fin 8) (o : Output) :
    (s.setOutput n o).outputs[m] = if n = m then o else s.outputs[m] := by
  simp only [setOutput_outputs, Fin.getElem_fin, Vector.getElem_set, Fin.ext_iff]

theorem quenchOutput_outputs (cause : QuenchDetail) (s : State) (n : Fin 8) :
    (quenchOutput cause s n).outputs =
      if s.outputs[n].running then s.outputs.set n (s.outputs[n].quenched cause) else s.outputs := by
  unfold quenchOutput
  simp only
  by_cases h : s.outputs[n].running = true
  · rw [if_pos h, if_pos h]; split <;> rfl
  · rw [if_neg h, if_neg h]

theorem quenchOutput_get (cause : QuenchDetail) (s : State) (n m : Fin 8) :
    (quenchOutput cause s n).outputs[m] =
      if n = m ∧ s.outputs[m].running = true then s.outputs[m].quenched cause else s.outputs[m] := by
  have h := setOutput_get s n m (s.outputs[n].quenched cause)
  refine (get_of_eq (quenchOutput_outputs cause s n) m).trans ?_
  by_cases hr : s.outputs[n].running = true
  · refine (get_of_eq (if_pos hr) m).trans (h.trans ?_)
    by_cases hnm : n = m
    · subst hnm; simp only [hr, and_self]
    · simp only [hnm, false_and, if_false]
  · refine (get_of_eq (if_neg hr) m).trans ?_
    by_cases hnm : n = m
    · subst hnm; simp only [hr, and_false, Bool.false_eq_true, if_false]
    · simp only [hnm, false_and, if_false]

/-- One place of a fold that quenches the outputs a test picks. -/
def quenchAt (p : Fin 8 → Output → Bool) (cause : QuenchDetail) (t : State) (n : Fin 8) : State :=
  if p n t.outputs[n] then quenchOutput cause t n else t

theorem quenchAt_get (p : Fin 8 → Output → Bool) (cause : QuenchDetail) (s : State) (n m : Fin 8) :
    (quenchAt p cause s n).outputs[m] =
      if n = m ∧ p m s.outputs[m] = true ∧ s.outputs[m].running = true then s.outputs[m].quenched cause
      else s.outputs[m] := by
  have e : (quenchAt p cause s n).outputs =
      if p n s.outputs[n] = true then (quenchOutput cause s n).outputs else s.outputs := by
    unfold quenchAt; split <;> rfl
  refine (get_of_eq e m).trans ?_
  by_cases hp : p n s.outputs[n] = true
  · refine (get_of_eq (if_pos hp) m).trans ?_
    rw [quenchOutput_get]
    by_cases hnm : n = m
    · subst hnm; simp only [hp, true_and]
    · simp only [hnm, false_and]
  · refine (get_of_eq (if_neg hp) m).trans ?_
    by_cases hnm : n = m
    · subst hnm; simp only [hp, false_and, and_false, Bool.false_eq_true, if_false]
    · simp only [hnm, false_and, if_false]

theorem quenchFold_get (p : Fin 8 → Output → Bool) (cause : QuenchDetail) (l : List (Fin 8)) (hl : l.Nodup)
    (s : State) (m : Fin 8) :
    (l.foldl (quenchAt p cause) s).outputs[m] =
      if m ∈ l ∧ p m s.outputs[m] = true ∧ s.outputs[m].running = true then s.outputs[m].quenched cause
      else s.outputs[m] := by
  induction l generalizing s with
  | nil => simp
  | cons x l ih =>
    rw [List.foldl_cons, ih (List.nodup_cons.1 hl).2, quenchAt_get]
    have hx := (List.nodup_cons.1 hl).1
    by_cases hxm : x = m
    · subst hxm; simp [hx]
    · simp [hxm, Ne.symm hxm]

/-- What quenching the outputs that a test picks does to one output. -/
theorem quenchWhere_get (p : Fin 8 → Output → Bool) (cause : QuenchDetail) (s : State) (m : Fin 8) :
    (quenchWhere p cause s).outputs[m] =
      if p m s.outputs[m] = true ∧ s.outputs[m].running = true then s.outputs[m].quenched cause else s.outputs[m] := by
  have := quenchFold_get p cause (List.finRange 8) (List.nodup_finRange 8) s m
  simp only [List.mem_finRange, true_and] at this
  exact this

theorem quenchGroup_get (g : Group) (s : State) (m : Fin 8) :
    (quenchGroup g s).outputs[m] =
      if groupOf m = g ∧ s.outputs[m].running = true then s.outputs[m].quenched .group else s.outputs[m] := by
  unfold quenchGroup; rw [quenchWhere_get]; simp

theorem quenchAtStart_get (g : Group) (s : State) (m : Fin 8) :
    (quenchAtStart g s).outputs[m] =
      if s.quenchAsserted g = true ∧ groupOf m = g ∧ s.outputs[m].running = true then s.outputs[m].quenched .group
      else s.outputs[m] := by
  have e : (quenchAtStart g s).outputs = if s.quenchAsserted g = true then (quenchGroup g s).outputs else s.outputs := by
    unfold quenchAtStart; split <;> rfl
  refine (get_of_eq e m).trans ?_
  by_cases h : s.quenchAsserted g = true
  · refine (get_of_eq (if_pos h) m).trans ?_
    rw [quenchGroup_get]; simp only [h, true_and]
  · refine (get_of_eq (if_neg h) m).trans ?_
    simp only [h, false_and, Bool.false_eq_true, if_false]

/-! ### START -/

/-- START is refused by no check exactly where no check fails (R187). -/
theorem startFault_none (s : State) : startFault s = none ↔ ∀ c i, ¬ startCheckFails s c i := by
  unfold startFault startChecks
  have key : ∀ l : List Nat, (¬ (!l.isEmpty) = true) ↔ l = [] := by intro l; cases l <;> simp
  rw [List.find?_eq_none]
  simp only [List.mem_cons, List.not_mem_nil, or_false, forall_eq_or_imp, forall_eq, key]
  constructor
  · rintro ⟨h1, h2, h3, h4, h5⟩ c i h
    rcases h with ⟨rfl, rfl, h⟩ | ⟨rfl, a, b, h, h'⟩ | ⟨rfl, a, b, k, h, h'⟩ | ⟨rfl, n, rfl, b, h, h', h''⟩ |
      ⟨rfl, n, rfl, b, w, h, h', h''⟩
    · split at h1 <;> first | omega | simp at h1
    · rw [List.filter_eq_nil_iff] at h2
      apply h2 i (by simp [scaleNumbers]; omega)
      simp [parentBad, h, h']
    · rw [List.filter_eq_nil_iff] at h3
      apply h3 i (by simp [scaleNumbers]; omega)
      simp [custodianBad, h, h']
    · rw [List.map_eq_nil_iff, List.filter_eq_nil_iff] at h4
      apply h4 n (by simp)
      simp only [bindingBad, h]; simp [h', h'']
    · rw [List.map_eq_nil_iff, List.filter_eq_nil_iff] at h5
      apply h5 n (by simp)
      simp only [windowBad, h]; simp [h']; omega
  · intro h
    refine ⟨?_, ?_, ?_, ?_, ?_⟩
    · split
      · rfl
      · exact absurd (Or.inl ⟨rfl, rfl, by omega⟩) (h 1 s.pins.stn)
    · rw [List.filter_eq_nil_iff]; intro i hi hb
      have hi' : 1 ≤ i ∧ i ≤ 5 := by simp [scaleNumbers] at hi; omega
      simp [parentBad] at hb
      exact h 2 i (Or.inr (Or.inl ⟨rfl, hi'.1, hi'.2, hb.1, hb.2⟩))
    · rw [List.filter_eq_nil_iff]; intro i hi hb
      have hi' : 1 ≤ i ∧ i ≤ 5 := by simp [scaleNumbers] at hi; omega
      simp only [custodianBad, Option.any_eq_true, decide_eq_true_eq] at hb
      exact h 3 i (Or.inr (Or.inr (Or.inl ⟨rfl, hi'.1, hi'.2, hb⟩)))
    · rw [List.map_eq_nil_iff, List.filter_eq_nil_iff]; intro n _ hb
      simp only [bindingBad, Option.any_eq_true, Bool.and_eq_true, bne_iff_ne, beq_iff_eq] at hb
      exact h 4 n.val (Or.inr (Or.inr (Or.inr (Or.inl ⟨rfl, n, rfl, hb⟩))))
    · rw [List.map_eq_nil_iff, List.filter_eq_nil_iff]; intro n _ hb
      simp only [windowBad, Option.any_eq_true] at hb
      rcases hb with ⟨b, hb, hw⟩
      split at hw
      · rename_i w hw'
        exact h 5 n.val (Or.inr (Or.inr (Or.inr (Or.inr ⟨rfl, n, rfl, b, w, hb, hw', by simpa using hw⟩))))
      · simp at hw

/-- The items that a check of START lists are those that make it fail (R187). -/
theorem mem_startChecks {s : State} {c : Nat} {l : List Nat} (h : (c, l) ∈ startChecks s) (i : Nat) :
    i ∈ l ↔ startCheckFails s c i := by
  simp only [startChecks, List.mem_cons, Prod.mk.injEq, List.not_mem_nil, or_false] at h
  unfold startCheckFails
  rcases h with ⟨rfl, rfl⟩ | ⟨rfl, rfl⟩ | ⟨rfl, rfl⟩ | ⟨rfl, rfl⟩ | ⟨rfl, rfl⟩
  · simp; omega
  · simp [scaleNumbers, parentBad]; constructor
    · rintro ⟨h, h', h''⟩; exact ⟨by omega, by omega, h', h''⟩
    · rintro ⟨h, h', h'', h3⟩; exact ⟨by omega, h'', h3⟩
  · simp [scaleNumbers, custodianBad]; constructor
    · rintro ⟨h, h'⟩
      rw [Option.any_eq_true] at h'
      exact ⟨by omega, by omega, by simpa using h'⟩
    · rintro ⟨h, h', h''⟩
      exact ⟨by omega, by rw [Option.any_eq_true]; simpa using h''⟩
  · simp [bindingBad, Option.any_eq_true]; constructor
    · rintro ⟨n, ⟨b, h, h', h''⟩, rfl⟩; exact ⟨n, rfl, b, h, h', h''⟩
    · rintro ⟨n, rfl, b, h, h', h''⟩; exact ⟨n, ⟨b, h, h', h''⟩, rfl⟩
  · simp [windowBad, Option.any_eq_true]; constructor
    · rintro ⟨n, ⟨b, h, h'⟩, rfl⟩
      refine ⟨n, rfl, b, h, ?_⟩
      split at h'
      · rename_i w hw; exact ⟨w, hw, by simpa using h'⟩
      · simp at h'
    · rintro ⟨n, rfl, b, h, w, h', h''⟩; refine ⟨n, ⟨b, h, ?_⟩, rfl⟩; rw [h']; simp; omega

/-- The check that refuses START is the first that fails (R187). -/
theorem startFault_first {s : State} {c : Nat} {l : List Nat} (h : startFault s = some (c, l)) :
    (∃ i, startCheckFails s c i) ∧ ∀ c' < c, ∀ i, ¬ startCheckFails s c' i := by
  have hm : (c, l) ∈ startChecks s := List.mem_of_find?_eq_some h
  have hl : l ≠ [] := by have := List.find?_some h; intro k; subst k; simp at this
  obtain ⟨i, hi⟩ := List.exists_mem_of_ne_nil l hl
  refine ⟨⟨i, (mem_startChecks hm i).1 hi⟩, ?_⟩
  intro c' hc j hj
  unfold startFault at h
  rw [List.find?_eq_some_iff_append] at h
  obtain ⟨_, as, bs, hab, has⟩ := h
  have hcs : ∃ l', (c', l') ∈ startChecks s := by
    have : c' = 1 ∨ c' = 2 ∨ c' = 3 ∨ c' = 4 ∨ c' = 5 := by
      unfold startCheckFails at hj; rcases hj with h | h | h | h | h <;> simp [h.1]
    rcases this with rfl | rfl | rfl | rfl | rfl
    · exact ⟨_, List.Mem.head _⟩
    · exact ⟨_, List.Mem.tail _ (List.Mem.head _)⟩
    · exact ⟨_, List.Mem.tail _ (List.Mem.tail _ (List.Mem.head _))⟩
    · exact ⟨_, List.Mem.tail _ (List.Mem.tail _ (List.Mem.tail _ (List.Mem.head _)))⟩
    · exact ⟨_, List.Mem.tail _ (List.Mem.tail _ (List.Mem.tail _ (List.Mem.tail _ (List.Mem.head _))))⟩
  obtain ⟨l', hl'⟩ := hcs
  have hj' := (mem_startChecks hl' j).2 hj
  have sorted : (startChecks s).Pairwise fun a b => a.1 < b.1 := by simp [startChecks]
  rw [hab] at hl' sorted
  rcases List.mem_append.1 hl' with k | k
  · have := has _ k
    simp only [Bool.not_eq_eq_eq_not, Bool.not_true, Bool.not_false] at this
    cases l' <;> simp_all
  · rcases List.mem_cons.1 k with k | k
    · have : c' = c := (Prod.mk.inj k).1
      omega
    · have := (List.pairwise_cons.1 (List.pairwise_append.1 sorted).2.1).1 _ k
      simp only at this; omega

/-! ### Sequences (R26) -/

/-- The sequence that step 3 of R26 finds. -/
theorem freeSequence_spec (s : State) (k : Nat) (q : Word) :
    ∃ j, j ≤ k ∧ freeSequence s k q = q + BitVec.ofNat 16 j ∧
      (∀ i < j, s.holds ⟨s.pins.stn, q + BitVec.ofNat 16 i⟩ = true) ∧
      (j < k → s.holds ⟨s.pins.stn, q + BitVec.ofNat 16 j⟩ = false) := by
  induction k generalizing q with
  | zero => exact ⟨0, le_refl _, by simp [freeSequence], by simp, by simp⟩
  | succ k ih =>
    unfold freeSequence
    by_cases h : s.holds ⟨s.pins.stn, q⟩ = true
    · rw [if_pos h]
      rcases ih (q + 1) with ⟨j, hj, he, hl, hf⟩
      have step : ∀ i, q + 1 + BitVec.ofNat 16 i = q + BitVec.ofNat 16 (i + 1) := by
        intro i; rw [BitVec.add_assoc]; congr 1; apply BitVec.eq_of_toNat_eq; simp [BitVec.toNat_add]; omega
      refine ⟨j + 1, by omega, by rw [he, step], ?_, ?_⟩
      · intro i hi
        cases i with
        | zero => simpa using h
        | succ i => rw [← step]; exact hl i (by omega)
      · intro hj'; rw [← step]; exact hf (by omega)
    · rw [if_neg h]
      exact ⟨0, by omega, by simp, by simp, by intro _; simpa using h⟩

end Sys2Proof.Machine
end

