-- ==== Sys2Proof/Laws/Lifecycle.lean ====
section
/-! SUPPORT. What a change of station state leaves: the station's items, the line, the recital contexts and the table's records (R78, R123, R131, R139). -/

namespace Sys2Proof.Machine

set_option Elab.async false

/-! ### Reports of purged frames -/

theorem sameButMarks.of_table {s t : State} (h : t.table = s.table) : sameButMarks s t := by
  unfold sameButMarks; rw [h]; exact ⟨rfl, rfl, rfl, rfl⟩

theorem sameButMarks.trans {s t u : State} (h : sameButMarks s t) (k : sameButMarks t u) : sameButMarks s u :=
  ⟨k.1.trans h.1, k.2.1.trans h.2.1, k.2.2.1.trans h.2.2.1, k.2.2.2.trans h.2.2.2⟩

theorem moveMark_sameButMarks (s : State) (id : Ident) (a b : Mark) : sameButMarks s (s.moveMark id a b) := by
  refine ⟨?_, rfl, rfl, rfl⟩
  simp only [moveMark_table, List.map_map]
  apply List.map_congr_left
  intro e _
  simp only [Function.comp]
  split <;> rfl

theorem reportPurged_sameButMarks (s : State) (f : Frame) : sameButMarks s (reportPurged s f) := by
  unfold reportPurged
  split
  · exact moveMark_sameButMarks _ _ _ _
  · exact moveMark_sameButMarks _ _ _ _
  · exact .of_table (setRequest_frame f.serial .due s .table (by decide))
  · split <;> exact .of_table rfl
  · split <;> exact .of_table rfl
  · exact .of_table rfl

theorem reportPurged_fold_sameButMarks (l : List Frame) (s : State) :
    sameButMarks s (l.foldl reportPurged s) := by
  induction l generalizing s with
  | nil => exact .of_table rfl
  | cons f l ih => exact (reportPurged_sameButMarks s f).trans (ih _)

theorem reportPurged_fold_frame (l : List Frame) (s : State) :
    ChangesOnly [.table, .sending, .receiving] s (l.foldl reportPurged s) :=
  ChangesOnly.foldl (fun t f => reportPurged_frame f t) l s

/-! ### Purging -/

/-- The queue that a change of station state leaves (R78). -/
def permittedQueue (st : StationState) (q : List Frame) : List Frame :=
  (q.filter fun f => !(!kindPermitted st f.kind && !f.inTx)).map fun f =>
    if !kindPermitted st f.kind then f.marked else f

theorem purgeForbidden_line (s : State) :
    (purgeForbidden s).line = { s.line with queue := permittedQueue s.station.state s.line.queue } :=
  reportPurged_fold_frame _ _ .line (by decide)

theorem purgeForbidden_sameButMarks (s : State) : sameButMarks s (purgeForbidden s) :=
  (sameButMarks.of_table rfl).trans
    (reportPurged_fold_sameButMarks _ (s.setQueue (permittedQueue s.station.state s.line.queue)))

theorem permittedQueue_inTx (st : StationState) (q : List Frame) :
    (permittedQueue st q).countP (fun f => f.inTx) = q.countP fun f => f.inTx := by
  unfold permittedQueue
  rw [List.countP_map, List.countP_filter]
  apply List.countP_congr
  intro f _
  simp only [Function.comp]
  cases kindPermitted st f.kind <;> cases h : f.inTx <;> simp [Frame.marked, h]

theorem permittedQueue_ok {st : StationState} {q : List Frame} (h : queueOk q) : queueOk (permittedQueue st q) :=
  (h.sublist List.filter_sublist).map _ fun f => by split <;> rfl

/-! ### Entering a state -/

theorem enterState_same {new : StationState} {s : State} (h : s.station.state = new) : enterState new s = s := by
  simp [enterState, h]

/-- The state before the outputs are quenched. -/
def entered (new : StationState) (s : State) : State :=
  purgeForbidden (dropContexts s.station.state { s with station := s.station.entered new })

theorem enterState_other {new : StationState} {s : State} (h : s.station.state ≠ new) :
    enterState new s = quenchOnState new (entered new s) := by simp [enterState, h, entered]

theorem quenchOnState_same {st : StationState} (h : st ≠ .adrift) (k : st ≠ .isolated) (s : State) :
    quenchOnState st s = s := by
  unfold quenchOnState; split <;> simp_all

theorem entered_station (new : StationState) (s : State) : (entered new s).station = s.station.entered new := by
  have h := purgeForbidden_frame (dropContexts s.station.state { s with station := s.station.entered new }) .station
    (by decide)
  have k := dropContexts_frame s.station.state { s with station := s.station.entered new } .station (by decide)
  simp only [agreesOn] at h k
  exact h.trans k

theorem enterState_station {new : StationState} {s : State} (h : s.station.state ≠ new) :
    (enterState new s).station = s.station.entered new := by
  rw [enterState_other h]
  have k := quenchOnState_frame new (entered new s) .station (by decide)
  simp only [agreesOn] at k
  rw [k, entered_station]

theorem enterState_state (new : StationState) (s : State) : (enterState new s).station.state = new := by
  by_cases h : s.station.state = new
  · rw [enterState_same h, h]
  · rw [enterState_station h]; rfl

theorem enterState_line {new : StationState} {s : State} (h : s.station.state ≠ new) :
    (enterState new s).line = { s.line with queue := permittedQueue new s.line.queue } := by
  rw [enterState_other h]
  have k := quenchOnState_frame new (entered new s) .line (by decide)
  have d := dropContexts_frame s.station.state { s with station := s.station.entered new } .line (by decide)
  have e := dropContexts_frame s.station.state { s with station := s.station.entered new } .station (by decide)
  simp only [agreesOn] at k d e
  rw [k]; unfold entered; rw [purgeForbidden_line, d, e]; rfl

theorem enterState_sameButMarks (new : StationState) (s : State) : sameButMarks s (enterState new s) := by
  by_cases h : s.station.state = new
  · rw [enterState_same h]; exact .of_table rfl
  · rw [enterState_other h]
    refine ((sameButMarks.of_table ?_).trans (purgeForbidden_sameButMarks _)).trans
      (.of_table (quenchOnState_frame new (entered new s) .table (by decide)))
    exact dropContexts_frame s.station.state { s with station := s.station.entered new } .table (by decide)

/-! ### What a unit is told of a frame that did not leave the line (R75, R77) -/

/-- An owed announcement becomes due again (R81). -/
theorem moveMark_due {s : State} {id : Ident} {a b : Mark} :
    (∀ e, s.find id = some e → (s.moveMark id a b).find id = some (if e.mark = a then { e with mark := b } else e)) ∧
      (∀ x, x ≠ id → (s.moveMark id a b).find x = s.find x) ∧ sameButMarks s (s.moveMark id a b) := by
  refine ⟨fun e he => ?_, fun x hx => ?_, moveMark_sameButMarks _ _ _ _⟩
  · rw [find_moveMark, he, Option.map_some, find_id he]; simp
  · rw [find_moveMark]
    cases h : s.find x with
    | none => rfl
    | some e => rw [Option.map_some, if_neg fun hc => hx ((find_id h).symm.trans hc.1)]

/-- The request of the attempt that offered a frame takes the state given; another request stands (R126). -/
theorem setRequest_receiving (serial : Nat) (req : ReqState) (s : State) :
    (setRequest serial req s).receiving = s.receiving.map fun c => if c.serial = serial then { c with req := req } else c := by
  unfold setRequest
  cases h : s.receiving with
  | none => exact h
  | some c => dsimp only; split <;> simp_all

/-- A recital frame that was lost is one more failed offer of its recital, which the fourth abandons (R130). -/
theorem offerFailed_told (k : Nat) (s : State) :
    ChangesOnly [.sending] s (if ofSending k s then recitalOfferFailed s else s) ∧
    (if ofSending k s then recitalOfferFailed s else s).sending = s.sending.bind fun c =>
      if c.serial = k then if c.failed < 3 then some { c with offer := .due, failed := c.failed + 1 } else none else some c := by
  refine ⟨.ite (recitalOfferFailed_frame s) (.refl _ _), ?_⟩
  unfold ofSending recitalOfferFailed
  rcases hs : s.sending with _ | c
  · simpa using hs
  · by_cases hc : c.serial = k
    · simp only [hc, beq_self_eq_true, Option.bind_some, if_pos]
      by_cases hf : c.failed < 3
      · rw [if_pos hf, if_neg (by omega)]
      · rw [if_neg hf, if_pos (by omega)]; rfl
    · simp [hc, hs]

/-- A purged recital frame abandons its recital (R130, R131). -/
theorem abandoned_told (k : Nat) (s : State) :
    ChangesOnly [.sending] s (if ofSending k s then abandonRecital s else s) ∧
    (if ofSending k s then abandonRecital s else s).sending = s.sending.bind fun c =>
      if c.serial = k then none else some c := by
  refine ⟨.ite (abandonRecital_frame s) (.refl _ _), ?_⟩
  unfold ofSending abandonRecital
  rcases hs : s.sending with _ | c
  · simpa using hs
  · by_cases hc : c.serial = k
    · simp only [hc, beq_self_eq_true, Option.bind_some, if_pos]
    · simp [hc, hs]

/-- A unit is told ABANDONED as R75 says. -/
theorem reportAbandoned_told (s : State) (f : Frame) : toldUnsent true f s (reportAbandoned s f) := by
  unfold toldUnsent reportAbandoned
  cases hk : f.kind
  case propose | ratify =>
    cases hi : f.ident with
    | none => simp
    | some id => simpa using moveMark_due
  case reciteReq =>
    have h := setRequest_frame f.serial .due s
    have hs : (setRequest f.serial .due s).sending = s.sending := h .sending (by decide)
    exact ⟨by simp, by simp, fun _ => h .table (by decide), by simpa using setRequest_receiving f.serial .due s, by simp [hs]⟩
  case recital | scaleState =>
    obtain ⟨h, hs⟩ := offerFailed_told f.serial s
    have hr : (if ofSending f.serial s then recitalOfferFailed s else s).receiving = s.receiving := h .receiving (by decide)
    exact ⟨by simp, by simp, fun _ => h .table (by decide), by simp [hr], hs.trans (by simp)⟩
  all_goals simp

/-- A unit is told PURGED as R77 and R78 say. -/
theorem reportPurged_told (s : State) (f : Frame) : toldUnsent false f s (reportPurged s f) := by
  unfold toldUnsent reportPurged
  cases hk : f.kind
  case propose | ratify =>
    cases hi : f.ident with
    | none => simp
    | some id => simpa using moveMark_due
  case reciteReq =>
    have h := setRequest_frame f.serial .due s
    have hs : (setRequest f.serial .due s).sending = s.sending := h .sending (by decide)
    exact ⟨by simp, by simp, fun _ => h .table (by decide), by simpa using setRequest_receiving f.serial .due s, by simp [hs]⟩
  case recital | scaleState =>
    obtain ⟨h, hs⟩ := abandoned_told f.serial s
    have hr : (if ofSending f.serial s then abandonRecital s else s).receiving = s.receiving := h .receiving (by decide)
    exact ⟨by simp, by simp, fun _ => h .table (by decide), by simp [hr], hs.trans (by simp)⟩
  all_goals simp

end Sys2Proof.Machine
end

