-- ==== Sys2Proof/Laws/Records.lean ====
section
/-! SUPPORT. The time-code record that the model composes shows what R161 and R162 ask of it. -/

namespace Sys2Proof.Machine

set_option Elab.async false

/-- A bit of a byte of flags is set where a flag of that bit is. -/
theorem flagBits_getLsbD (fs : List (Bool × Nat)) (j : Nat) (hj : j < 8) :
    (flagBits fs).getLsbD j = fs.any fun f => f.1 && decide (j = f.2) := by
  unfold flagBits
  have key : ∀ (fs : List (Bool × Nat)) (b : Byte),
      (fs.foldl (fun b f => if f.1 then b ||| BitVec.twoPow 8 f.2 else b) b).getLsbD j =
        (b.getLsbD j || fs.any fun f => f.1 && decide (j = f.2)) := by
    intro fs
    induction fs with
    | nil => simp
    | cons f fs ih =>
      intro b
      rw [List.foldl_cons, ih, List.any_cons]
      cases hf : f.1 <;> simp [hj, Bool.or_assoc]
  rw [key]
  simp

/-- The bytes of a record, cut at its fields. -/
theorem composeRecord_eq (s : State) (n : Fin 8) (k : Nat) (d : Display) (realign : Bool) :
    ∃ chk : Byte, composeRecord s n k d realign =
      (be 1 0x24 ++ be 1 (n.val * 16 + k)) ++ (labelBytes d.form ++ (be 3 (twos24 (valueField s k)) ++
        (transitionFlags s k d realign :: stationFlags s :: (be 1 (daysToTurn s k) ++ [chk])))) := by
  unfold composeRecord
  simp only [List.append_assoc, List.cons_append, List.nil_append]
  exact ⟨_, rfl⟩

theorem labelBytes_length (f : Option CalForm) : (labelBytes f).length = 7 := by
  cases f <;> rfl

theorem ofBE_be_mod (k v : Nat) : ofBE (be k v) = v % 256 ^ k := by
  induction k generalizing v with
  | zero => simp [be, ofBE, Nat.mod_one]
  | succ k ih =>
    rw [be, ofBE_cons, be_length, ih, pow_succ, BitVec.toNat_ofNat, Nat.mod_mul, show (2 : Nat) ^ 8 = 256 by norm_num]
    ring

theorem twos24_cast (v : Int) : (twos24 v : Int) = v % 16777216 := by
  unfold twos24
  rw [BitVec.toNat_ofInt]
  have : (0 : Int) ≤ v % 16777216 := Int.emod_nonneg _ (by norm_num)
  simp [this]

theorem station_code_lt (st : StationState) : st.code < 8 := by cases st <;> decide

/-! ### Days to turn -/

theorem earliest_mem {α : Type} (l : List (Nat × α)) (x : Nat × α) (h : earliest l = some x) : x ∈ l := by
  induction l generalizing x with
  | nil => simp [earliest] at h
  | cons a l ih =>
    unfold earliest at h
    cases he : earliest l with
    | none => simp [he] at h; simp [h]
    | some b =>
      rw [he] at h
      simp only at h
      split at h
      · rw [← Option.some.inj h]; exact List.mem_cons_of_mem _ (ih _ he)
      · rw [← Option.some.inj h]; exact List.mem_cons_self

theorem leapWarning_inSpan (s : State) (c : Nat) (w : LeapWarning) (h : s.leapWarning c = some w) :
    inSpan s w.turn = true := by
  unfold State.leapWarning at h
  rw [Option.map_eq_some_iff] at h
  obtain ⟨⟨t, w'⟩, he, rfl⟩ := h
  have hm := earliest_mem _ _ he
  rw [List.mem_filterMap] at hm
  obtain ⟨e, -, h⟩ := hm
  split at h
  · split at h
    · rename_i hc
      simp only [Option.some.injEq, Prod.mk.injEq] at h
      obtain ⟨rfl, rfl⟩ := h
      simp only [Bool.and_eq_true] at hc
      exact hc.2
    · simp at h
  · simp at h

theorem offsetPending_inSpan (s : State) (k : Nat) (w : OffsetPending) (h : s.offsetPending k = some w) :
    inSpan s w.turn = true := by
  unfold State.offsetPending at h
  split at h
  · rw [Option.map_eq_some_iff] at h
    obtain ⟨⟨t, w'⟩, he, rfl⟩ := h
    have hm := earliest_mem _ _ he
    rw [List.mem_filterMap] at hm
    obtain ⟨e, -, h⟩ := hm
    split at h
    · split at h
      · rename_i hc
        simp only [Option.some.injEq, Prod.mk.injEq] at h
        obtain ⟨rfl, rfl⟩ := h
        simp only [Bool.and_eq_true] at hc
        exact hc.2
      · simp at h
    · simp at h
  · simp at h

theorem inSpan_days (s : State) (x : Nat) (h : inSpan s x = true) (hd : s.plan.d ≤ 31) :
    (x - s.clock.label) / 86400 < 256 := by
  unfold inSpan at h; simp at h; omega

/-! ### The record -/

/-- The record that is composed for a display shows the count that the display is the form of, and its flags (R161,
R162). -/
theorem composeRecord_shows (s : State) (n : Fin 8) (k : Nat) (d : Display) (realign : Bool) (count : Int) (sixty : Prop)
    [Decidable sixty]
    (hform : d.form = (calendar count).map fun f => if sixty then { f with second := 60 } else f) :
    recordShows s k count sixty (d.smearing = true) (d.held = true) (d.offsetChange = true) (realign = true)
      (composeRecord s n k d realign) := by
  obtain ⟨chk, hb⟩ := composeRecord_eq s n k d realign
  have hnone : (count < 0 ∨ 6311433600 ≤ count) ↔ d.form = none := by
    have := calendar_isSome_iff count
    rw [hform, Option.map_eq_none_iff, ← Option.not_isSome_iff_eq_none, this]; omega
  have hl := labelBytes_length d.form
  have h12 : (composeRecord s n k d realign)[12]? = some (transitionFlags s k d realign) := by
    rw [hb]
    simp [be_length, hl]
  have h13 : field (composeRecord s n k d realign) 13 1 = (stationFlags s).toNat := by
    rw [hb]
    have := field_append ((be 1 0x24 ++ be 1 (n.val * 16 + k)) ++ labelBytes d.form ++ be 3 (twos24 (valueField s k)) ++
      [transitionFlags s k d realign]) [stationFlags s] (be 1 (daysToTurn s k) ++ [chk]) 13 1
      (by simp [be_length, hl]) rfl
    simpa [ofBE, List.append_assoc] using this
  have h14 : field (composeRecord s n k d realign) 14 1 = daysToTurn s k % 256 := by
    rw [hb]
    have := field_append ((be 1 0x24 ++ be 1 (n.val * 16 + k)) ++ labelBytes d.form ++ be 3 (twos24 (valueField s k)) ++
      [transitionFlags s k d realign, stationFlags s]) (be 1 (daysToTurn s k)) [chk] 14 1
      (by simp [be_length, hl]) (be_length _ _)
    rw [ofBE_be_mod] at this
    simpa [List.append_assoc] using this
  have h9 : field (composeRecord s n k d realign) 9 3 = twos24 (valueField s k) := by
    rw [hb]
    have := field_append ((be 1 0x24 ++ be 1 (n.val * 16 + k)) ++ labelBytes d.form) (be 3 (twos24 (valueField s k)))
      (transitionFlags s k d realign :: stationFlags s :: (be 1 (daysToTurn s k) ++ [chk])) 9 3
      (by simp [be_length, hl]) (be_length _ _)
    rw [ofBE_be_mod, Nat.mod_eq_of_lt (by unfold twos24; exact BitVec.isLt _)] at this
    simpa [List.append_assoc] using this
  have h2 : field (composeRecord s n k d realign) 2 7 = ofBE (labelBytes d.form) := by
    rw [hb]
    exact field_append _ _ _ 2 7 (by simp [be_length]) hl
  unfold recordShows
  simp only [h12, h13, h14, h9, h2, Option.getD_some]
  refine ⟨?_, ?_, ?_, ?_, ?_, ?_, ?_, ?_, ?_, ?_, ?_, ?_, ?_, ?_⟩
  · intro hu
    rw [hnone] at hu
    obtain ⟨g, hg⟩ := Option.ne_none_iff_exists'.1 hu
    have hc : ∃ f, calendar count = some f ∧ g = if sixty then { f with second := 60 } else f := by
      rw [hform, Option.map_eq_some_iff] at hg
      obtain ⟨f, h1, h2⟩ := hg; exact ⟨f, h1, h2.symm⟩
    obtain ⟨f, hcf, rfl⟩ := hc
    have hd := (calendar_eq_some_iff _ _).1 hcf
    refine ⟨f, hd, ?_⟩
    generalize hgg : (if sixty then { f with second := 60 } else f : CalForm) = g at *
    have e1 : g.year = f.year ∧ g.day = f.day ∧ g.hour = f.hour ∧ g.minute = f.minute := by
      subst hgg; split <;> exact ⟨rfl, rfl, rfl, rfl⟩
    have e2 : (sixty → g.second = 60) ∧ (¬ sixty → g.second = f.second) := by
      subst hgg; exact ⟨fun h => by simp [h], fun h => by simp [h]⟩
    have hy : yearLength f.year ≤ 366 := by unfold yearLength; split <;> omega
    obtain ⟨d1, d2, d3, d4, d5, d6, d7, -⟩ := hd
    have fld : ∀ (p : List Byte) (v m i : Nat), p.length = i → v < 256 ^ m →
        (∃ rest, composeRecord s n k d realign = p ++ (be m v ++ rest)) →
        field (composeRecord s n k d realign) i m = v := by
      rintro p v m i hp hv ⟨rest, he⟩
      rw [he, field_append p _ rest i m hp (be_length _ _), ofBE_be _ _ hv]
    have hlab : labelBytes d.form = be 2 g.year ++ be 2 g.day ++ be 1 g.hour ++ be 1 g.minute ++ be 1 g.second := by
      rw [hg]; rfl
    rw [hlab] at hb
    rw [← e1.1, ← e1.2.1, ← e1.2.2.1, ← e1.2.2.2]
    have hsec : g.second < 256 := by
      by_cases hs : sixty
      · rw [e2.1 hs]; omega
      · rw [e2.2 hs]; omega
    have f8 : field (composeRecord s n k d realign) 8 1 = g.second := by
      refine fld ((be 1 0x24 ++ be 1 (n.val * 16 + k)) ++ (be 2 g.year ++ be 2 g.day ++ be 1 g.hour ++ be 1 g.minute))
        g.second 1 8 (by simp [be_length]) (by omega) ?_
      rw [hb]; simp only [List.append_assoc]; exact ⟨_, rfl⟩
    refine ⟨?_, ?_, ?_, ?_, ?_, ?_⟩
    · refine fld (be 1 0x24 ++ be 1 (n.val * 16 + k)) g.year 2 2 (by simp [be_length]) (by omega) ?_
      rw [hb]; simp only [List.append_assoc]; exact ⟨_, rfl⟩
    · refine fld ((be 1 0x24 ++ be 1 (n.val * 16 + k)) ++ be 2 g.year) g.day 2 4 (by simp [be_length]) (by omega) ?_
      rw [hb]; simp only [List.append_assoc]; exact ⟨_, rfl⟩
    · refine fld ((be 1 0x24 ++ be 1 (n.val * 16 + k)) ++ (be 2 g.year ++ be 2 g.day)) g.hour 1 6 (by simp [be_length])
        (by omega) ?_
      rw [hb]; simp only [List.append_assoc]; exact ⟨_, rfl⟩
    · refine fld ((be 1 0x24 ++ be 1 (n.val * 16 + k)) ++ (be 2 g.year ++ be 2 g.day ++ be 1 g.hour)) g.minute 1 7
        (by simp [be_length]) (by omega) ?_
      rw [hb]; simp only [List.append_assoc]; exact ⟨_, rfl⟩
    · intro hs; rw [f8, e2.1 hs]
    · intro hs; rw [f8, e2.2 hs]
  · intro hu
    rw [hnone.1 hu]; rfl
  · rw [twos24_cast]; rfl
  · simp only [transitionFlags]
    rw [flagBits_getLsbD _ 0 (by omega)]
    simp [Option.any_eq_true]
  · simp only [transitionFlags]
    rw [flagBits_getLsbD _ 1 (by omega)]
    simp [Option.any_eq_true]
  · simp only [transitionFlags]
    rw [flagBits_getLsbD _ 2 (by omega)]
    simp [Option.isSome_iff_exists]
  · simp only [transitionFlags]
    rw [flagBits_getLsbD _ 3 (by omega)]
    simp
  · simp only [transitionFlags]
    rw [flagBits_getLsbD _ 4 (by omega)]
    simp
  · simp only [transitionFlags]
    rw [flagBits_getLsbD _ 5 (by omega)]
    simp
  · simp only [transitionFlags]
    rw [flagBits_getLsbD _ 6 (by omega)]
    simp
  · simp only [transitionFlags]
    rw [flagBits_getLsbD _ 7 (by omega), hnone]
    simp
  · have := station_code_lt s.station.state
    unfold stationFlags
    rw [BitVec.toNat_ofNat]
    split <;> omega
  · unfold daysToTurn
    cases s.warningFor k <;> cases s.offsetPending k <;> simp
  · intro hd x hx hmin
    have hsp : ∀ y ∈ ((s.warningFor k).toList.map fun w => w.turn) ++ ((s.offsetPending k).toList.map fun p => p.turn),
        inSpan s y = true := by
      intro y hy
      simp only [List.mem_append, List.mem_map, Option.mem_toList] at hy
      rcases hy with ⟨w, hw, rfl⟩ | ⟨p, hp, rfl⟩
      · unfold State.warningFor at hw
        obtain ⟨c, -, hw⟩ := Option.bind_eq_some_iff.1 hw
        exact leapWarning_inSpan s c w hw
      · exact offsetPending_inSpan s k p hp
    have hlt := inSpan_days s x (hsp x hx) hd
    have : daysToTurn s k = (x - s.clock.label) / 86400 := by
      unfold daysToTurn
      cases hw : s.warningFor k <;> cases hp : s.offsetPending k <;> simp [hw, hp] at hx hmin ⊢
      · rw [hx]
      · rw [hx]
      · rename_i w p
        rcases hx with rfl | rfl
        · rw [Nat.min_eq_left (by omega)]
        · rw [Nat.min_eq_right (by omega)]
    rw [this, Nat.mod_eq_of_lt hlt]

end Sys2Proof.Machine
end

