-- ==== Sys2Proof/Laws/Screening.lean ====
section
/-! SUPPORT. The projected state and the rules of screening (R44 to R56): what is computed is what the statements speak of. -/

namespace Sys2Proof.Machine

set_option Elab.async false

/-! ### The projected lag -/

/-- The projected lag counts the settled leaps of the family (R53). -/
theorem projectedLag_eq_lagBefore (s : State) (r : Record) (c turn : Nat) (hr : s.familyOf r = some c)
    (ht : 1 ≤ turn) :
    projectedLag s c turn (settledFamily s r) = lagBefore s c turn := by
  unfold projectedLag lagBefore settledCount settledFamily
  have hs (e : Entry) : s.sameFamily r e.toRecord = e.scale.any fun k => s.family k == some c := by
    unfold State.sameFamily
    rw [hr, State.familyOf]
    cases e.scale with
    | none => rfl
    | some k =>
      rw [Option.bind_some, Option.any_some]
      cases s.family k with
      | none => rfl
      | some m => exact Bool.eq_iff_iff.2 (by simp only [beq_iff_eq, Option.some.injEq]; exact eq_comm)
  simp only [hs]
  generalize (s.scale c).value = x
  generalize s.table.entries = es
  induction es generalizing x with
  | nil => simp
  | cons e es ih =>
    rw [List.filter_cons, List.countP_cons, List.countP_cons]
    by_cases hk : (e.settled && e.scale.any fun k => s.family k == some c) = true
    · rw [if_pos hk, List.foldl_cons, ih]
      rw [Bool.and_eq_true] at hk
      simp only [hk.1, hk.2, Bool.true_and, Bool.and_true]
      clear ih hs
      cases e.kind <;> cases e.turn <;> simp <;> split <;> (try split) <;> omega
    · have h0 (kind : Kind) (p : Nat → Bool) :
          (e.settled && e.kind == kind && (e.scale.any fun k => s.family k == some c) && e.turn.any p) = false := by
        rw [Bool.and_eq_true, not_and_or, Bool.not_eq_true, Bool.not_eq_true] at hk
        rcases hk with hk | hk <;> simp only [hk, Bool.false_and, Bool.and_false]
      simp only [if_neg hk, h0, Bool.false_eq_true, if_false, Nat.add_zero]
      exact ih x

/-! ### The projected offset -/

/-- An OFFSET_SET that is settled on LOCAL scale `k` before a turn (R53). -/
def setsBefore (k turn : Nat) (e : Entry) (t : Nat) : Prop :=
  e.settled = true ∧ e.kind = .offsetSet ∧ e.scale = some k ∧ e.turn = some t ∧ t < turn

/-- The latest of the settled OFFSET_SETs of a list, or what was found before it. -/
theorem projectedOffset_fold (s : State) (r : Record) (k turn c : Nat) (hr : s.familyOf r = some c)
    (hc : s.family k = some c) (ht : 1 ≤ turn) (es : List Entry) (b : Option Nat × Int) :
    let f := laterOffset k turn
    let out := (es.filter fun e => e.settled && s.sameFamily r e.toRecord).foldl f b
    (out = b ∧ ∀ e ∈ es, ∀ t, setsBefore k turn e t → t < b.1.getD 0) ∨
    ∃ e ∈ es, ∃ t, setsBefore k turn e t ∧ out = (some t, e.value.getD 0) ∧ b.1.getD 0 ≤ t ∧
      ∀ e' ∈ es, ∀ t', setsBefore k turn e' t' → t' ≤ t := by
  intro f
  induction es generalizing b with
  | nil => exact Or.inl ⟨rfl, by simp⟩
  | cons e es ih =>
    intro out
    by_cases hs : ∃ t, setsBefore k turn e t
    · obtain ⟨t, h1, h2, h3, h4, h5⟩ := hs
      have huniq : ∀ t', setsBefore k turn e t' → t' = t := by
        rintro t' ⟨-, -, -, h, -⟩; rw [h4] at h; exact (Option.some.inj h).symm
      have he : s.familyOf e.toRecord = some c := by simp [State.familyOf, h3, hc]
      have hf : (e.settled && s.sameFamily r e.toRecord) = true := by simp [State.sameFamily, hr, he, h1]
      have hout : out = (es.filter fun e => e.settled && s.sameFamily r e.toRecord).foldl f (f b e) := by
        show List.foldl f b (List.filter _ (e :: es)) = _
        rw [List.filter_cons, if_pos hf, List.foldl_cons]
      by_cases hb : b.1.getD 0 ≤ t
      · have hfe : f b e = (some t, e.value.getD 0) := by
          simp only [f, laterOffset, h2, h4, h3]
          rw [if_pos ⟨trivial, by omega, hb⟩]
        rcases ih (f b e) with ⟨ho, hlt⟩ | ⟨e', he', t', hs', ho, hle, hmax⟩
        · refine Or.inr ⟨e, by simp, t, ⟨h1, h2, h3, h4, h5⟩, by rw [hout, ho, hfe], hb, ?_⟩
          intro e' he' t' hs'
          rcases List.mem_cons.1 he' with rfl | hm
          · exact Nat.le_of_eq (huniq _ hs')
          · have := hlt e' hm t' hs'; rw [hfe] at this; simp at this; omega
        · rw [hfe] at hle
          simp at hle
          refine Or.inr ⟨e', by simp [he'], t', hs', by rw [hout, ho], by omega, ?_⟩
          intro x hx tx hsx
          rcases List.mem_cons.1 hx with rfl | hm
          · rw [huniq _ hsx]; exact hle
          · exact hmax x hm tx hsx
      · have hfe : f b e = b := by
          simp only [f, laterOffset, h2, h4, h3]
          rw [if_neg (by omega)]
        rw [hfe] at hout
        rcases ih b with ⟨ho, hlt⟩ | ⟨e', he', t', hs', ho, hle, hmax⟩
        · refine Or.inl ⟨by rw [hout, ho], ?_⟩
          intro x hx tx hsx
          rcases List.mem_cons.1 hx with rfl | hm
          · rw [huniq _ hsx]; omega
          · exact hlt x hm tx hsx
        · refine Or.inr ⟨e', by simp [he'], t', hs', by rw [hout, ho], hle, ?_⟩
          intro x hx tx hsx
          rcases List.mem_cons.1 hx with rfl | hm
          · rw [huniq _ hsx]; omega
          · exact hmax x hm tx hsx
    · have hout : out = (es.filter fun e => e.settled && s.sameFamily r e.toRecord).foldl f b := by
        show List.foldl f b (List.filter _ (e :: es)) = _
        rw [List.filter_cons]
        split
        · rename_i hf
          rw [List.foldl_cons]
          congr 1
          simp only [f, laterOffset]
          split
          · rename_i t hk htu
            rw [if_neg]
            rintro ⟨h3, h4, -⟩
            simp at hf
            exact hs ⟨t, hf.1, hk, h3, htu, by omega⟩
          · rfl
        · rfl
      rcases ih b with ⟨ho, hlt⟩ | ⟨e', he', t', hs', ho, hle, hmax⟩
      · refine Or.inl ⟨by rw [hout, ho], ?_⟩
        intro x hx tx hsx
        rcases List.mem_cons.1 hx with rfl | hm
        · exact absurd ⟨tx, hsx⟩ hs
        · exact hlt x hm tx hsx
      · refine Or.inr ⟨e', by simp [he'], t', hs', by rw [hout, ho], hle, ?_⟩
        intro x hx tx hsx
        rcases List.mem_cons.1 hx with rfl | hm
        · exact absurd ⟨tx, hsx⟩ hs
        · exact hmax x hm tx hsx

/-- The projected offset is the one of R53. -/
theorem offsetBefore_projectedOffset (s : State) (r : Record) (k turn c : Nat) (hr : s.familyOf r = some c)
    (hc : s.family k = some c) (ht : 1 ≤ turn) (hs : EntriesSound s) :
    offsetBefore s k turn (projectedOffset s k turn (settledFamily s r)) := by
  have := projectedOffset_fold s r k turn c hr hc ht s.table.entries (none, (s.scale k).value)
  unfold projectedOffset settledFamily
  unfold offsetBefore
  simp only [] at this ⊢
  rcases this with ⟨ho, hlt⟩ | ⟨e, he, t, hset, ho, -, hmax⟩
  · refine Or.inr ⟨?_, by rw [ho]⟩
    rintro e t ⟨he, h⟩
    have := hlt e he t h
    simp at this
  · refine Or.inl ⟨e, t, ⟨he, hset⟩, ?_, fun e' t' h => hmax e' h.1 t' h.2⟩
    rw [ho]
    have := (hs e he).1
    unfold Record.fieldsOk at this
    rw [hset.2.1] at this
    cases hv : e.value with
    | none => simp [hv] at this
    | some v => rfl

/-- At most one offset is the projected one, since settled turns of a family lie apart (R32, R53). -/
theorem offsetBefore_unique (s : State) (k turn c : Nat) (v w : Int) (hc : s.family k = some c) (hs : SettledApart s)
    (hv : offsetBefore s k turn v) (hw : offsetBefore s k turn w) : v = w := by
  unfold offsetBefore at hv hw
  simp only [] at hv hw
  rcases hv with ⟨e, t, he, hev, hmax⟩ | ⟨hno, rfl⟩
  · rcases hw with ⟨e', t', he', hev', hmax'⟩ | ⟨hno, rfl⟩
    · have htt : t = t' := Nat.le_antisymm (hmax' e t he) (hmax e' t' he')
      subst htt
      obtain ⟨hm, h1, h2, h3, h4, h5⟩ := he
      obtain ⟨hm', h1', h2', h3', h4', h5'⟩ := he'
      have hee : e = e' := by
        by_contra hne
        have hconf : ∀ a b : Entry, a.scale = some k → b.scale = some k → a.turn = some t → b.turn = some t →
            s.conflicts a.toRecord b.toRecord = true := by
          intro a b ha hb hta htb
          have ha' : s.familyOf a.toRecord = some c := by simp [State.familyOf, ha, hc]
          have hb' : s.familyOf b.toRecord = some c := by simp [State.familyOf, hb, hc]
          simp [State.conflicts, hta, htb, State.sameFamily, ha', hb', turnsConflict]
        have hs' : s.table.entries.Pairwise fun a b =>
            (a.settled = true → b.settled = true → s.conflicts a.toRecord b.toRecord = false) ∧
            (b.settled = true → a.settled = true → s.conflicts b.toRecord a.toRecord = false) := by
          refine List.Pairwise.imp ?_ hs
          intro a b h
          refine ⟨h, fun h1 h2 => ?_⟩
          have := h h2 h1
          unfold State.conflicts at this ⊢
          cases ha : a.turn <;> cases hb : b.turn <;> simp only [ha, hb] at this ⊢
          rw [Bool.and_eq_false_iff] at this ⊢
          refine this.imp (fun h => ?_) (fun h => ?_)
          · unfold State.sameFamily at h ⊢
            cases hx : s.familyOf a.toRecord <;> cases hy : s.familyOf b.toRecord <;> simp only [hx, hy] at h ⊢
            simp at h ⊢; exact fun e => h e.symm
          · unfold turnsConflict at h ⊢
            simp at h ⊢; omega
        have sym : Std.Symm fun a b : Entry =>
            (a.settled = true → b.settled = true → s.conflicts a.toRecord b.toRecord = false) ∧
            (b.settled = true → a.settled = true → s.conflicts b.toRecord a.toRecord = false) := ⟨fun a b h => And.symm h⟩
        have h := (hs'.forall hm hm' hne).1 h1 h1'
        rw [hconf e e' h3 h3' h4 h4'] at h; exact absurd h (by simp)
      subst hee
      rw [hev] at hev'; exact Option.some.inj hev'
    · exact absurd he (hno e t)
  · rcases hw with ⟨e', t', he', -⟩ | ⟨-, rfl⟩
    · exact absurd he' (hno e' t')
    · rfl

/-! ### The rules and their order -/

/-- An identifier is found where an entry has it. -/
theorem find_some_iff_mem (s : State) (x : Ident) : (∃ e, s.find x = some e) ↔ ∃ e ∈ s.table.entries, e.id = x := by
  unfold State.find
  rw [← Option.isSome_iff_exists, List.find?_isSome]; simp

/-- The custody test fails where the custodian bars the proposer (R46). -/
theorem custodyPasses_eq_false_iff (s : State) (k p : Nat) : custodyPasses s k p = false ↔ custodyBars s k p := by
  unfold custodyPasses custodyBars
  cases h : (s.scale k).custodian with
  | none => simp
  | some c => simp; tauto

/-- The horizon test of R48. -/
theorem horizonTooNear_iff (s : State) (x : Nat) : horizonTooNear s x = true ↔ startsTooSoon s x := by
  unfold horizonTooNear startsTooSoon; simp; omega

/-- KIND_MISMATCH fails as R45 says. -/
theorem kindSuits_eq_false_iff (s : State) (r : Record) (h : r.fieldsOk s.plan.n = true) :
    kindSuits s r = false ↔ fixedFails s r .kindMismatch := by
  unfold kindSuits fixedFails; unfold Record.fieldsOk scaleFieldOk at h
  cases hk : r.kind <;> cases hs : r.scale <;> simp [hk, hs] at h ⊢
  cases (s.scale _).kind <;> simp

/-- NOT_CUSTODIAN fails as R46 and R47 say. -/
theorem custodianSuits_eq_false_iff (s : State) (r : Record) (h : r.fieldsOk s.plan.n = true) :
    custodianSuits s r = false ↔ fixedFails s r .notCustodian := by
  unfold custodianSuits fixedFails; unfold Record.fieldsOk scaleFieldOk at h
  cases hk : r.kind <;> cases hs : r.scale <;> cases ht : r.target <;> simp [hk, hs, ht] at h ⊢
  all_goals try exact custodyPasses_eq_false_iff _ _ _
  rename_i x
  cases hf : s.find x with
  | none => simp
  | some e =>
    simp
    cases he : e.scale with
    | none => simp; exact ne_comm
    | some m => simp [custodyPasses_eq_false_iff]; intro _; exact ne_comm

/-- TOO_LATE fails as R48 says. -/
theorem inTime_eq_false_iff (s : State) (r : Record) (h : r.fieldsOk s.plan.n = true) :
    inTime s r = false ↔ fixedFails s r .tooLate := by
  unfold inTime fixedFails targetTooNear; unfold Record.fieldsOk scaleFieldOk at h
  cases hk : r.kind <;> cases hs : r.turn <;> cases ht : r.target <;> simp [hk, hs, ht] at h ⊢
  all_goals try exact horizonTooNear_iff _ _
  rename_i x
  cases hf : s.find x with
  | none => simp
  | some e =>
    simp
    cases he : e.turn with
    | none => simp
    | some m => simp [horizonTooNear_iff]

/-- TOO_FAR fails as R49 says. -/
theorem nearEnough_eq_false_iff (s : State) (r : Record) : nearEnough s r = false ↔ fixedFails s r .tooFar := by
  unfold nearEnough fixedFails
  cases hs : r.turn <;> simp [Config.tooFar]

/-- SPACING fails as R50 says. -/
theorem spaced_eq_false_iff (s : State) (r : Record) : spaced s r = false ↔ fixedFails s r .spacing := by
  unfold spaced fixedFails State.conflicts State.sameFamily State.familyOf turnsConflict
  simp
  constructor
  · rintro ⟨e, he, hne, h⟩
    refine ⟨e, he, hne, ?_⟩
    cases h1 : r.turn <;> cases h2 : e.turn <;> cases h3 : r.scale <;> cases h4 : e.scale <;> simp [h1,h2,h3,h4] at h ⊢
    revert h
    cases s.family _ <;> cases s.family _ <;> simp
    rintro rfl; tauto
  · rintro ⟨e, he, hne, x, h1, y, h2, k, h3, m, h4, c, h5, h6, h7⟩
    exact ⟨e, he, hne, by simp [h1, h2, h3, h4, h5, h6, h7]⟩

/-- UNKNOWN_TARGET fails as R51 says. -/
theorem targetKnown_eq_false_iff (s : State) (r : Record) (h : r.fieldsOk s.plan.n = true) :
    targetKnown s r = false ↔ fixedFails s r .unknownTarget := by
  unfold targetKnown fixedFails; unfold Record.fieldsOk scaleFieldOk at h
  cases hk : r.kind <;> cases hs : r.turn <;> cases ht : r.target <;> simp [hk, hs, ht] at h ⊢
  rename_i x
  unfold State.find; simp

/-- DUPLICATE_ID fails as R51 says. -/
theorem holds_iff_duplicateId (s : State) (r : Record) : s.holds r.id = true ↔ fixedFails s r .duplicateId := by
  unfold State.holds fixedFails
  rw [Option.isSome_iff_exists, find_some_iff_mem]

/-- TABLE_FULL fails as R52 says. -/
theorem hasRoom_eq_false_iff (s : State) (r : Record) : s.hasRoom r.kind = false ↔ fixedFails s r .tableFull := by
  unfold State.hasRoom fixedFails
  cases r.kind <;> simp <;> omega

/-- The fixed rules answer the first reason that fails, or none (R44). -/
theorem fixedRules_spec (s : State) (r : Record) (h : r.fieldsOk s.plan.n = true) :
    (∀ reason, fixedFails s r reason → (∀ x : Reason, x.code < reason.code → ¬ fixedFails s r x) →
      fixedRules s r = some reason) ∧ (fixedRules s r = none ↔ ∀ x, ¬ fixedFails s r x) := by
  have a1 := kindSuits_eq_false_iff s r h; have a2 := custodianSuits_eq_false_iff s r h
  have a3 := inTime_eq_false_iff s r h; have a4 := nearEnough_eq_false_iff s r; have a5 := spaced_eq_false_iff s r
  have a6 := targetKnown_eq_false_iff s r h; have a7 := holds_iff_duplicateId s r; have a8 := hasRoom_eq_false_iff s r
  unfold fixedRules
  constructor
  · intro reason hf hm
    have b1 := hm .kindMismatch; have b2 := hm .notCustodian; have b3 := hm .tooLate; have b4 := hm .tooFar
    have b5 := hm .spacing; have b6 := hm .unknownTarget; have b7 := hm .duplicateId; have b8 := hm .tableFull
    rw [← a1] at b1; rw [← a2] at b2; rw [← a3] at b3; rw [← a4] at b4; rw [← a5] at b5; rw [← a6] at b6; rw [← a7] at b7
    rw [← a8] at b8
    cases reason <;> simp only [Reason.code] at b1 b2 b3 b4 b5 b6 b7 b8 <;>
      first | (exact absurd hf id) | skip
    · rw [← a1] at hf; simp [hf]
    · rw [← a2] at hf; simp [hf]; simpa using b1
    · rw [← a3] at hf; simp [hf]; simp at b1 b2; simp [b1, b2]
    · rw [← a4] at hf; simp [hf]; simp at b1 b2 b3; simp [b1, b2, b3]
    · rw [← a5] at hf; simp [hf]; simp at b1 b2 b3 b4; simp [b1, b2, b3, b4]
    · rw [← a6] at hf; simp [hf]; simp at b1 b2 b3 b4 b5; simp [b1, b2, b3, b4, b5]
    · rw [← a7] at hf; simp [hf]; simp at b1 b2 b3 b4 b5 b6; simp [b1, b2, b3, b4, b5, b6]
    · rw [← a8] at hf; simp [hf]; simp at b1 b2 b3 b4 b5 b6 b7; simp [b1, b2, b3, b4, b5, b6, b7]
  · constructor
    · intro hn
      simp only [Bool.not_eq_true'] at hn
      iterate 8
        split at hn
        · simp at hn
      intro x
      cases x <;> try (exact id)
      · rw [← a1]; assumption
      · rw [← a2]; assumption
      · rw [← a3]; assumption
      · rw [← a4]; assumption
      · rw [← a5]; assumption
      · rw [← a6]; assumption
      · rw [← a7]; assumption
      · rw [← a8]; assumption
    · intro hm
      have b1 := hm .kindMismatch; have b2 := hm .notCustodian; have b3 := hm .tooLate; have b4 := hm .tooFar
      have b5 := hm .spacing; have b6 := hm .unknownTarget; have b7 := hm .duplicateId; have b8 := hm .tableFull
      rw [← a1] at b1; rw [← a2] at b2; rw [← a3] at b3; rw [← a4] at b4; rw [← a5] at b5; rw [← a6] at b6; rw [← a7] at b7
      rw [← a8] at b8
      simp at b1 b2 b3 b4 b5 b6 b7 b8
      simp [b1, b2, b3, b4, b5, b6, b7, b8]

/-- The configurable rules end at the first that fails with action REJECT, or gather the flags (R44). -/
theorem configurableRules_spec (s : State) (r : Record) (cs fl : List CfgRule) :
    (∀ x ∈ cs, s.plan.action x = .reject → x.passes s r = false →
      (∀ y ∈ cs.takeWhile (· ≠ x), s.plan.action y = .reject → y.passes s r = true) →
      configurableRules s r cs fl = .reject x.reason) ∧
    ((∀ x ∈ cs, s.plan.action x = .reject → x.passes s r = true) →
      configurableRules s r cs fl = .accept (fl ++ cs.filter fun x => s.plan.action x == .flag && !x.passes s r)) := by
  induction cs generalizing fl with
  | nil => simp [configurableRules]
  | cons c cs ih =>
    constructor
    · intro x hx ha hp hy
      unfold configurableRules
      by_cases hxc : c = x
      · subst hxc; simp [ha, hp]
      · have hx' : x ∈ cs := by simp at hx; tauto
        rw [List.takeWhile_cons] at hy
        simp [hxc] at hy
        cases hac : s.plan.action c
        · exact (ih _).1 x hx' ha hp (by simpa using hy.2)
        · simp [hy.1 hac]; exact (ih _).1 x hx' ha hp (by simpa using hy.2)
        · exact (ih _).1 x hx' ha hp (by simpa using hy.2)
    · intro h
      unfold configurableRules
      have hh := fun fl => (ih fl).2 (fun x hx => h x (by simp [hx]))
      cases hac : s.plan.action c
      · simp only [hac, hh, List.filter_cons]; simp
      · simp only [hac, hh, List.filter_cons, h c (by simp) hac]; simp
      · simp only [hac, hh, List.filter_cons]
        cases hp : c.passes s r <;> simp

/-- After the fixed rules have passed, a configurable rule fails as R54 to R56 say. -/
theorem passes_eq_false_iff (s : State) (r : Record) (h : r.fieldsOk s.plan.n = true)
    (hfix : ∀ x, ¬ fixedFails s r x) (hap : SettledApart s)
    (hes : EntriesSound s)
    (hpar : ∀ k, r.kind = .offsetSet → r.scale = some k → ∃ p, (s.scale k).parent = some p ∧ (s.scale p).kind = .civil)
    (c : CfgRule) : c.passes s r = false ↔ cfgFails s r c := by
  have k1 := hfix .kindMismatch
  have k2 := hfix .tooLate
  have turnpos : ∀ t, r.turn = some t → 1 ≤ t := by
    intro t ht
    by_contra hc
    apply k2
    exact Or.inl ⟨t, ht, by unfold startsTooSoon; omega⟩
  unfold Record.fieldsOk scaleFieldOk at h
  cases ht : r.turn with
  | none =>
    simp [CfgRule.passes, ht, cfgFails]
  | some t =>
    have htp := turnpos t ht
    cases hk : r.scale with
    | none => cases hkind : r.kind <;> simp [hkind, ht, hk] at h
    | some k =>
      -- the dated form
      have hform : ∀ kd, r.kind = kd → kd ≠ .custody → kd ≠ .withdraw → ∀ f,
          calendar (projectedCount s r t) = some f ↔ datedBefore s k t f := by
        intro kd hkd hn1 hn2 f
        rw [calendar_eq_some_iff]
        unfold datedBefore projectedCount
        simp only [hk, Option.getD_some]
        cases hsk : (s.scale k).kind with
        | undefined => exfalso; apply k1; unfold fixedFails; refine ⟨k, hk, ?_⟩; rw [hsk, hkd]; cases kd <;> simp_all
        | civil =>
          have hfam : s.family k = some k := by simp [State.family, hsk]
          rw [hfam, Option.getD_some, projectedLag_eq_lagBefore s r k t (by simp [State.familyOf, hk, hfam]) htp]
          simp
        | localScale =>
          have hoff : r.kind = .offsetSet := by
            by_contra hh; apply k1; unfold fixedFails; refine ⟨k, hk, ?_⟩; rw [hsk, hkd]; cases kd <;> simp_all
          obtain ⟨p, hp, -⟩ := hpar k hoff hk
          have hfam : s.family k = some p := by simp [State.family, hsk, hp]
          have hfr : s.familyOf r = some p := by simp [State.familyOf, hk, hfam]
          rw [hfam, Option.getD_some, projectedLag_eq_lagBefore s r p t hfr htp]
          have ho := offsetBefore_projectedOffset s r k t p hfr hfam htp hes
          simp
          constructor
          · intro hd; exact ⟨p, hp, _, ho, hd⟩
          · rintro ⟨p', hp', v, hv, hd⟩
            rw [hp] at hp'; cases hp'
            rw [offsetBefore_unique s k t p _ v hfam hap ho hv]; exact hd
      have hnone : ∀ kd, r.kind = kd → kd ≠ .custody → kd ≠ .withdraw →
          calendar (projectedCount s r t) = none → ∀ f, ¬ datedBefore s k t f := by
        intro kd a b c' d f hf; rw [← hform kd a b c' f, d] at hf; simp at hf
      cases c
      · -- monthEnd
        cases hkind : r.kind <;> simp [CfgRule.passes, CfgRule.appliesTo, cfgFails, hk, ht, hkind]
        all_goals
          unfold monthEndOk
          cases hc : calendar (projectedCount s r t) with
          | none => simp; intro f hf; exact absurd hf (hnone _ hkind (by simp) (by simp) hc f)
          | some f =>
            have hd := (hform _ hkind (by simp) (by simp) f).1 hc
            have huniq : ∀ g, datedBefore s k t g → g = f := by
              intro g hg; rw [← hform _ hkind (by simp) (by simp) g, hc] at hg; exact (Option.some.inj hg).symm
            have hdf := (calendar_eq_some_iff _ _).1 hc
            have hday : 1 ≤ f.day := hdf.2.2.1
            have hall : ∀ P : CalForm → Prop, (∀ g, datedBefore s k t g → P g) ↔ P f :=
              fun P => ⟨fun h => h f hd, fun h g hg => huniq g hg ▸ h⟩
            rw [hall]
            have hend : (match monthOf f with | some (_, last) => last | none => false) = true ↔ endsMonth f := by
              unfold endsMonth
              constructor
              · intro hh
                cases hm : monthOf f with
                | none => rw [hm] at hh; simp at hh
                | some ml =>
                  obtain ⟨m, l⟩ := ml
                  rw [hm] at hh; simp at hh; subst hh
                  have := (monthOf_eq_some_iff f m true hday).1 hm
                  exact ⟨m, this.1, by simpa using this.2.symm⟩
              · rintro ⟨m, hm, he⟩
                rw [(monthOf_eq_some_iff f m true hday).2 ⟨hm, by simp [he]⟩]
            rw [← hend]
            cases hm : monthOf f with
            | none => simp [monthEndSecond, hkind, hm]
            | some ml => obtain ⟨m, l⟩ := ml; cases l <;> simp [monthEndSecond, hkind, hm]
      · cases hkind : r.kind <;> simp [CfgRule.passes, CfgRule.appliesTo, cfgFails, hk, ht, hkind]
        all_goals
          unfold halfYearOk
          cases hc : calendar (projectedCount s r t) with
          | none => simp; intro f hf; exact absurd hf (hnone _ hkind (by simp) (by simp) hc f)
          | some f =>
            have hd := (hform _ hkind (by simp) (by simp) f).1 hc
            have huniq : ∀ g, datedBefore s k t g → g = f := by
              intro g hg; rw [← hform _ hkind (by simp) (by simp) g, hc] at hg; exact (Option.some.inj hg).symm
            have hdf := (calendar_eq_some_iff _ _).1 hc
            have hday : 1 ≤ f.day := hdf.2.2.1
            have hall : ∀ P : CalForm → Prop, (∀ g, datedBefore s k t g → P g) ↔ P f :=
              fun P => ⟨fun h => h f hd, fun h g hg => huniq g hg ▸ h⟩
            rw [hall]
            simp
            have hin : ∀ m, inMonth f m ↔ ∃ l, monthOf f = some (m, l) := by
              intro m
              constructor
              · intro h; exact ⟨_, (monthOf_eq_some_iff f m _ hday).2 ⟨h, rfl⟩⟩
              · rintro ⟨l, h⟩; exact ((monthOf_eq_some_iff f m l hday).1 h).1
            rw [hin, hin]
            cases hm : monthOf f with
            | none => simp
            | some ml => obtain ⟨m, l⟩ := ml; simp
      · cases hkind : r.kind <;> simp [CfgRule.passes, CfgRule.appliesTo, cfgFails, hk, ht, hkind, Kind.scheduled, leadOk] <;>
          first | omega | (simp [hkind, ht] at h)
      · cases hkind : r.kind <;> simp [CfgRule.passes, CfgRule.appliesTo, cfgFails, hk, ht, hkind, Kind.scheduled, leadOk] <;>
          first | omega | (simp [hkind, ht] at h)
      · cases hkind : r.kind <;> simp [CfgRule.passes, CfgRule.appliesTo, cfgFails, hk, ht, hkind]
        obtain ⟨p, hp, hpc⟩ := hpar k hkind hk
        have hsk : (s.scale k).kind = .localScale := by
          by_contra hh; apply k1; exact ⟨k, hk, by simp [hkind, hh]⟩
        have hfam : s.family k = some p := by simp [State.family, hsk, hp]
        have hfr : s.familyOf r = some p := by simp [State.familyOf, hk, hfam]
        have ho := offsetBefore_projectedOffset s r k t p hfr hfam htp hes
        unfold offsetStepOk
        cases hv : r.value with
        | none => simp [hkind, hv] at h
        | some v =>
          simp [hk]
          constructor
          · intro hlt; exact ⟨_, ho, hlt⟩
          · rintro ⟨o, ho', hlt⟩; rw [offsetBefore_unique s k t p _ o hfam hap ho ho']; exact hlt
      · cases hkind : r.kind <;> simp [CfgRule.passes, CfgRule.appliesTo, cfgFails, hk, ht, hkind]
        unfold minuteAlignOk
        cases hc : calendar (projectedCount s r t) with
        | none => simp; intro f hf; exact absurd hf (hnone _ hkind (by simp) (by simp) hc f)
        | some f =>
          have hd := (hform _ hkind (by simp) (by simp) f).1 hc
          have huniq : ∀ g, datedBefore s k t g → g = f := by
            intro g hg; rw [← hform _ hkind (by simp) (by simp) g, hc] at hg; exact (Option.some.inj hg).symm
          have hall : ∀ P : CalForm → Prop, (∀ g, datedBefore s k t g → P g) ↔ P f :=
            fun P => ⟨fun h => h f hd, fun h g hg => huniq g hg ▸ h⟩
          rw [hall]
          simp

end Sys2Proof.Machine
end

