-- ==== Sys2Proof/Tests/Slice0.lean ====
section
/-! SUPPORT. The writer's own checks: well-formedness, worked examples of the manual, and states that meet the hypotheses of the statements. -/

namespace Sys2Proof.Tests

open Sys2Proof Sys2Proof.Machine

set_option Elab.async false

/-! ### Small states -/

/-- The state after a command. -/
def after (i : Instr) (s : State) : State :=
  match exec i s with
  | .next t => t
  | .fault _ => s
  | .refused _ => s

/-- The units in their order of the table. -/
def order : BoundaryOrder where
  stages := Stage.all
  passBeforeTest := true

/-- S1 is CIVIL with lag 5 and custodian 0. -/
def civil : Scale := { Scale.undefined with kind := .civil, value := 5, custodian := some 0 }

/-- S2 is a child of S1 at +3,600 with custodian 0. -/
def child : Scale := { Scale.undefined with kind := .localScale, parent := some 1, value := 3600, custodian := some 0 }

/-- A plan for `n` stations with short windows and the configurable rules OFF. -/
def planFor (n : Nat) : Plan :=
  { Plan.reset with
    n := n, e := 4, h := 10, u := 2, s1 := .off, s2 := .off, s3 := .off, s4 := .off, s5 := .off, s6 := .off, adopt := true }

/-- A clock LOCKED at a label. -/
def clockAt (label : Nat) : Clock :=
  { Clock.reset with label := label, tick := 5000000, lock := .locked, run := 4, phased := true }

/-- Station 0 of three, ACTIVE at label 1,000, on a quiet line. -/
def three : State :=
  { State.reset with
    pins := { Pins.reset with att := true }
    clock := clockAt 1000
    plan := planFor 3
    quorum := 2
    scales := #v[civil, child, Scale.undefined, Scale.undefined, Scale.undefined]
    line := { Line.reset with state := .idle, idle := 200 }
    station := { Station.reset with state := .active } }

/-- The part before START, with the scales and plan of `three`. -/
def before : State :=
  { three with
    quorum := 0
    line := Line.reset
    station := Station.reset }

/-- A station alone on its shelf. -/
def lone : State := { three with plan := planFor 1, quorum := 1 }

/-- `three` in a station state. -/
def within (st : StationState) (s : State) : State := { s with station := { s.station with state := st } }

/-- A state with the table holding entries. -/
def holding (es : List Entry) (s : State) : State := s.setEntries es

/-- A state with a slot of the roster. -/
def heard (p : Nat) (st : SlotState) (s : State) : State := s.setSlot p { Slot.absent with state := st }

/-- A record that puts a leap on S1. -/
def leap (p : Nat) (q : Word) (turn : Nat) : Record where
  id := ⟨p, q⟩
  kind := .leapAdd
  scale := some 1
  turn := some turn
  value := none
  target := none

/-- A record that gives S2 another offset. -/
def offset (p : Nat) (q : Word) (turn : Nat) : Record where
  id := ⟨p, q⟩
  kind := .offsetSet
  scale := some 2
  turn := some turn
  value := some 7200
  target := none

/-- A record that gives S1 another custodian. -/
def custody (p : Nat) (q : Word) (c : Nat) : Record where
  id := ⟨p, q⟩
  kind := .custody
  scale := some 1
  turn := none
  value := some c
  target := none

/-- A record that withdraws another. -/
def withdraw (p : Nat) (q : Word) (target : Ident) : Record where
  id := ⟨p, q⟩
  kind := .withdraw
  scale := none
  turn := none
  value := none
  target := some target

/-- A record held PROPOSED with a window. -/
def proposed (r : Record) (set : StationSet) (window : Nat) : Entry where
  toRecord := r
  state := .proposed
  endorsers := set
  flags := []
  window := some window
  stamp := 0
  mark := .none

/-- A record held settled. -/
def settled (r : Record) (st : EntryState) (set : StationSet) : Entry where
  toRecord := r
  state := st
  endorsers := set
  flags := []
  window := none
  stamp := 0
  mark := .none

/-- A frame in transmission with `bits` bit times begun. -/
def sending (f : Frame) (bits : Nat) (s : State) : State :=
  { s with line := { s.line with state := .sending, bitPos := bits, queue := [{ f with inTx := true }] } }

/-- A receiving context with a wait count. -/
def context (origin : RecvOrigin) (source : Option Nat) (expected : Nat) (total : Option Nat) (wait : Nat) : RecvCtx where
  origin := origin
  target := 1
  req := .sent
  source := source
  expected := expected
  total := total
  wait := wait
  tried := 0
  attempts := []
  tallies := Tallies.zero
  serial := 0

/-- A RECEIVING station with a context. -/
def receiving (c : RecvCtx) : State := { within .receiving three with receiving := some c }

/-- A sending context at its first frame. -/
def sendCtx (failed : Nat) : SendCtx where
  snapshot := []
  next := 1
  offer := .due
  failed := failed
  audience := 2
  deferred := 0
  serial := 0

/-- The state after one step. -/
def arrived (s : State) : State :=
  match step s with
  | .next t => t
  | .fault _ => s
  | .refused _ => s

/-- A state with one verdict on its way. -/
def judged (v : PendingVerdict) (s : State) : State := { s with verdicts := [v] }

/-- Two kinds of one level, and one of a higher level. -/
def noticing : State :=
  { three with
    notices :=
      { Notices.reset with
        levels := Notices.reset.levels.set 20 5
        pending := [⟨.secinLost 9, 9, 1⟩, ⟨.stored ⟨0, 0⟩ .leapAdd .line .proposed, 9, 2⟩, ⟨.quench 2 .group 9, 9, 255⟩] } }

/-- An output bound to S1. -/
def runningOutput : Output :=
  { Output.reset with binding := some { scale := 1, presentation := .step, quench := true }, running := true }

/-- A state with output 2 replaced. -/
def withOutput (o : Output) (s : State) : State := { s with outputs := s.outputs.set 2 o }

/-! ### Well-formedness: an ill-formed term for each check -/

theorem test_wf_bad_check_of_a_good_request : (Instr.badCheck [32, 224]).wellFormed = false := by decide
theorem test_wf_edge_without_a_stage : (Instr.secinEdge { order with stages := [.apply] }).wellFormed = false := by decide
theorem test_wf_edge_with_a_stage_twice :
    (Instr.secinEdge { order with stages := .apply :: Stage.all.dropLast }).wellFormed = false := by decide
theorem test_wf_substituted_without_stages :
    (Instr.substitutedBoundary { order with stages := [] }).wellFormed = false := by decide
theorem test_wf_expiry_of_no_station : (Instr.windowExpiry ⟨16, 0⟩).wellFormed = false := by decide
theorem test_wf_raw_frame_too_short :
    (Instr.rxFrameInvalid { cls := 4, sender := 1, kind := 1, length := 11, body := [], check := 0, endMark := true }).wellFormed =
      false := by decide
theorem test_wf_typed_frames_of_wrong_length :
    (Instr.beacon 1 []).wellFormed = false ∧ (Instr.propose 1 ⟨[0, 0, 1], .atOnce⟩).wellFormed = false ∧
    (Instr.propose 1 ⟨[0, 0, 6], .atOnce⟩).wellFormed = false ∧ (Instr.endorse 1 [0, 0]).wellFormed = false ∧
    (Instr.object 1 [0, 0, 0]).wellFormed = false ∧ (Instr.ratify 1 [0, 0, 0]).wellFormed = false ∧
    (Instr.reciteReq 1 []).wellFormed = false ∧ (Instr.recital 1 [1]).wellFormed = false ∧
    (Instr.scaleState 1 [1, 1]).wellFormed = false := by decide
theorem test_wf_good_terms :
    (Instr.badCheck [32, 225]).wellFormed = true ∧ (Instr.secinEdge order).wellFormed = true ∧
    (Instr.windowExpiry ⟨15, 0⟩).wellFormed = true ∧ (Instr.endorse 1 [0, 0, 3]).wellFormed = true := by decide

/-! ### Encodings, byte for byte from the manual -/

/-- The CRC of R63 over the nine digits. -/
theorem test_crc_of_nine_digits : crc16 [0x31, 0x32, 0x33, 0x34, 0x35, 0x36, 0x37, 0x38, 0x39] = 0x29B1 := by
  decide +kernel

/-- An OBJECT frame of R61 and R62: start mark, class 7 - 6, sender, kind 4, length 4. -/
theorem test_frame_header_of_an_object :
    (frameBits 5 (newFrame .object 6 (objectBody ⟨3, 0x100B⟩ .tooLate) none 0)).take 17 =
      [false, false, false, true, false, true, false, true, false, true, false, false, false, false, true, false, false] := by
  decide

theorem test_object_body : objectBody ⟨3, 0x100B⟩ .tooLate = [3, 0x10, 0x0B, 3] := by decide

/-- The frame lengths of chapter 4. -/
theorem test_frame_lengths :
    frameLength (newFrame .reciteReq 1 (reciteReqBody 2) none 0) = 44 ∧
    frameLength (newFrame .propose 2 (proposeBody (leap 0 0 1100)) none 0) = 108 ∧
    frameLength (newFrame .propose 2 (proposeBody (offset 0 0 1100)) none 0) = 132 ∧
    frameLength (newFrame .beacon 3 (beaconBody 0 1 0 0 false) none 0) = 124 := by decide

/-- The proposal 3:4107 of chapter 5 as R62 lays it out. -/
theorem test_propose_body_of_the_leap :
    proposeBody (leap 3 4107 536544005) = [0x10, 0x0B, 1, 1, 0x00, 0x1F, 0xFB, 0x03, 0x05] ∧
    proposeRecord 3 [0x10, 0x0B, 1, 1, 0x00, 0x1F, 0xFB, 0x03, 0x05] = some (leap 3 4107 536544005) := by decide

/-- A SET_WIDTH request of R189 with its check byte. -/
theorem test_request_frame_of_set_width :
    requestFrame (.setWidth 2 1000000) = some [48, 2, 0x0F, 0x42, 0x40, 0x3D] ∧
    readTransaction [48, 2, 0x0F, 0x42, 0x40, 0x3D] = .setWidth 2 1000000 := by decide

/-- The response to a request refused with RANGE (R183). -/
theorem test_response_frame_of_a_refusal :
    responseFrame (refusedPort 48 .range).held = [48, 3, 0, 0, 205] ∧ responseFrame none = [0, 0, 0, 0, 0] := by decide

/-! ### Worked examples of the manual -/

/-- `three` with a tick count, after a SECIN edge. -/
def edgeAt (tick : Nat) (s : State) : State := after (.secinEdge order) { s with clock := { s.clock with tick := tick } }

/-- Label, lock state and accepted run. -/
def lockOf (s : State) : Nat × Lock × Nat := (s.clock.label, s.clock.lock, s.clock.run)

/-- Chapter 1.1, the reference failure: an accepted edge, a spurious one, a substituted boundary. -/
theorem test_reference_failure :
    lockOf (edgeAt 10000020 three) = (1001, .locked, 4) ∧ lockOf (edgeAt 4200000 three) = (1000, .locked, 4) ∧
    lockOf (after (.substitutedBoundary order) { three with clock := { three.clock with tick := 10000100 } }) =
      (1001, .free, 0) := by decide +kernel

/-- Chapter 1.1, the return of the reference: the fourth accepted edge restores LOCKED. -/
theorem test_reference_returns :
    lockOf (edgeAt 9999930 { three with clock := { three.clock with lock := .free, run := 0 } }) = (1001, .free, 1) ∧
    lockOf (edgeAt 9999990 { three with clock := { three.clock with lock := .free, run := 3 } }) = (1001, .locked, 4) := by
  decide +kernel

/-- The leap of chapter 1, in APPLYING, at a label. -/
def atLeap (label : Nat) (s : State) : State :=
  holding [settled (leap 3 4107 536544005) .applying 0b1011] { s with clock := clockAt label }

/-- Chapter 1.4: the second before the inserted one. -/
theorem test_second_before_the_inserted_one :
    (atLeap 536544004 three).calendarForm 1 = some ⟨2016, 366, 23, 59, 59⟩ ∧
    (atLeap 536544004 three).calendarForm 2 = some ⟨2017, 1, 0, 59, 59⟩ := by decide +kernel

/-- Chapter 1.4: the inserted second at the turn. -/
theorem test_inserted_second :
    let s := applyEntry ⟨3, 4107⟩ (atLeap 536544005 three)
    s.calendarForm 1 = some ⟨2016, 366, 23, 59, 60⟩ ∧ s.calendarForm 2 = some ⟨2017, 1, 0, 59, 60⟩ ∧
    s.count 1 = 536543999 ∧ s.count 2 = 536547599 := by decide +kernel

/-- Chapter 1.4: the second after the inserted one, with lag 6 and the entry applied. -/
theorem test_second_after_the_inserted_one :
    let s := applyEntry ⟨3, 4107⟩ (atLeap 536544006 { three with scales := three.scales.set 0 { civil with inserted := true } })
    s.calendarForm 1 = some ⟨2017, 1, 0, 0, 0⟩ ∧ s.calendarForm 2 = some ⟨2017, 1, 1, 0, 0⟩ ∧ (s.scale 1).value = 6 ∧
    s.table.entries = [] := by decide +kernel

/-- Chapter 2.3: 13 scheduled and 2 WITHDRAW entries with U = 2 leave room for a fourteenth; 14 and 1 leave room
for a WITHDRAW alone. -/
theorem test_capacity_with_two_reserved :
    (holding (List.replicate 13 (settled (leap 1 1 1) .ratified 3) ++ List.replicate 2 (proposed (withdraw 1 2 ⟨0, 0⟩) 2 9))
      three).hasRoom .leapAdd = true ∧
    (holding (List.replicate 14 (settled (leap 1 1 1) .ratified 3) ++ [proposed (withdraw 1 2 ⟨0, 0⟩) 2 9]) three).hasRoom
      .offsetSet = false ∧
    (holding (List.replicate 14 (settled (leap 1 1 1) .ratified 3) ++ [proposed (withdraw 1 2 ⟨0, 0⟩) 2 9]) three).hasRoom
      .withdraw = true := by decide +kernel

/-- Chapter 2.6: the order of a table. -/
theorem test_table_order :
    let e (r : Record) (stamp : BitVec 32) : Entry := { proposed r 0 0 with stamp := stamp }
    ((insertEntry (e (offset 2 310 700100000) 4) (insertEntry (e (withdraw 1 77 ⟨0, 0⟩) 3)
      (insertEntry (e (leap 4 9 700000000) 2) (insertEntry (e (custody 0 58 1) 1)
        (insertEntry (e (offset 3 12 700100000) 0) []))))).map fun x => x.id) =
      [⟨0, 58⟩, ⟨1, 77⟩, ⟨4, 9⟩, ⟨2, 310⟩, ⟨3, 12⟩] := by decide +kernel

/-- A frame of a class. -/
def frameOf (cls : Nat) : Frame := newFrame .endorse cls [] none 0

/-- Chapter 4.6: admission with the class reservation. -/
theorem test_queue_admission :
    roomFor (frameOf 5 :: List.replicate 10 (frameOf 4)) 4 = false ∧
    roomFor (frameOf 5 :: List.replicate 10 (frameOf 4)) 6 = true ∧
    roomFor (frameOf 6 :: frameOf 5 :: List.replicate 10 (frameOf 4)) 7 = false ∧
    ((insertFrame (frameOf 6) [frameOf 7, frameOf 6, frameOf 5]).map fun f => f.cls) = [7, 6, 6, 5] := by decide +kernel

/-- A station of the shelf of chapter 5.11, at label 536,000,000. -/
def five (stn : Nat) : State :=
  { three with
    pins := { three.pins with stn := stn }
    clock := clockAt 536000000
    plan := { Plan.reset with n := 5, u := 2 }
    quorum := 3
    scales := three.scales.set 0 { civil with custodian := none }
    table := { Table.reset with nextSeq := 4107 } }

/-- Chapter 5.11, the proposal: OK with identifier 3:4107 and flags [S4]. -/
theorem test_leap_is_proposed :
    let t := after (.proposeLeap 1 1 ⟨536544005, .atOnce⟩) (five 3)
    t.port = Port.answer 16 .ok 0 (.proposal ⟨3, 4107⟩ [.leadAdvise]) ∧ t.table.nextSeq = 4108 ∧
    t.table.entries.map (fun e => (e.endorsers, e.window, e.mark)) = [(8, some 536000030, .proposeQueued)] ∧
    t.notices.pending.map (fun p => p.notice.kind) = [.stored, .flagged] := by decide +kernel

/-- Chapter 5.11, the PROPOSE at station 1. -/
theorem test_leap_is_endorsed :
    let t := after (.propose 3 ⟨proposeBody (leap 3 4107 536544005), .atOnce⟩) (five 1)
    t.table.entries.map (fun e => (e.endorsers, e.window, e.flags)) = [(0b1010, some 536000032, [.leadAdvise])] ∧
    t.line.queue.map (fun f => (f.kind, f.cls, f.body)) = [(.endorse, 4, [3, 0x10, 0x0B])] := by decide +kernel

/-- Chapter 5.11: the endorsement of station 1 is the third at station 3. -/
theorem test_third_endorsement_ratifies :
    let t := after (.endorse 1 [3, 0x10, 0x0B]) (holding [proposed (leap 3 4107 536544005) 0b1001 536000030] (five 3))
    t.table.entries.map (fun e => (e.state, e.endorsers, e.window, e.mark)) = [(.ratified, 0b1011, none, .ratifyQueued)] ∧
    t.line.queue.map (fun f => (f.kind, f.cls, f.body)) = [(.ratify, 5, [3, 0x10, 0x0B, 0, 0x0B])] := by decide +kernel

/-- Chapter 5.11: the RATIFY at station 2 takes over the proposer's set. -/
theorem test_ratify_takes_over_the_set :
    (after (.ratify 3 [3, 0x10, 0x0B, 0, 0x0B]) (holding [proposed (leap 3 4107 536544005) 0b1111 536000032] (five 2))).table.entries.map
      (fun e => (e.state, e.endorsers, e.window)) = [(.ratified, 0b1011, none)] := by decide +kernel

/-- Chapter 5.11: the entry enters APPLYING at turn - H. -/
theorem test_leap_enters_applying :
    (edgeAt 10000000 (holding [settled (leap 3 4107 536544005) .ratified 0b1011]
      { five 0 with clock := clockAt 536540404 })).table.entries.map (fun e => e.state) = [.applying] := by decide +kernel

/-- Station 4 of chapter 7.7 with its source taken. -/
def receiver (expected : Nat) : State :=
  { five 4 with
    clock := clockAt 536100006
    table := { Table.reset with nextSeq := 15520 }
    station := { Station.reset with state := .receiving }
    receiving := some
      { origin := .joining, target := 0, req := .sent, source := some 0, expected := expected, total := some 4, wait := 1,
        tried := 0, attempts := [], tallies := Tallies.zero, serial := 0 } }

/-- Chapter 7.7: 4:15,530 is inserted, and the next sequence becomes 15,531. -/
theorem test_own_record_moves_the_next_sequence :
    let t := after (.recital 0 (recitalBody 2 4 (settled (leap 4 15530 536544005) .ratified 0b10101) 0)) (receiver 2)
    t.table.nextSeq = 15531 ∧ t.table.entries.map (fun e => (e.id, e.state, e.mark)) = [(⟨4, 15530⟩, .ratified, .none)] ∧
    t.receiving.map (fun c => (c.expected, c.wait)) = some (3, 0) := by decide +kernel

/-- Chapter 7.7: the scale state is adopted, and the station becomes ACTIVE. -/
theorem test_scale_state_is_adopted :
    let t := after (.scaleState 0 (scaleStateBody 4 4 536100006 (five 0).scales)) (receiver 4)
    t.station.state = .active ∧ t.receiving = none ∧
    t.notices.pending.map (fun p => p.notice.kind) = [.peerChange, .recitalDone] := by decide +kernel

/-- Chapter 9.4: QA rises; the output goes low and its record is finished. -/
theorem test_quench_around_a_group_input :
    let o := { runningOutput with sp := true, underWay := some { bytes := [0x24], twelfths := 480000 } }
    let t := after (.quenchAssertion .qa) (withOutput o { three with qaCfg := { edge := true, activeLow := false } })
    t.outputs[2] = { o with sp := false, latch := { Latch.clear with group := true } } ∧
    t.notices.pending.map (fun p => p.notice) = [.quench 2 .group 1000] := by decide +kernel

/-- Chapter 9.4: the start after a release sends in full. -/
theorem test_release_at_the_next_start :
    let o := { runningOutput with latch := { Latch.clear with group := true }, releasePending := true }
    let t := edgeAt 10000000 (withOutput o three)
    t.outputs[2].latch = Latch.clear ∧ t.outputs[2].releasePending = false ∧ t.outputs[2].sp = true ∧
    t.outputs[2].underWay.isSome = true := by decide +kernel

/-- OU5 of chapter 10.5, at a boundary. -/
def smeared (label : Nat) (c : SmearCtx) : State :=
  withOutput { runningOutput with binding := some { scale := 1, presentation := .smear 1000, quench := false }, smear := c }
    { atLeap label (five 0) with plan := { Plan.reset with n := 5 } }

/-- The leap of chapter 10.5 in a smear context. -/
def smearLeap : SmearLeap := { add := true, id := ⟨3, 4107⟩, turn := 536544005, period := 10010000 }

/-- Chapter 10.5: the output arms one base second before its window and opens the window with the count. -/
theorem test_smear_arms_and_opens :
    let s := edgeAt 10000000 (smeared 536543003 .absent)
    let t := edgeAt 10000000 (smeared 536543004 (.armed smearLeap))
    s.outputs[2].smear = .armed smearLeap ∧ s.outputs[2].nextPeriod = .ticks 10010000 ∧
    t.outputs[2].smear = .opened smearLeap 1 536543000 := by decide +kernel

/-- Chapter 10.5: second 999 writes BOUNDARY, and second 1,000 loads it. -/
theorem test_smear_closes_its_window :
    let o (k : Nat) (next : Period) : Output :=
      { runningOutput with
        binding := some { scale := 1, presentation := .smear 1000, quench := false }
        smear := .opened smearLeap k 536543000, curPeriod := .ticks 10010000, nextPeriod := next, tick := 10010000 }
    let s := after (.outputSecondStart 2) (withOutput (o 998 (.ticks 10010000)) (atLeap 536544003 (five 0)))
    let t := after (.outputSecondStart 2) (withOutput (o 999 .boundary) (atLeap 536544004 (five 0)))
    s.outputs[2].curPeriod = .ticks 10010000 ∧ s.outputs[2].nextPeriod = .boundary ∧
    t.outputs[2].curPeriod = .boundary ∧ t.outputs[2].smear = .opened smearLeap 1000 536543000 := by decide +kernel

/-! ### States that meet the hypotheses of the statements: configuration and the port -/

theorem test_meets_StepRunsTheFrontCommand :
    ({ three with pending := [.nop, .start] } : State).pending = .nop :: [.start] := rfl

theorem test_meets_IdlePartLetsATickPass :
    three.pending = [] ∧ three.dueEvents = [] ∧
    ({ three with station := { three.station with adoption := .counting 9 0 } } : State).dueEvents = [.adoptionRequest] := by
  decide +kernel

/-- No event is due at the end of a bit time in HUNTING, in TAKING and in SENDING, and a verdict goes before all. -/
theorem test_meets_IdlePartLetsATickPass_in_each_line_state :
    let line (l : LineState) : State :=
      { (sending (frameOf 4) 3 three) with line := { (sending (frameOf 4) 3 three).line with state := l, bits := [false], phase := 79 } }
    (line .hunting).dueEvents = [] ∧ (line .taking).dueEvents = [] ∧ (line .sending).dueEvents = [] ∧
    (line .sending).pins.lrate = 0 ∧ (arrived (line .taking)).line.bits.length = 2 ∧
    (arrived (judged (.line (offset 2 0 1100) (.reject .tooLate)) (within .joining three))).clock.tick = 5000000 := by
  decide +kernel

theorem test_meets_NopAndBadCheckSetTheHeldResponse : noRequest [] ∧ noRequest [99] ∧ noRequest [48, 2] ∧ noRequest [32, 0] := by
  refine ⟨Or.inl rfl, Or.inr ⟨99, [], rfl, Or.inl (by decide)⟩, Or.inr ⟨48, [2], rfl, Or.inr ⟨4, by decide, Or.inl (by decide)⟩⟩,
    Or.inr ⟨32, [0], rfl, Or.inr ⟨0, by decide, Or.inr (by decide)⟩⟩⟩

/-- SET_PLAN with every item at the low end of its range. -/
def lowPlan : PlanArgs where
  n := 1
  b := 1
  e := 2
  h := 2
  d := 1
  u := 0
  s1 := 0
  s2 := 1
  s3 := 2
  s4 := 0
  s5 := 1
  s6 := 2
  lmin := 0
  la := 0
  step := 1
  adopt := 0

/-- SET_PLAN with every item at the high end of its range. -/
def highPlan : PlanArgs :=
  { lowPlan with n := 16, b := 8, e := 120, h := 86400, d := 31, u := 4, lmin := 16777216, la := 16777216, step := 86400, adopt := 1 }

/-- Both ends are taken, and one beyond either end of N is refused. -/
theorem test_meets_SetPlanReplacesTheWholePlan :
    before.station.state = .unconfigured ∧ (after (.setPlan lowPlan) before).plan.h = 2 ∧
    (after (.setPlan highPlan) before).plan.h = 86400 ∧ (after (.setPlan highPlan) before).plan.adopt = true ∧
    after (.setPlan { lowPlan with n := 0 }) before = { before with port := refusedPort 1 .range } ∧
    after (.setPlan { highPlan with n := 17 }) before = { before with port := refusedPort 1 .range } := by decide +kernel

/-- The ends of the ranges of lag, offset, parent and custodian, and one beyond. -/
theorem test_meets_DefineScaleLoadsTheScale :
    ((after (.defineScale 5 1 0 255 15) before).scale 5).value = 255 ∧
    ((after (.defineScale 5 1 0 (BitVec.ofInt 24 (-255)) 255) before).scale 5).custodian = none ∧
    ((after (.defineScale 5 2 1 86400 0) before).scale 5).parent = some 1 ∧
    ((after (.defineScale 1 0 0 0 77) before).scale 1).kind = .undefined ∧
    after (.defineScale 5 1 0 256 15) before = { before with port := refusedPort 2 .range } ∧
    after (.defineScale 5 1 0 0 16) before = { before with port := refusedPort 2 .range } ∧
    after (.defineScale 5 2 5 0 0) before = { before with port := refusedPort 2 .range } ∧
    after (.defineScale 5 2 0 0 0) before = { before with port := refusedPort 2 .range } ∧
    after (.defineScale 0 1 0 0 0) before = { before with port := refusedPort 2 .range } ∧
    after (.defineScale 6 3 0 0 0) before = { before with port := refusedPort 2 .range } := by decide +kernel

theorem test_meets_BindOutputReplacesTheBinding :
    (after (.bindOutput 7 5 2 50000 77 1) before).outputs[7].binding = some { scale := 5, presentation := .smear 50000, quench := true } ∧
    (after (.bindOutput 0 0 1 9 77 0) before).outputs[0].nextWidth = 77 ∧
    (after (.bindOutput 0 255 0 0 77 0) before).outputs[0].curWidth = 1000000 ∧
    after (.bindOutput 0 6 0 0 0 0) before = { before with port := refusedPort 3 .range } ∧
    after (.bindOutput 0 1 2 1001 0 0) before = { before with port := refusedPort 3 .range } ∧
    after (.bindOutput 8 1 0 0 0 0) before = { before with port := refusedPort 3 .range } := by decide +kernel

theorem test_meets_SettingsAreLoadedOnlyUnconfigured :
    three.started ∧ before.station.state = .unconfigured ∧
    (after (.setQuench 1 1 1) before).qbCfg = { edge := true, activeLow := true } ∧
    (after (.setQuench 0 0 1) before).qaCfg = { edge := false, activeLow := true } ∧
    after (.setQuench 2 0 0) before = { before with port := refusedPort 4 .range } ∧
    (after (.setBaseLabel 0xFFFFFFFFFF) before).clock.pendingLabel = some { value := 2 ^ 40 - 1, origin := .setting } ∧
    (after (.setNoticeLevels 0 7) before).notices.threshold = 7 ∧
    (after (.setNoticeLevels 23 0) before).notices.level .secinSpurious = 0 ∧
    after (.setNoticeLevels 24 0) before = { before with port := refusedPort 6 .range } ∧
    after (.setNoticeLevels 1 8) before = { before with port := refusedPort 6 .range } := by decide +kernel

theorem test_meets_StartTakesEffectOrIsRefused : before.station.state = .unconfigured ∧ ∀ c i, ¬ startCheckFails before c i :=
  ⟨rfl, (startFault_none before).1 (by decide +kernel)⟩

/-- A plan that fails checks 3 and 5. -/
def unfit : State :=
  withOutput { Output.reset with binding := some { scale := 1, presentation := .smear 1000, quench := false } }
    { before with scales := before.scales.set 1 { child with custodian := some 3 } }

theorem test_meets_StartTakesEffectOrIsRefused_by_a_failing_check :
    three.started ∧ unfit.station.state = .unconfigured ∧ (∃ i, startCheckFails unfit 3 i) ∧
    (∀ c' < 3, ∀ i, ¬ startCheckFails unfit c' i) :=
  have h : startFault unfit = some (3, [2]) := by decide +kernel
  ⟨by decide, rfl, (startFault_first h).1, (startFault_first h).2⟩

/-- START and its first failing check, as the port answers them. -/
theorem test_start_answers :
    (after .start before).station.state = .joining ∧ (after .start before).quorum = 2 ∧ (after .start before).line.state = .hunting ∧
    after .start three = { three with port := refusedPort 7 .state } := by decide +kernel

/-! ### Local proposals -/

theorem test_meets_ProposalsAreTurnedAwayOrRejected :
    proposalCode (.proposeCustody 1 ⟨3, .atOnce⟩) = some 18 ∧ proposalVerdict (.proposeCustody 1 ⟨3, .stored⟩) ≠ .later ∧ (within .adrift three).station.state ≠ .active ∧ three.station.state = .active ∧
    (∀ r, proposalRecord 0 0 (.proposeCustody 1 ⟨3, .atOnce⟩) = some r → r.fieldsOk three.plan.n = false) ∧
    (∀ r, proposalRecord 0 0 (.proposeLeap 1 3 ⟨1100, .atOnce⟩) = some r → r.fieldsOk three.plan.n = false) := by
  refine ⟨rfl, by decide, by decide, rfl, ?_, ?_⟩
  · intro r h; cases h; decide
  · intro r h; cases h

theorem test_meets_AcceptedProposalIsStoredAndAnnounced :
    proposalCode (.proposeOffset 2 1100 ⟨7200, .atOnce⟩) = some 17 ∧
    proposalVerdict (.proposeOffset 2 1100 ⟨7200, .atOnce⟩) ≠ .later ∧ three.station.state = .active ∧ 2 ≤ three.plan.n ∧
    sequenceFound three 0 ∧ proposalRecord 0 0 (.proposeOffset 2 1100 ⟨7200, .atOnce⟩) = some (offset 0 0 1100) ∧
    (offset 0 0 1100).fieldsOk 3 = true ∧ screen (three.setSeq 0) (offset 0 0 1100) = .accept [] :=
  ⟨rfl, by decide, rfl, by decide, ⟨0, Nat.zero_le _, rfl, by decide, by intro j h; omega⟩, by decide, by decide,
    by decide +kernel⟩

/-- The nearest turn that is not too late, and the one before it. -/
theorem test_meets_ProposalsAreTurnedAwayOrRejected_by_screening :
    screen (three.setSeq 0) (leap 0 0 1017) = .accept [] ∧ screen (three.setSeq 0) (leap 0 0 1016) = .reject .tooLate ∧
    proposalRecord 0 0 (.proposeLeap 1 1 ⟨1016, .atOnce⟩) = some (leap 0 0 1016) ∧ (leap 0 0 1016).fieldsOk 3 = true ∧
    sequenceFound three 0 :=
  ⟨by decide +kernel, by decide +kernel, by decide, by decide, ⟨0, Nat.zero_le _, rfl, by decide, by intro j h; omega⟩⟩

/-- Each fixed rule at the edge of its range (R45 to R52). -/
theorem test_fixed_rules_at_their_edges :
    screen three { leap 0 0 1100 with scale := some 2 } = .reject .kindMismatch ∧
    screen three (leap 2 0 1100) = .reject .notCustodian ∧
    screen three (leap 0 0 34561001) = .reject .tooFar ∧ screen three (leap 0 0 34561000) = .accept [] ∧
    screen (holding [proposed (offset 1 1 1100) 2 1004] three) (leap 0 0 1110) = .reject .spacing ∧
    screen (holding [proposed (offset 1 1 1100) 2 1004] three) (leap 0 0 1111) = .accept [] ∧
    screen three (withdraw 0 0 ⟨1, 1⟩) = .reject .unknownTarget := by decide +kernel

theorem test_fixed_rules_of_the_table :
    screen (holding [proposed (custody 0 5 1) 1 1004] three) (custody 0 5 2) = .reject .duplicateId ∧
    screen (holding ((List.range 14).map fun k => proposed (custody 1 (BitVec.ofNat 16 k) 1) 2 1004) three) (custody 0 5 2) =
      .reject .tableFull ∧
    screen (holding ((List.range 13).map fun k => proposed (custody 1 (BitVec.ofNat 16 k) 1) 2 1004) three) (custody 0 5 2) =
      .accept [] := by decide +kernel

/-- The custodian's slot decides while the custodian is another station (R46). -/
theorem test_custody_lapses_with_an_absent_custodian :
    let s : State := { three with scales := three.scales.set 0 { civil with custodian := some 1 } }
    screen s (leap 0 0 1100) = .accept [] ∧ screen (heard 1 .silent s) (leap 0 0 1100) = .reject .notCustodian := by
  decide +kernel

theorem test_meets_ProposalsAreTurnedAwayOrRejected_by_a_fixed_rule :
    fixedFails three (leap 0 0 1016) .tooLate ∧ ∀ x : Reason, x.code < 3 → ¬ fixedFails three (leap 0 0 1016) x := by
  refine ⟨(inTime_eq_false_iff three _ (by decide)).1 (by decide), ?_⟩
  intro x hx
  cases x <;> first | exact absurd hx (by decide) | skip
  · rw [← kindSuits_eq_false_iff three _ (by decide)]; decide
  · rw [← custodianSuits_eq_false_iff three _ (by decide)]; decide

/-- The offsets of chapter 5.11's shelf with rules S5 and S6 as at reset, S2 having custodian 0. -/
def resetting (turn : Nat) (value : Int) : Record := { offset 0 0 turn with value := some value }

/-- Chapter 3.6, and the configurable rules at the edges of their ranges (R53 to R56). -/
theorem test_configurable_rules_at_their_edges :
    screen (five 1) (leap 3 4107 536544005) = .accept [.leadAdvise] ∧
    screen (five 1) (leap 3 4107 536544006) = .reject .monthEnd ∧
    screen (five 1) { leap 3 4107 536544004 with kind := .leapDrop } = .accept [.leadAdvise] ∧
    screen (five 0) (resetting 536544005 7200) = .accept [.leadAdvise] ∧
    screen (five 0) (resetting 536544006 7200) = .accept [.leadAdvise, .minuteAlign] ∧
    screen (five 0) (resetting 536544005 7201) = .reject .offsetStep := by decide +kernel

/-- A leap in March is flagged HALF_YEAR (R54), a lead of 86,400 passes and one less fails (R55). -/
theorem test_half_year_and_lead_at_their_edges :
    screen (five 1) (leap 3 4107 544320005) = .accept [.halfYear] ∧
    screen { five 1 with clock := clockAt 536457605 } (leap 3 4107 536544005) = .accept [.leadAdvise] ∧
    screen { five 1 with clock := clockAt 536457606 } (leap 3 4107 536544005) = .reject .leadMin := by decide +kernel

/-- Settled transitions of the family move the projected state (R53). -/
theorem test_projected_state_at_its_edges :
    let s (r : Record) : State := holding [settled r .ratified 0b111] (five 0)
    screen (s { resetting 536500000 10000 with id := ⟨1, 1⟩ }) (resetting 536544005 6400) = .accept [.leadAdvise, .minuteAlign] ∧
    screen (s { resetting 536500000 10000 with id := ⟨1, 1⟩ }) (resetting 536544005 6399) = .reject .offsetStep ∧
    screen (s (leap 1 1 536540000)) (resetting 536544006 7200) = .accept [.leadAdvise] ∧
    projectedLag (five 0) 1 1002 [settled (leap 1 1 1000) .ratified 7] = 6 ∧
    projectedLag (five 0) 1 1001 [settled (leap 1 1 1000) .ratified 7] = 5 := by decide +kernel

/-- A merged leap that names a LOCAL scale moves the projected lag of its family (R53). -/
theorem test_projected_lag_counts_every_leap_of_the_family :
    let s := holding [settled { leap 1 1 1000 with scale := some 2 } .ratified 7] (five 0)
    projectedLag s 1 1002 (settledFamily s (leap 0 0 1002)) = 6 ∧
    projectedLag s 1 1001 (settledFamily s (leap 0 0 1001)) = 5 := by decide +kernel

theorem test_meets_ProposalsAreTurnedAwayOrRejected_by_a_configurable_rule :
    (∀ x, ¬ fixedFails (five 1) (leap 3 4107 536544006) x) ∧ SettledApart (five 1) ∧ EntriesSound (five 1) ∧
    cfgFails (five 1) (leap 3 4107 536544006) .monthEnd ∧ (five 1).plan.action .monthEnd = .reject ∧
    cfgFails (five 1) (leap 3 4107 536544006) .leadAdvise ∧ (five 1).plan.action .leadAdvise = .flag := by
  have hf := ((fixedRules_spec (five 1) (leap 3 4107 536544006) (by decide)).2).1 (by decide +kernel)
  have hs : SettledApart (five 1) := by decide
  have he : EntriesSound (five 1) := by decide
  have hc := passes_eq_false_iff (five 1) (leap 3 4107 536544006) (by decide) hf hs he (by intro k h; cases h)
  exact ⟨hf, hs, he, (hc _).1 (by decide +kernel), rfl, (hc _).1 (by decide +kernel), rfl⟩

theorem test_meets_ProposalsAreTurnedAwayOrRejected_by_an_offset :
    (∀ x, ¬ fixedFails (five 0) (resetting 536544005 7201) x) ∧ cfgFails (five 0) (resetting 536544005 7201) .offsetStep ∧
    ((five 0).scale 2).parent = some 1 ∧ ((five 0).scale 1).kind = .civil := by
  have hf := ((fixedRules_spec (five 0) (resetting 536544005 7201) (by decide)).2).1 (by decide +kernel)
  have hc := passes_eq_false_iff (five 0) (resetting 536544005 7201) (by decide) hf (by decide) (by decide)
    (by intro k _ h; cases h; exact ⟨1, by decide⟩)
  exact ⟨hf, (hc _).1 (by decide +kernel), by decide⟩

/-- An own entry under the next sequence moves the sequence on. -/
theorem test_sequence_found_past_an_own_entry :
    sequenceFound (holding [proposed (leap 0 0 1100) 1 1004] three) 1 := by
  refine ⟨1, by decide, rfl, by decide, ?_⟩
  intro j h
  obtain rfl : j = 0 := by omega
  decide

theorem test_meets_LoneStationSettlesItsProposalAtOnce :
    proposalVerdict (.proposeLeap 1 1 ⟨1100, .atOnce⟩) = .atOnce ∧ proposalVerdict (.proposeLeap 1 1 ⟨1100, .stored⟩) = .stored ∧
    lone.station.state = .active ∧ lone.plan.n = 1 ∧ sequenceFound lone 0 ∧
    screen (lone.setSeq 0) (leap 0 0 1100) = .accept [] ∧ (leap 0 0 1100).fieldsOk 1 = true ∧
    screen (lone.setSeq 0) (custody 0 0 0) = .accept [] ∧ (custody 0 0 0).fieldsOk 1 = true :=
  ⟨rfl, rfl, rfl, rfl, ⟨0, Nat.zero_le _, rfl, by decide, by intro j h; omega⟩, by decide +kernel, by decide, by decide +kernel,
    by decide⟩

/-- A lone station that has stored a leap and has its ratification still to make. -/
def storedLeap : State := after (.proposeLeap 1 1 ⟨1100, .stored⟩) lone

/-- A READ_ENTRY between the store and the ratification finds the entry PROPOSED with its window; the next idle step
ratifies it (R85). -/
theorem test_read_entry_between_store_and_ratification :
    (after (.readEntry 0) storedLeap).port =
      Port.answer 33 .ok 0
        (.entry 1 0 storedLeap.table.version (proposed (leap 0 0 1100) 1 (lone.clock.label + lone.plan.e))) ∧
    (after (.readEntry 0) storedLeap).verdicts = [.ratify ⟨0, 0⟩] ∧
    (arrived (after (.readEntry 0) storedLeap)).table.entries = [settled (leap 0 0 1100) .ratified 1] ∧
    (arrived storedLeap).notices.pending.map (fun p => p.notice.kind) = [.stored, .ratified] := by decide +kernel

/-- The two orders end alike where no command falls between. -/
theorem test_stored_then_ratified_is_at_once :
    { arrived storedLeap with pending := [] } = { after (.proposeLeap 1 1 ⟨1100, .atOnce⟩) lone with pending := [] } := by
  decide +kernel

/-- The ratification of a stored entry meets a settled entry within H, a CUSTODY, and an entry that is freed (R31). -/
theorem test_meets_LoneStationSettlesItsProposalAtOnce_by_a_claim :
    let crowded := holding [settled (leap 0 7 1101) .ratified 1, proposed (leap 0 0 1100) 1 1010] lone
    crowded.settledConflicts (leap 0 0 1100) = [⟨0, 7⟩] ∧
    (arrived (judged (.ratify ⟨0, 0⟩) crowded)).table.entries = [settled (leap 0 7 1101) .ratified 1] ∧
    (arrived (judged (.ratify ⟨0, 0⟩) crowded)).notices.pending.map (fun p => p.notice) = [.refused ⟨0, 0⟩ .spacing 0] ∧
    ((arrived (judged (.ratify ⟨0, 0⟩) (holding [proposed (custody 0 0 0) 1 1010] lone))).scale 1).custodian = some 0 ∧
    arrived (judged (.ratify ⟨0, 0⟩) lone) = lone ∧
    arrived (judged (.ratify ⟨0, 0⟩) (holding [proposed (custody 0 0 0) 1 1010] (within .adrift lone))) =
      holding [proposed (custody 0 0 0) 1 1010] (within .adrift lone) := by decide +kernel

/-- Ratifications wait in the order of their stores, ahead of the verdicts. -/
theorem test_claims_wait_in_order :
    (after (.proposeLeap 1 1 ⟨1300, .stored⟩) (judged (.line (offset 2 0 1100) (.accept [])) storedLeap)).verdicts =
      [.ratify ⟨0, 1⟩, .line (offset 2 0 1100) (.accept [])] ∧
    claimNext ⟨0, 1⟩ [.ratify ⟨0, 0⟩, .line (offset 2 0 1100) (.accept [])] =
      [.ratify ⟨0, 0⟩, .ratify ⟨0, 1⟩, .line (offset 2 0 1100) (.accept [])] := by decide +kernel

/-- A lone station whose verdict on a withdrawal meets its target in a state. -/
def withdrawing (st : EntryState) : State :=
  judged (.port 19 (withdraw 0 1 ⟨0, 0⟩) (.accept [])) (holding [settled (leap 0 0 1100) st 1] lone)

theorem test_meets_LoneStationSettlesItsProposalAtOnce_withdraw :
    let s := holding [settled (leap 0 0 1100) .ratified 1] lone
    screen (s.setSeq 1) (withdraw 0 1 ⟨0, 0⟩) = .accept [] ∧
    (after (.proposeWithdraw 0 ⟨0, .atOnce⟩) s).table.entries = [] ∧
    (withdrawing .applying).storeRefusal (withdraw 0 1 ⟨0, 0⟩) = none ∧
    (arrived (withdrawing .applying)).verdicts = [.ratify ⟨0, 1⟩] ∧
    (arrived (arrived (withdrawing .applying))).table.entries = [settled (leap 0 0 1100) .applying 1] ∧
    (arrived (arrived (withdrawing .ratified))).table.entries = [] := by decide +kernel

theorem test_meets_VerdictsActInTheStateTheyMeet :
    proposalVerdict (.proposeOffset 2 1100 ⟨7200, .later⟩) = .later ∧
    (after (.proposeOffset 2 1100 ⟨7200, .later⟩) three).verdicts = [.port 17 (offset 0 0 1100) (.accept [])] ∧
    (after (.proposeOffset 2 1100 ⟨7200, .later⟩) three).table.entries = [] := by decide +kernel

/-- A verdict on a local proposal meets a station that is ACTIVE, LISTENING, or holds the identifier; a reset of the
shelf drops one on a PROPOSE (R58, R88). -/
theorem test_meets_VerdictsActInTheStateTheyMeet_as_they_arrive :
    let own := judged (.port 17 (offset 0 0 1100) (.accept []))
    let other := judged (.line (offset 2 0 1100) (.accept []))
    ((arrived (own three)).find ⟨0, 0⟩).map (fun e => (e.state, e.mark)) = some (.proposed, .proposeQueued) ∧
    arrived (own (within .listening three)) = { within .listening three with port := refusedPort 17 .state } ∧
    (arrived (own (holding [settled (leap 0 0 1100) .ratified 3] three))).port =
      Port.answer 17 .screen Reason.duplicateId.code .none ∧
    ((arrived (other three)).find ⟨2, 0⟩).map (fun e => e.endorsers) = some 5 ∧
    ((arrived (other (within .receiving three))).find ⟨2, 0⟩).map (fun e => e.endorsers) = some 4 ∧
    arrived (after .lreset (other three)) = after .lreset three ∧
    (arrived (judged (.line (leap 2 0 1016) (.reject .tooLate)) three)).line.queue.map (fun f => f.body) = [[2, 0, 0, 3]] := by
  decide +kernel

/-- A withdrawal of an own entry is taken, with class 7. -/
theorem test_withdraw_is_proposed :
    let t := after (.proposeWithdraw 0 ⟨0, .atOnce⟩) (holding [settled (leap 0 0 1100) .ratified 3] three)
    t.line.queue.map (fun f => (f.kind, f.cls)) = [(.propose, 7)] ∧ (t.find ⟨0, 1⟩).map (fun e => e.state) = some .proposed := by
  decide +kernel

/-- A custody proposal is taken, with class 2. -/
theorem test_custody_is_proposed :
    (after (.proposeCustody 1 ⟨2, .atOnce⟩) three).line.queue.map (fun f => (f.kind, f.cls, f.body)) = [(.propose, 2, [0, 0, 4, 1, 2])] := by
  decide +kernel

/-! ### Reads and run requests -/

theorem test_meets_ReadsReturnTheItemsAsTheyStand :
    (after .readStatus three).port.held.isSome = true ∧
    after (.readRoster 15) three = { three with port := Port.answer 35 .ok 0 (.roster 15 Slot.absent) } ∧
    after (.readRoster 16) three = { three with port := refusedPort 35 .range } ∧
    after (.readOutput 8) three = { three with port := refusedPort 36 .range } ∧
    (holding [settled (leap 0 0 1100) .ratified 3] three).table.entries[0]? = some (settled (leap 0 0 1100) .ratified 3) ∧
    after (.readEntry 0) three = { three with port := Port.answer 33 .range 0 (.noEntry 0 0) } := by decide +kernel

/-- READ_ENTRY lays a PROPOSED leap out as R38 gives. -/
theorem test_read_entry_bytes :
    (Data.entry 1 0 7 (proposed (leap 3 4107 536544005) 0b1011 536000032)).bytes =
      [1, 0, 0, 7, 3, 0x10, 0x0B, 1, 1, 1, 0b10011, 0, 0x1F, 0xFB, 0x03, 0x05, 0, 0, 0, 0, 0, 0, 0, 0x0B, 0,
       0, 0x1F, 0xF2, 0xB6, 0x20] := by decide +kernel

theorem test_meets_ReadScaleShowsTheCountOfTheScale :
    (three.scale 1).kind = .civil ∧ (three.scale 2).kind = .localScale ∧ (three.scale 2).parent = some 1 ∧
    (three.scale 3).kind = .undefined ∧ three.count 1 = 995 ∧ three.count 2 = 4595 ∧
    after (.readScale 6) three = { three with port := refusedPort 34 .range } := by decide +kernel

/-- The calendar form shows second 60 while the marker is set, and UNDATED out of range (R16, R17). -/
theorem test_meets_ReadScaleShowsTheCountOfTheScale_with_its_calendar :
    let s := applyEntry ⟨3, 4107⟩ (atLeap 536544005 three)
    let t (label : Nat) : State := { three with clock := clockAt label }
    (s.scaleView 1).calendar = some ⟨2016, 366, 23, 59, 60⟩ ∧ (s.scaleView 1).state = some (5, some 0) ∧
    ((t 4).scaleView 1).calendar = none ∧ ((t 5).scaleView 1).calendar = some ⟨2000, 1, 0, 0, 0⟩ ∧
    ((t 6311433604).scaleView 1).calendar = some ⟨2199, 365, 23, 59, 59⟩ ∧ ((t 6311433605).scaleView 1).calendar = none ∧
    (s.scaleView 3).state = none ∧ (s.scaleView 3).calendar = none := by decide +kernel

/-- A settled leap within D days warns its family, and an undefined scale shows no change record. -/
theorem test_meets_ReadScaleShowsTheCountOfTheScale_with_a_warning :
    let s := holding [settled (offset 1 1 1050) .ratified 3, settled (leap 1 2 1100) .ratified 3] three
    ((s.scaleView 1).warning.map fun w => w.turn) = some 1100 ∧ ((s.scaleView 2).warning.map fun w => w.turn) = some 1100 ∧
    ((s.scaleView 2).offsetPending.map fun w => w.turn) = some 1050 ∧ (s.scaleView 3).warning = none ∧
    (s.scaleView 0).change = none ∧ noticing.attn = true ∧ three.attn = false := by decide +kernel

theorem test_meets_SetWidthWritesTheNextWidth :
    three.started ∧ three.outputs[2].running = false ∧ (withOutput runningOutput three).outputs[2].running = true ∧
    (after (.setWidth 2 0xFFFFFF) (withOutput runningOutput three)).outputs[2].nextWidth = 16777215 ∧
    after (.setWidth 8 1) three = { three with port := refusedPort 48 .range } := by decide +kernel

/-- An output quenched by its group's input, which has gone inactive again. -/
def quenched : State := withOutput { runningOutput with latch := { Latch.clear with group := true } } three

theorem test_meets_ReleaseOutputFollowsItsTable :
    (after (.releaseOutput 2) quenched).outputs[2].releasePending = true ∧
    quenched.quenchAsserted (groupOf 2) = false ∧
    ({ quenched with pins := { quenched.pins with qa := true } } : State).quenchAsserted (groupOf 2) = true ∧
    (after (.releaseOutput 2) (within .adrift quenched)).port = refusedPort 49 .state ∧
    (after (.releaseOutput 2) (within .isolated quenched)).port = refusedPort 49 .state ∧
    (after (.releaseOutput 2) (withOutput runningOutput three)).port = okPort 49 := by decide +kernel

theorem test_meets_NoticesAreTakenByLevelThenNumber :
    three.notices.pending = [] ∧ noticing.notices.pending ≠ [] ∧
    (after .takeNotice noticing).port = Port.answer 64 .ok 0 (.notice 5 ⟨.quench 2 .group 9, 9, 255⟩) ∧
    (after .takeNotice (after .takeNotice noticing)).port =
      Port.answer 64 .ok 0 (.notice 4 ⟨.stored ⟨0, 0⟩ .leapAdd .line .proposed, 9, 2⟩) ∧
    (after .peekNotice noticing).notices = noticing.notices := by decide +kernel

/-- The REFUSED notice gives identifier, reason code and station (R57, R192). -/
theorem test_notice_bytes_of_refused :
    (Data.notice 4 ⟨.refused ⟨3, 0x100B⟩ .tooLate 2, 9, 1⟩).bytes.drop 8 = [3, 0x10, 0x0B, 3, 2] := by decide +kernel

/-- A frame's class goes as 7 - c (R61), and a label offset as 24-bit two's complement (R183, R192). -/
theorem test_notice_bytes_of_a_class_and_an_offset :
    (Data.notice 4 ⟨.txqFull .endorse 4 (some ⟨3, 0x100B⟩), 9, 1⟩).bytes.drop 8 = [3, 3, 3, 0x10, 0x0B] ∧
    labelOffsetBytes (-2) = [0xFF, 0xFF, 0xFE] ∧ labelOffsetBytes 8388607 = [0x7F, 0xFF, 0xFF] ∧
    classByte 7 = [0] := by decide +kernel

/-! ### Pins -/

/-- `three` with a PROPOSED and a settled entry, two frames and one of them in transmission. -/
def busy : State :=
  sending (frameOf 4) 30 (holding [proposed (leap 1 1 1100) 3 1004, settled (leap 1 2 1200) .ratified 3] three)

theorem test_meets_LineResetReachesEveryUnit :
    before.station.state = .unconfigured ∧ busy.started ∧ Quiescent busy ∧
    (after .lreset busy).table.entries.length = 1 ∧ (after .rejoin busy).station.state = .joining ∧
    (after .rejoin (within .isolated busy)).station.state = .isolated := by decide +kernel

/-- A line reset that discards a frame being read begins a bit time (R80; log entry 42). -/
theorem test_line_reset_leaves_taking :
    (after .lreset { three with line := { three.line with state := .taking, phase := 700, bits := [false] } }).line =
      { three.line with state := .hunting, quiet := 0, phase := 0, bits := [] } := by decide +kernel

theorem test_reset_samples_the_straps :
    (after (.reset 9 2) busy).pins = { stn := 9, lrate := 2, att := true, qa := false, qb := false } ∧
    (after (.reset 9 2) busy).table.entries = [] := by decide +kernel

theorem test_meets_AttMovesTheStationByItsState :
    three.pins.att = true ∧ three.station.state = .active ∧ (after (.attChange false) three).station.state = .listening ∧
    (after (.attChange true) { within .listening three with pins := Pins.reset }).station.state = .joining ∧
    (after (.attChange true)
      { three with pins := Pins.reset, station := { Station.reset with state := .listening, history := [.won, .won] } }).station.state =
      .active := by decide +kernel

theorem test_meets_QuenchInputsActOnTheirGroup :
    before.station.state = .unconfigured ∧ three.started ∧ three.quenchActive .qa = false ∧ groupOf 3 = .qa ∧ groupOf 4 = .qb ∧
    (withOutput runningOutput three).outputs[2].running = true ∧
    (after (.quenchInputInactive .qa) { three with pins := { three.pins with qa := true } }).pins.qa = false := by decide +kernel

/-! ### The Base Clock, windows and the table at a boundary -/

/-- `three` with a clock of a tick count, and not yet phased. -/
def unphased : State := { three with clock := { Clock.reset with tick := 7 } }

/-- The ends of the acceptance window, and the first edge after a full reset. -/
theorem test_meets_EdgesAndSubstitutedBoundariesEndTheSecond :
    three.clock.phased = true ∧ lockOf (edgeAt 9999900 three) = (1001, .locked, 4) ∧
    lockOf (edgeAt 10000100 three) = (1001, .locked, 4) ∧ unphased.clock.phased = false ∧
    lockOf (after (.secinEdge order) unphased) = (1, .free, 1) ∧
    (edgeAt 10000000 { three with clock := { three.clock with pendingLabel := some { value := 5, origin := .setting } } }).clock.label
      = 5 := by decide +kernel

/-- `three` in FREE, with a capture record. -/
def capturing (run elapsed : Nat) : State :=
  { three with clock := { three.clock with lock := .free, run := 1, capRun := run, capElapsed := elapsed, tick := 9999899 } }

theorem test_meets_SpuriousEdgeFeedsRecapture :
    lockOf (edgeAt 9999899 three) = (1000, .locked, 4) ∧
    (after (.secinEdge order) (capturing 0 0)).clock.capRun = 1 ∧
    (after (.secinEdge order) (capturing 2 9999899)).clock.capRun = 1 ∧
    (after (.secinEdge order) (capturing 2 9999900)).clock.capRun = 3 ∧
    lockOf (after (.secinEdge order) (capturing 3 10000100)) = (1001, .free, 1) ∧
    (after (.secinEdge order) (capturing 3 10000101)).clock.capRun = 1 := by decide +kernel

theorem test_meets_EdgesAndSubstitutedBoundariesEndTheSecond_substituted :
    10000100 ≤ ({ three with clock := { three.clock with tick := 10000100 } } : State).clock.tick ∧
    after (.substitutedBoundary order) { three with clock := { three.clock with tick := 10000099 } } =
      { three with clock := { three.clock with tick := 10000099 } } := by decide +kernel

/-- `three` with an adoption of 1,090 pending and a leap RATIFIED for a turn. -/
def adopting (turn : Nat) : State :=
  holding [settled (leap 1 1 turn) .ratified 3]
    { three with
      clock := { three.clock with tick := 10000000, pendingLabel := some { value := 1090, origin := .adoption } } }

/-- A DIVERGENT slot with an offset. -/
def divergentSlot (d : Int) : Slot where
  state := .divergent
  silence := 0
  record := some { label := 1000, offset := d, digest := 0, agrees := true, planDigest := 0, state := .active, busy := false }
  age := 0

/-- Turn - H at the value blocks, and one above it does not. -/
theorem test_meets_AdoptionIsTestedAgainstTheTable :
    (after (.secinEdge order) (adopting 1100)).clock.label = 1001 ∧ (after (.secinEdge order) (adopting 1101)).clock.label = 1090 ∧
    (∃ e ∈ (adopting 1100).table.entries, e.state = .ratified ∧ e.turn = some 1100) ∧
    (∀ e ∈ (adopting 1101).table.entries, e.state ≠ .applying) := by decide +kernel

/-- A substituted boundary takes the adoption too; the station's jump moves the offsets of its roster. -/
theorem test_meets_AdoptionIsTestedAgainstTheTable_at_a_substituted_boundary :
    let s : State := { (adopting 1101).setSlot 2 (divergentSlot 89) with plan := { planFor 3 with b := 4 } }
    let u : State := { within .adrift s with clock := { s.clock with tick := 10000100 } }
    makesBoundary u (.substitutedBoundary order) ∧ 1090 % u.plan.b ≠ 0 ∧
    (after (.substitutedBoundary order) u).clock.label = 1090 ∧
    (after (.substitutedBoundary order) u).station.state = .joining ∧
    ((after (.substitutedBoundary order) u).slot 2).state = .present := by
  unfold makesBoundary
  decide +kernel

/-- A state in which SET_BASE_LABEL awaits the boundary. -/
def setTo (v : Nat) (s : State) : State :=
  { s with clock := { s.clock with pendingLabel := some { value := v, origin := .setting } } }

/-- A PROPOSED entry with an ENDORSE queued for it. -/
def awaiting (window : Nat) : State :=
  { holding [proposed (leap 1 1 1100) 3 window] three with
    line := { three.line with queue := [newFrame .endorse 4 (endorseBody ⟨1, 1⟩) (some ⟨1, 1⟩) 0] } }

theorem test_meets_WindowExpiryFreesTheEntry :
    (after (.windowExpiry ⟨1, 1⟩) (awaiting 1000)).table.entries = [] ∧
    (after (.windowExpiry ⟨1, 1⟩) (awaiting 1000)).line.queue = [] ∧
    after (.windowExpiry ⟨1, 1⟩) (awaiting 1001) = awaiting 1001 ∧
    ((awaiting 1001).find ⟨1, 1⟩).map (fun e => e.window) = some (some 1001) := by decide +kernel

/-- At a boundary a window of 1,001 ends, one of 1,002 stands, and a set label moves both. -/
theorem test_meets_WindowExpiryFreesTheEntry_at_a_boundary :
    (edgeAt 10000000 (awaiting 1001)).table.entries = [] ∧
    ((edgeAt 10000000 (awaiting 1002)).find ⟨1, 1⟩).map (fun e => e.window) = some (some 1002) ∧
    ((edgeAt 10000000 (setTo 50 (awaiting 1002))).find ⟨1, 1⟩).map (fun e => e.window) = some (some 51) := by
  decide +kernel

/-- An own PROPOSED and an own settled entry whose announcements are due, and an own CUSTODY at Q endorsers. -/
def owing : State :=
  holding
    [proposed (custody 0 2 0) 3 1050, { proposed (leap 0 0 1100) 1 1050 with mark := .proposeDue },
      { settled (leap 0 1 1200) .ratified 3 with mark := .ratifyDue }] three

theorem test_meets_OwedWorkIsDoneAtABoundary :
    TableBounded owing ∧ (edgeAt 10000000 owing).station.state = .active ∧
    (edgeAt 10000000 owing).table.entries.map (fun e => e.mark) = [.proposeQueued, .ratifyQueued] :=
  ⟨by decide, by decide +kernel, by decide +kernel⟩

theorem test_meets_OwedWorkIsDoneAtABoundary_in_the_queue :
    (edgeAt 10000000 owing).line.queue.any (fun f => f.kind == .propose) = true ∧
    (edgeAt 10000000 owing).line.queue.countP (fun f => f.kind == .ratify) = 2 := by decide +kernel

theorem test_meets_OwedWorkIsDoneAtABoundary_in_recitals :
    (edgeAt 10000000 { owing with sending := some { sendCtx 1 with offer := .due } }).sending.map (fun c => c.offer) =
      some .queued ∧
    ((edgeAt 10000000 { three with receiving := some { context .discord none 1 none 0 with req := .due } }).receiving.map
      fun c => (c.req, c.wait)) = some (.queued, 1) := by decide +kernel

/-- With a full queue the announcements stay due, and a recital counts its failed offer. -/
theorem test_meets_OwedWorkIsDoneAtABoundary_without_room :
    let full (k : Nat) : State :=
      { owing with
        line := { owing.line with queue := List.replicate 12 (frameOf 7) }
        sending := some { sendCtx k with offer := .due } }
    ((edgeAt 10000000 (full 2)).find ⟨0, 0⟩).map (fun e => e.mark) = some .proposeDue ∧
    (edgeAt 10000000 (full 2)).sending.map (fun c => c.failed) = some 3 ∧
    (edgeAt 10000000 (full 3)).sending = none ∧
    (edgeAt 10000000 (full 2)).notices.pending.any (fun p => p.notice.kind == .txqFull) = true := by decide +kernel

/-- The three scheduled kinds at their turns. -/
theorem test_meets_TransitionsActAtTheirTurns :
    (holding [settled (leap 1 1 1000) .applying 3] three).find ⟨1, 1⟩ = some (settled (leap 1 1 1000) .applying 3) ∧
    ((applyEntry ⟨1, 1⟩ (holding [settled (leap 1 1 1000) .applying 3] three)).scale 1).inserted = true ∧
    ((applyEntry ⟨1, 1⟩ (holding [settled (leap 1 1 999) .applying 3] three)).scale 1).value = 6 ∧
    ((applyEntry ⟨1, 1⟩ (holding [settled { leap 1 1 1000 with kind := .leapDrop } .applying 3] three)).scale 1).value = 4 ∧
    ((applyEntry ⟨1, 1⟩ (holding [settled (offset 1 1 1000) .applying 3] three)).scale 2).value = 7200 := by decide +kernel

/-- A RATIFIED entry enters APPLYING at turn - H, and the WITHDRAW that names it lapses; at the limit the lag stays. -/
theorem test_meets_TransitionsActAtTheirTurns_before_and_at_the_limit :
    (applyEntry ⟨1, 1⟩ (holding [settled (leap 1 1 1010) .ratified 3, proposed (withdraw 2 0 ⟨1, 1⟩) 4 1004] three)).table.entries =
      [settled (leap 1 1 1010) .applying 3] ∧
    applyEntry ⟨1, 1⟩ (holding [settled (leap 1 1 1011) .ratified 3] three) = holding [settled (leap 1 1 1011) .ratified 3] three ∧
    ((applyEntry ⟨1, 1⟩ (holding [settled (leap 1 1 1000) .applying 3]
      { three with scales := three.scales.set 0 { civil with value := 255 } })).scale 1).insertRefused = true ∧
    ((applyEntry ⟨1, 1⟩ (holding [settled { leap 1 1 1000 with kind := .leapDrop } .applying 3]
      { three with scales := three.scales.set 0 { civil with value := -255 } })).scale 1).value = -255 := by decide +kernel

theorem test_meets_BoundariesMakeThePass :
    let t := edgeAt 10000000 (holding [settled (leap 1 1 1001) .applying 3] three)
    let u := edgeAt 10000000 (holding [settled (leap 1 1 1000) .applying 3] three)
    makesBoundary { three with clock := { three.clock with tick := 10000000 } } (.secinEdge order) ∧ three.started ∧
    TableBounded (holding [settled (leap 1 1 1001) .applying 3] three) ∧
    (t.scale 1).inserted = true ∧ t.report.applying[0] = some (leap 1 1 1001) ∧ (u.scale 1).value = 6 ∧
    ((edgeAt 10000000 (holding [settled (offset 1 1 1001) .applying 3] three)).scale 2).value = 7200 := by
  unfold makesBoundary
  decide +kernel

/-! ### The Station Controller and the Recital Unit -/

/-- A slot with a silence count. -/
def silentFor (n : Nat) : State := three.setSlot 2 { Slot.absent with state := .present, silence := n }

theorem test_meets_SilenceCountsChangeTheSlot :
    ((after (.peerSilence 2) (silentFor 2)).slot 2).state = .present ∧ ((after (.peerSilence 2) (silentFor 3)).slot 2).state = .silent ∧
    ((after (.peerSilence 2) (silentFor 7)).slot 2).state = .silent ∧ ((after (.peerSilence 2) (silentFor 8)).slot 2) = Slot.absent := by
  decide +kernel

/-- The counts at a beacon time, from 2 to SILENT and from 7 to ABSENT. -/
theorem test_meets_SilenceCountsChangeTheSlot_at_a_beacon_time :
    ((edgeAt 10000000 (silentFor 1)).slot 2).state = .present ∧ ((edgeAt 10000000 (silentFor 2)).slot 2).state = .silent ∧
    ((edgeAt 10000000 (silentFor 7)).slot 2) = Slot.absent := by decide +kernel

/-- A PRESENT slot whose record shows ACTIVE. -/
def activeSlot : Slot where
  state := .present
  silence := 0
  record := some { label := 1000, offset := 0, digest := 0, agrees := true, planDigest := 0, state := .active, busy := false }
  age := 0

/-- A PRESENT slot whose record disagrees with the digest. -/
def discordant : Slot := { activeSlot with record := activeSlot.record.map fun r => { r with agrees := false } }

/-- Two stations against this one, by plan, by label and by digest, and the outputs that follow. -/
theorem test_meets_BeaconTimeEvaluatesTheShelf :
    let two (sl : Slot) : State := (withOutput runningOutput three).setSlot 1 sl |>.setSlot 2 sl
    let plan := edgeAt 10000000 (two { activeSlot with state := .mismatched })
    let label := edgeAt 10000000 { two (divergentSlot 7) with plan := { planFor 3 with adopt := true } }
    let lost := edgeAt 10000000 { two discordant with station := { three.station with history := [.lost] } }
    (three.clock.label + 1) % three.plan.b = 0 ∧
    plan.station.state = .isolated ∧ plan.outputs[2].latch.isolated = true ∧
    label.station.state = .adrift ∧ label.station.adoption = .waiting 7 ∧ label.outputs[2].latch.adrift = true ∧
    lost.receiving.map (fun c => (c.origin, c.target)) = some (.discord, 1) ∧ lost.station.history = [] ∧
    (edgeAt 10000000 { two discordant with station := { three.station with history := [.won] } }).station.history = [.won, .lost] := by
  decide +kernel

/-- A JOINING station counts its beacon times and founds or asks at the third, and an ADRIFT one that is not outvoted
joins. -/
theorem test_meets_BeaconTimeEvaluatesTheShelf_in_joining :
    let joining (k : Nat) : State := { three with station := { Station.reset with state := .joining, listen := k } }
    (edgeAt 10000000 (joining 1)).station.listen = 2 ∧ (edgeAt 10000000 (joining 2)).station.state = .active ∧
    (edgeAt 10000000 ((joining 2).setSlot 1 activeSlot)).station.state = .receiving ∧
    (edgeAt 10000000 (within .adrift three)).station.state = .joining ∧
    (edgeAt 10000000 three).line.queue.map (fun f => (f.kind, field f.body 0 5, field f.body 5 1)) = [(.beacon, 1001, 3)] := by
  decide +kernel

/-- A JOINING station that has taken three beacon times. -/
def listened : State := { three with station := { Station.reset with state := .joining, listen := 3 } }

theorem test_meets_ListeningEndsByRecitalOrFounding :
    listened.receiving = none ∧ ((listened.setSlot 1 activeSlot).slot 1).activePeer = true ∧
    (after .endOfListening (listened.setSlot 1 activeSlot)).station.state = .receiving ∧
    (∀ p : Fin 16, (listened.slot p.val).activePeer = false) ∧ (after .endOfListening listened).station.state = .active ∧
    after .endOfListening three = three := by decide +kernel

theorem test_meets_AdoptionIsRequestedAtZero :
    (after .adoptionRequest { three with station := { three.station with adoption := .counting 9 0 } }).station.adoption = .requested 9 ∧
    after .adoptionRequest three = three := by decide +kernel

theorem test_meets_AdoptionIsRequestedAtZero_at_a_boundary :
    let counting (k : Nat) : State :=
      { three with plan := { planFor 3 with b := 4 }, station := { three.station with adoption := .counting 9 k } }
    nextLabel (counting 2) % (counting 2).plan.b ≠ 0 ∧
    (edgeAt 10000000 (counting 2)).station.adoption = .counting 9 1 ∧
    (edgeAt 10000000 (counting 1)).clock.pendingLabel = some { value := 9, origin := .adoption } := by decide +kernel

theorem test_meets_RecitalsTimeOutAndAreAbandoned :
    ((after .recitalTimeout ((receiving (context .joining none 1 none 4)).setSlot 2 activeSlot)).receiving.map fun c => c.target) =
      some 2 ∧
    (after .recitalTimeout (receiving (context .joining none 1 none 4))).station.state = .joining ∧
    after .recitalTimeout (receiving (context .joining none 1 none 3)) = receiving (context .joining none 1 none 3) ∧
    (after .recitalAbandon { three with sending := some (sendCtx 4) }).sending = none ∧
    (after .recitalAbandon { three with sending := some (sendCtx 3) }).sending = some (sendCtx 3) ∧
    (after .recitalAbandon { within .adrift three with sending := some (sendCtx 0) }).sending = none := by decide +kernel

/-! ### The line -/

theorem test_meets_LineSynchronisesBeginsAndDefers :
    (after .lineSynchronised { three with line := { Line.reset with state := .hunting, quiet := 11 } }).line.idle = 8 ∧
    (after .lineSynchronised { three with line := { Line.reset with state := .hunting, quiet := 10 } }).line.state = .hunting ∧
    (after .frameDefer three).line.state = .taking := by decide +kernel

/-- A RECITE_REQ at the head, with an idle count. -/
def waiting (idle : Nat) : State :=
  { three with line := { three.line with idle := idle, queue := [newFrame .reciteReq 1 [1] none 0] } }

/-- A frame of class 1 at station 0 has the gap 104. -/
theorem test_meets_LineSynchronisesBeginsAndDefers_at_the_gap :
    (after .frameBegin (waiting 104)).line.state = .sending ∧ after .frameBegin (waiting 103) = waiting 103 ∧
    (after .frameBegin (within .listening (waiting 104))).line.queue = [] := by decide +kernel

theorem test_meets_SentFrameLeavesTheQueue :
    (sending (frameOf 4) 37 three).line.queue.find? (fun x => x.inTx) = some { frameOf 4 with inTx := true } ∧
    (after .frameSent (sending (frameOf 4) 37 three)).line.queue = [] ∧
    after .frameSent (sending (frameOf 4) 36 three) = sending (frameOf 4) 36 three ∧
    ((after .frameSent (sending (newFrame .reciteReq 1 [1] none 0) 45 (receiving { context .joining none 1 none 0 with req := .queued }))).receiving.map
      fun c => c.req) = some .sent ∧
    (after .frameSent (sending (newFrame .recital 0 [1, 2] none 0) 53 { three with sending := some { sendCtx 0 with snapshot := [⟨1, 1⟩] } })).sending.map
      (fun c => c.next) = some 2 ∧
    (after .frameSent (sending (newFrame .scaleState 0 [] none 0) 37 { three with sending := some (sendCtx 0) })).sending = none := by
  decide +kernel

/-- A frame that a line reset removed tells nobody; an owed PROPOSE leaves mark NONE; a SCALE_STATE begins the recital
of a deferred audience. -/
theorem test_meets_SentFrameLeavesTheQueue_and_its_unit_is_told :
    let s := holding [{ proposed (leap 0 0 1100) 1 1050 with mark := .proposeQueued }] three
    let f := newFrame .propose 4 (proposeBody (leap 0 0 1100)) (some ⟨0, 0⟩) 0
    ((after .frameSent (sending f 109 s)).find ⟨0, 0⟩).map (fun e => e.mark) = some .none ∧
    ((after .frameSent (sending { f with removal := .silent } 109 s)).find ⟨0, 0⟩).map (fun e => e.mark) = some .proposeQueued ∧
    (after .frameSent (sending (newFrame .scaleState 0 [] none 0) 37
      { s with sending := some { sendCtx 0 with deferred := 6 } })).sending.map (fun c => (c.snapshot, c.audience, c.offer)) =
        some ([⟨0, 0⟩], 6, .queued) ∧
    (after .frameSent (sending (newFrame .scaleState 0 [] none 5) 37 { s with sending := some (sendCtx 0) })).sending =
      some (sendCtx 0) := by decide +kernel

/-- Bit 1 is driven; bit 5 of station 5's frame is released; the end mark begins at bit 34 of an empty body. -/
theorem test_meets_ClashStopsTheFrameAndEightAbandonIt :
    (after .clash (sending (frameOf 4) 1 three)).line.state = .hunting ∧ (after .clash (sending (frameOf 4) 4 three)).line.state = .taking ∧
    (after .clash (sending (frameOf 4) 34 three)).line.state = .hunting ∧
    (after .clash (sending (frameOf 4) 4 three)).line.queue.map (fun f => f.clash) = [1] ∧
    (after .clash (sending { frameOf 4 with clash := 7 } 4 three)).line.queue = [] ∧
    (after .clash (sending { frameOf 4 with removal := .marked } 4 three)).line.queue = [] ∧
    (after .frameAbandoned { three with line := { three.line with queue := [{ frameOf 4 with clash := 8 }] } }).line.queue = [] := by
  decide +kernel

/-- A unit learns that its frame did not leave the line: ABANDONED at the eighth clash, by CLASH or FRAME_ABANDONED, and
at a standing count of 8; PURGED where the frame is marked. -/
theorem test_meets_ClashStopsTheFrameAndEightAbandonIt_and_its_unit_is_told :
    let s := holding [{ proposed (leap 0 0 1100) 1 1050 with mark := .proposeQueued }] three
    let f := { newFrame .propose 4 (proposeBody (leap 0 0 1100)) (some ⟨0, 0⟩) 0 with clash := 7 }
    let recital := { newFrame .recital 0 [1, 2] none 0 with clash := 7 }
    let giving (n : Nat) : State := { three with sending := some (sendCtx n) }
    let mark (t : State) : Option Mark := (t.find ⟨0, 0⟩).map fun e => e.mark
    mark (after .clash (sending f 4 s)) = some .proposeDue ∧
    after .frameAbandoned (sending f 4 s) = after .clash (sending f 4 s) ∧
    (after .frameAbandoned (sending f 4 s)).notices.pending.map (fun p => p.notice.kind) = [.lineFault] ∧
    mark (after .frameAbandoned { s with line := { s.line with queue := [{ f with clash := 8 }] } }) = some .proposeDue ∧
    mark (after .clash (sending { f with removal := .silent } 4 s)) = some .proposeQueued ∧
    ((after .clash (sending recital 4 (giving 0))).sending.map fun c => (c.offer, c.failed)) = some (.due, 1) ∧
    (after .clash (sending recital 4 (giving 3))).sending = none ∧
    (after .clash (sending { recital with removal := .marked } 4 (giving 0))).sending = none ∧
    after .frameAbandoned (sending { f with clash := 6 } 4 s) = sending { f with clash := 6 } 4 s := by decide +kernel

/-- A raw frame whose check is right. -/
def raw (cls : BitVec 3) (sender kind : BitVec 4) (length : BitVec 5) (body : List Byte) : RawFrame where
  cls := cls
  sender := sender
  kind := kind
  length := length
  body := body
  check := crc16 (headerBytes cls sender kind length ++ body)
  endMark := true

/-- The cause of the RX_ERROR that a raw frame draws. -/
def causeOf (f : RawFrame) : List Notice := (after (.rxFrameInvalid f) three).notices.pending.map fun p => p.notice

theorem test_meets_InvalidFrameIsDiscardedByTheFirstTest :
    three.hears (raw 3 1 3 3 [1, 0, 0]) = true ∧ causeOf (raw 3 1 3 29 []) = [.rxError .length 1 3 29 1000] ∧
    causeOf { raw 3 1 3 3 [1, 0, 0] with check := 0 } = [.rxError .check 1 3 3 1000] ∧
    causeOf { raw 3 1 3 3 [1, 0, 0] with endMark := false } = [.rxError .endMark 1 3 3 1000] ∧
    causeOf (raw 3 0 3 3 [1, 0, 0]) = [.rxError .ownNumber 0 3 3 1000] ∧
    causeOf (raw 3 3 3 3 [1, 0, 0]) = [.rxError .senderRange 3 3 3 1000] ∧
    causeOf (raw 3 1 9 3 [1, 0, 0]) = [.rxError .form 1 9 3 1000] ∧ causeOf (raw 4 1 3 3 [1, 0, 0]) = [.rxError .form 1 3 3 1000] ∧
    causeOf (raw 3 1 3 3 [1, 0, 0]) = [.peerChange 1 .absent .present .frame] := by decide +kernel

/-- The bits of a frame read back make the frame, whole or cut within its end mark, and none before (R65). -/
theorem test_frame_is_read_from_its_bits :
    let f := raw 3 1 3 3 [1, 0, 0]
    readFrame (fieldBits f ++ [true, true, true]) = some f ∧ readFrame (fieldBits f ++ [true, true]) = none ∧
    readFrame (fieldBits f ++ [true, false]) = some { f with endMark := false } ∧
    { three with line := { three.line with state := .taking, bits := (fieldBits f).take 9 } }.hears f = true ∧
    { three with line := { three.line with state := .taking, bits := [false, true, true, true] } }.hears f = false := by
  decide +kernel

/-! ### Received frames -/

theorem test_meets_SenderIsReportedAndFramesFollowTheState :
    audible three .endorse 2 [1, 0, 0] ∧ audible (within .isolated three) .propose 2 (proposeBody (leap 2 0 1100)) ∧ (three.slot 2).state = .absent ∧
    ((heard 2 .divergent three).slot 2).state = .divergent ∧ ((after (.endorse 2 [1, 0, 0]) three).slot 2).state = .present ∧
    lengthPermitted .propose (proposeBody (leap 2 0 1100)) = true := by
  unfold audible
  decide +kernel

/-- The label agrees below 1,000,000 ticks with the one before; a different plan digest is MISMATCHED. -/
theorem test_meets_BeaconClassifiesItsSender :
    audible three .beacon 2 (beaconBody 1000 3 0 0 false) ∧ ((after (.beacon 2 (beaconBody 1000 3 0 0 false)) three).slot 2).state = .present ∧
    ((after (.beacon 2 (beaconBody 999 3 0 0 true)) three).slot 2).state = .divergent ∧
    ((after (.beacon 2 (beaconBody 999 3 0 0 true)) { three with clock := { three.clock with tick := 999999 } }).slot 2).state = .present ∧
    ((after (.beacon 2 (beaconBody 1000 3 0 1 false)) three).slot 2).state = .mismatched ∧
    (after (.beacon 2 (beaconBody 1000 4 0 0 false)) three).notices.pending.map (fun p => p.notice) =
      [.peerChange 2 .absent .present .frame, .rxError .formContent 2 1 11 1000] := by
  unfold audible
  decide +kernel

/-- A WAITING arrangement meets a DIVERGENT beacon at its offset, with B 4 and B 1. -/
theorem test_meets_BeaconClassifiesItsSender_while_waiting :
    let s : State := { three with station := { three.station with state := .adrift, adoption := .waiting 60 } }
    (after (.beacon 2 (beaconBody 1060 3 0 0 false)) { s with plan := { planFor 3 with b := 4 } }).station.adoption = .counting 1064 3 ∧
    (after (.beacon 2 (beaconBody 1060 3 0 0 false)) s).clock.pendingLabel = some { value := 1061, origin := .adoption } ∧
    (after (.beacon 2 (beaconBody 1061 3 0 0 false)) s).station = s.station := by decide +kernel

/-- `three` with station 2 the custodian of S1 and S2. -/
def kept : State :=
  { three with
    scales := #v[{ civil with custodian := some 2 }, { child with custodian := some 2 }, Scale.undefined, Scale.undefined,
      Scale.undefined] }

theorem test_meets_ProposalsFromTheLineAreJudged :
    audible kept .propose 2 (proposeBody (offset 2 0 1100)) ∧ proposeRecord 2 (proposeBody (offset 2 0 1100)) = some (offset 2 0 1100) ∧ (offset 2 0 1100).fieldsOk 3 = true ∧
    screen (afterReport kept 2) (offset 2 0 1100) = .accept [] ∧ screen (afterReport (within .receiving kept) 2) (offset 2 0 1100) = .accept [] ∧
    proposeRecord 2 [0, 0, 4, 1, 3] = some (custody 2 0 3) ∧ (custody 2 0 3).fieldsOk 3 = false := by
  unfold audible
  decide +kernel

theorem test_meets_ProposalsFromTheLineAreJudged_and_rejected :
    audible kept .propose 2 (proposeBody (leap 2 0 1016)) ∧ screen (afterReport kept 2) (leap 2 0 1016) = .reject .tooLate ∧
    screen (afterReport (within .listening kept) 2) (leap 2 0 1016) = .reject .tooLate ∧
    (after (.propose 2 ⟨proposeBody (leap 2 0 1016), .atOnce⟩) kept).line.queue.map (fun f => (f.kind, f.body)) = [(.object, [2, 0, 0, 3])] := by
  unfold audible
  decide +kernel

/-- Own and other proposals that an endorsement of station 2 reaches. -/
theorem test_meets_EndorseAddsItsSender :
    audible three .endorse 2 [1, 0, 0] ∧ three.started ∧
    ((after (.endorse 2 [1, 0, 0]) (holding [proposed (leap 1 0 1100) 2 1004] three)).find ⟨1, 0⟩).map (fun e => e.endorsers) = some 6 ∧
    ((after (.endorse 2 [0, 0, 0]) (holding [proposed (leap 0 0 1100) 1 1004] three)).find ⟨0, 0⟩).map (fun e => e.state) = some .ratified ∧
    (holding [proposed (leap 0 0 1100) 1 1004] three).settledConflicts (leap 0 0 1100) = [] ∧
    countStations 1 < three.quorum ∧ three.quorum ≤ countStations (1 ||| BitVec.twoPow 16 2) := by
  unfold audible
  decide +kernel

/-- `three` with an own entry that station 2's endorsement brings to Q, and others held. -/
def nearQuorum (r : Record) (es : List Entry) (st : StationState) : State :=
  after (.endorse 2 [0, 0, 0]) (holding (proposed r 1 1004 :: es) (within st three))

/-- The quorum settles or refuses a scheduled entry, executes a CUSTODY and a WITHDRAW, and leaves these two PROPOSED
where the station is not ACTIVE (R31, R90). -/
theorem test_meets_EndorseAddsItsSender_at_the_quorum :
    (nearQuorum (leap 0 0 1100) [] .listening).table.entries = [{ settled (leap 0 0 1100) .ratified 5 with mark := .ratifyDue }] ∧
    (nearQuorum (leap 0 0 1100) [settled (leap 1 1 1101) .ratified 3] .active).table.entries = [settled (leap 1 1 1101) .ratified 3] ∧
    (nearQuorum (leap 0 0 1100) [settled (leap 1 1 1101) .ratified 3] .active).line.queue = [] ∧
    ((nearQuorum (custody 0 0 2) [] .active).scale 1).custodian = some 2 ∧
    (nearQuorum (custody 0 0 2) [] .active).line.queue = [newFrame .ratify 5 [0, 0, 0, 0, 5] (some ⟨0, 0⟩) 0] ∧
    (nearQuorum (custody 0 0 2) [] .listening).table.entries = [proposed (custody 0 0 2) 5 1004] := by decide +kernel

theorem test_meets_EndorseAddsItsSender_by_a_withdrawal :
    (nearQuorum (withdraw 0 0 ⟨1, 1⟩) [settled (leap 1 1 1100) .ratified 3] .active).table.entries = [] ∧
    (nearQuorum (withdraw 0 0 ⟨1, 1⟩) [settled (leap 1 1 1100) .ratified 3] .active).line.queue =
      [newFrame .ratify 5 [0, 0, 0, 0, 5] (some ⟨0, 0⟩) 0] ∧
    (nearQuorum (withdraw 0 0 ⟨1, 1⟩) [settled (leap 1 1 1100) .applying 3] .active).table.entries =
      [settled (leap 1 1 1100) .applying 3] := by decide +kernel

theorem test_meets_ObjectRefusesTheProposal :
    audible three .object 2 [1, 0, 0, 14] ∧ (after (.object 2 [1, 0, 0, 14]) (holding [proposed (leap 1 0 1100) 2 1004] three)).table.entries = [] ∧
    (after (.object 2 [1, 0, 0, 1]) (holding [settled (leap 1 0 1100) .ratified 3] three)).table.entries =
      [settled (leap 1 0 1100) .ratified 3] ∧
    (after (.object 2 [1, 0, 0, 15]) three).notices.pending.map (fun p => p.notice) =
      [.peerChange 2 .absent .present .frame, .rxError .formContent 2 4 4 1000] := by
  unfold audible
  decide +kernel

/-- The notices that a RATIFY of station 2 draws at `three`, when station 2 is known. -/
def ratifyNotices (body : List Byte) (s : State) : List Notice :=
  (after (.ratify 2 body) (heard 2 .present s)).notices.pending.map fun p => p.notice

theorem test_meets_RatifyIsTestedAndTakesEffect :
    ratifyNotices [1, 0, 0, 0, 6] three = [.rxError .notProposer 2 5 5 1000] ∧
    ratifyNotices [2, 0, 0, 0, 12] three = [.rxError .setRange 2 5 5 1000] ∧
    ratifyNotices [2, 0, 0, 0, 4] three = [.rxError .shortSet 2 5 5 1000] ∧
    ratifyNotices [2, 0, 0, 0, 3] three = [.rxError .setRange 2 5 5 1000] ∧
    ratifyNotices [2, 0, 0, 0, 6] three = [.missedEntry ⟨2, 0⟩ 6 1000] ∧
    ratifyNotices [2, 0, 0, 0, 6] (holding [proposed (leap 2 0 1100) 4 1004] three) = [.ratified ⟨2, 0⟩ 6 .none] ∧
    ratifyNotices [2, 0, 0, 0, 6] (holding [proposed (leap 2 0 1100) 4 1004, settled (leap 1 5 1110) .ratified 3] three) =
      [.refused ⟨2, 0⟩ .spacing 0] ∧
    (after (.ratify 2 [2, 0, 0, 0, 6]) three).receiving.map (fun c => (c.origin, c.target)) = some (.missedEntry, 2) := by
  decide +kernel

theorem test_ratify_executes_custody_and_withdrawal :
    ((after (.ratify 2 [2, 0, 0, 0, 6]) (holding [proposed (custody 2 0 2) 4 1004] three)).scale 1).custodian = some 2 ∧
    (after (.ratify 2 [2, 0, 0, 0, 6])
      (holding [proposed (withdraw 2 0 ⟨1, 1⟩) 4 1004, settled (leap 1 1 1100) .ratified 3] three)).table.entries = [] ∧
    (after (.ratify 2 [2, 0, 0, 0, 6])
      (holding [proposed (withdraw 2 0 ⟨1, 1⟩) 4 1004, settled (leap 1 1 1100) .applying 3] three)).table.entries =
      [settled (leap 1 1 1100) .applying 3] := by decide +kernel

theorem test_meets_ReciteReqPlacesTheRequester :
    audible three .reciteReq 2 [0] ∧
    ((after (.reciteReq 2 [0]) three).sending.map fun c => (c.snapshot, c.next, c.audience, c.offer)) = some ([], 1, 4, .queued) ∧
    ((after (.reciteReq 2 [0]) { three with sending := some { sendCtx 0 with audience := 6 } }).sending.map fun c => (c.audience, c.deferred)) =
      some (2, 4) ∧
    (after (.reciteReq 2 [1]) three).sending = none ∧ (after (.reciteReq 2 [0]) (within .receiving three)).sending = none ∧
    (after (.reciteReq 2 [3]) (heard 2 .present three)).notices.pending.map (fun p => p.notice) = [.rxError .formContent 2 6 1 1000] := by
  unfold audible
  decide +kernel

theorem test_meets_RecitalFramesAreTakenInOrder :
    ((after (.recital 2 [1, 3]) (receiving (context .joining none 1 none 2))).receiving.map fun c => (c.source, c.expected, c.total, c.wait)) =
      some (some 2, 2, some 3, 0) ∧
    ((after (.recital 2 [2, 3]) (receiving (context .joining none 1 none 2))).receiving.map fun c => c.source) = some none ∧
    ((after (.recital 2 [2, 3]) (receiving (context .joining (some 2) 2 (some 3) 2))).receiving.map fun c => c.expected) = some 3 ∧
    ((after (.recital 2 [3, 3]) ((receiving { context .joining (some 2) 2 (some 3) 2 with target := 2 }).setSlot 1 activeSlot)).receiving.map
      fun c => c.attempts) = some [(2, .gap)] ∧
    ((after (.recital 2 [2, 3]) (receiving (context .joining (some 1) 2 (some 3) 2))).receiving.map fun c => c.expected) = some 2 := by
  decide +kernel

/-- A frame of station 2 draws RX_ERROR and fails the attempt with GAP, with another peer to ask. -/
def gapWithError (i : Instr) (c : RecvCtx) : Bool :=
  let t := after i ((heard 2 .present (receiving { c with target := 2 })).setSlot 1 activeSlot)
  t.receiving.map (fun d => d.attempts) == some [(2, .gap)] && t.notices.pending.map (fun p => p.notice.kind) == [.rxError]

/-- A receiving context before its first frame, and one that expects frame 2 of 3. -/
def firstFrame : RecvCtx := context .joining none 1 none 0
def secondFrame : RecvCtx := context .joining (some 2) 2 (some 3) 0

/-- A frame taken in order that fails its form: another total, an index not below it, a bad record, first or later, and
a SCALE_STATE whose index is not the total (R132). -/
theorem test_meets_RecitalFramesAreTakenInOrder_by_its_form :
    gapWithError (.recital 2 [2, 4]) secondFrame = true ∧ gapWithError (.recital 2 [1, 1]) firstFrame = true ∧
    gapWithError (.recital 2 (recitalBody 1 3 (proposed (leap 1 1 1100) 2 0) 0)) firstFrame = true ∧
    gapWithError (.recital 2 (recitalBody 2 3 (settled (leap 1 1 1100) .ratified 2) 0)) secondFrame = true ∧
    gapWithError (.recital 2 (recitalBody 2 3 (settled (custody 1 1 2) .ratified 3) 0)) secondFrame = true ∧
    gapWithError (.recital 2 (recitalBody 2 3 (settled (leap 1 1 1100) .ratified 3) 1)) secondFrame = true ∧
    gapWithError (.recital 2 (recitalBody 2 3 (proposed (custody 1 1 3) 2 0) 9)) secondFrame = true ∧
    gapWithError (.scaleState 2 (scaleStateBody 2 3 1000 three.scales)) secondFrame = true ∧
    gapWithError (.scaleState 2 (scaleStateBody 1 2 1000 three.scales)) firstFrame = true := by decide +kernel

/-- The record of chapter 7.7 and its receiver meet every premise. -/
theorem test_meets_SettledRecordIsInserted :
    let s := receiver 2
    let body := recitalBody 2 4 (settled (leap 4 15530 536544005) .ratified 0b10101) 0
    audible s .recital 0 body ∧ body.length = 23 ∧ (s.slot 0).state = .absent ∧ field body 0 1 = 2 ∧ field body 1 1 = 4 ∧
    recitalRecord body = some
      { record := leap 4 15530 536544005, state := .ratified, endorsers := 0b10101, window := false, remaining := 0 } ∧
    (leap 4 15530 536544005).wellFormed 5 0b10101 = true ∧ s.quorum ≤ countStations 0b10101 ∧ s.find ⟨4, 15530⟩ = none ∧
    s.clock.label < 536544005 ∧ s.settledConflicts (leap 4 15530 536544005) = [] ∧ s.hasRoom .leapAdd = true := by
  unfold audible
  decide +kernel

/-- A record in the first frame of a recital is taken with its source and total. -/
theorem test_meets_SettledRecordIsInserted_in_the_first_frame :
    let s : State := { receiver 1 with receiving := some { context .joining none 1 none 1 with target := 0 } }
    let t := after (.recital 0 (recitalBody 1 4 (settled (leap 4 15530 536544005) .ratified 0b10101) 0)) s
    t.table.entries.map (fun e => (e.id, e.state)) = [(⟨4, 15530⟩, .ratified)] ∧
    (t.receiving.map fun c => (c.source, c.total, c.expected, c.wait)) = some (some 0, some 4, 2, 0) := by decide +kernel

/-- The receiver with every entry but the reserved ones taken. -/
def fullReceiver : State := holding (List.replicate 14 (proposed (custody 1 1 2) 2 536100009)) (receiver 2)

theorem test_meets_SettledRecordIsInserted_without_room :
    fullReceiver.hasRoom .leapAdd = false ∧ fullReceiver.find ⟨4, 15530⟩ = none ∧
    fullReceiver.settledConflicts (leap 4 15530 536544005) = [] ∧
    (after (.recital 0 (recitalBody 2 4 (settled (leap 4 15530 536544005) .ratified 0b10101) 0))
      (fullReceiver.setSlot 2 activeSlot)).receiving.map (fun c => c.attempts) = some [(0, .mergeFull)] := by decide +kernel

/-- A LEAP_ADD is inserted at its turn. -/
theorem test_meets_SettledRecordIsInserted_at_its_turn :
    (after (.recital 0 (recitalBody 2 4 (settled (leap 4 15530 536100006) .ratified 0b10101) 0)) (receiver 2)).table.entries.map
      (fun e => (e.id, e.state)) = [(⟨4, 15530⟩, .applying)] := by decide +kernel

/-- The tallies inserted, advanced, unchanged, skipped and conflicts. -/
def tallied (x : Tallies) : List Nat := [x.inserted, x.advanced, x.unchanged, x.skipped, x.conflicts]

/-- The receiver after a record, as table and tallies. -/
def merged (e : Entry) (remaining : Nat) (s : State) : List (Ident × EntryState × StationSet) × List Nat :=
  let t := after (.recital 0 (recitalBody 2 4 e remaining)) s
  (t.table.entries.map fun x => (x.id, x.state, x.endorsers), match t.receiving with | some c => tallied c.tallies | none => [])

/-- A leap far ahead. -/
def pact : Record := leap 1 1 536544005

/-- The receiver with an entry held. -/
def keeping (e : Entry) : State := holding [e] (receiver 2)

/-- A held record is advanced, kept, or joined; a record that is not held is inserted with its window, or skipped. -/
theorem test_meets_RecitalRecordsAreMergedOrSkipped :
    merged (settled pact .ratified 7) 0 (keeping (proposed pact 2 536100030)) =
      ([(⟨1, 1⟩, .ratified, 7)], [0, 1, 0, 0, 0]) ∧
    merged (settled pact .ratified 7) 0 (keeping (settled pact .applying 7)) =
      ([(⟨1, 1⟩, .applying, 7)], [0, 0, 1, 0, 0]) ∧
    merged (proposed pact 3 0) 9 (keeping (proposed pact 6 536100030)) =
      ([(⟨1, 1⟩, .proposed, 7)], [0, 0, 1, 0, 0]) ∧
    merged (settled pact .ratified 7) 0 (keeping (proposed (custody 1 1 1) 2 536100030)) =
      ([(⟨1, 1⟩, .proposed, 2)], [0, 0, 1, 0, 0]) := by decide +kernel

theorem test_meets_RecitalRecordsAreMergedOrSkipped_not_held :
    merged (proposed pact 3 0) 9 (receiver 2) = ([(⟨1, 1⟩, .proposed, 3)], [1, 0, 0, 0, 0]) ∧
    merged (settled { pact with turn := some 536100005 } .ratified 7) 0 (receiver 2) = ([], [0, 0, 0, 1, 0]) ∧
    merged (settled { pact with turn := some 536544006 } .ratified 7) 0 (keeping (settled (leap 2 2 536544005) .ratified 7)) =
      ([(⟨2, 2⟩, .ratified, 7)], [0, 0, 0, 1, 1]) := by decide +kernel

/-- At the label of assembly it is adopted, and one label on it is overtaken. -/
theorem test_meets_ScaleStateIsAdoptedWhole :
    let s := (receiver 4).setSlot 1 activeSlot
    audible s .scaleState 0 (scaleStateBody 4 4 536100006 (five 0).scales) ∧ (scaleStateBody 4 4 536100006 (five 0).scales).length = 27 ∧
    (after (.scaleState 0 (scaleStateBody 4 4 536100006 (three.scales.set 0 { civil with value := 255 }))) s).scale 1 =
      { civil with value := 255 } ∧
    (after (.scaleState 0 (scaleStateBody 4 4 536100006 (three.scales.set 0 { civil with value := 256 }))) s).receiving.map
      (fun c => c.attempts) = some [(0, .overtaken)] ∧
    (after (.scaleState 0 (scaleStateBody 4 4 536100007 (five 0).scales)) s).receiving.map (fun c => c.attempts) =
      some [(0, .overtaken)] := by
  unfold audible
  decide +kernel

/-- A SCALE_STATE that is the first frame of its recital takes the source with it. -/
theorem test_meets_ScaleStateIsAdoptedWhole_as_the_first_frame :
    let s : State := { receiver 1 with receiving := some { context .joining none 1 none 1 with target := 0 } }
    (after (.scaleState 0 (scaleStateBody 1 1 536100006 (five 0).scales)) s).station.state = .active := by decide +kernel

/-- After a recital stored the scheduled entry of a proposal, the proposal itself is refused DUPLICATE_ID (R36). -/
theorem test_proposal_after_its_recital_is_a_duplicate :
    screen (holding [settled (leap 2 0 1100) .ratified 6] kept) (leap 2 0 1100) = .reject .duplicateId ∧
    screen (holding [settled (leap 1 5 1110) .ratified 6] kept) (leap 2 0 1105) = .reject .spacing := by decide +kernel

/-! ### The Output Units -/

/-- An output with a tick period of 9,000,000. -/
def ticking (tick : Nat) : Output :=
  { runningOutput with curPeriod := .ticks 9000000, nextPeriod := .ticks 9000000, tick := tick }

theorem test_meets_BaseBoundaryReachesTheOutputs :
    let hold := withOutput { runningOutput with binding := some { scale := 1, presentation := .hold, quench := false }, sp := false } (atLeap 536544004 (five 0))
    let silent := withOutput { runningOutput with latch := { Latch.clear with group := true } } three
    ContextsPlaced three ∧
    (edgeAt 10000000 hold).outputs[2].forceFull = true ∧ (edgeAt 10000000 hold).outputs[2].sp = true ∧
    (edgeAt 10000000 (withOutput runningOutput three)).outputs[2].forceFull = false ∧
    (edgeAt 10000000 silent).outputs[2].sp = false ∧ (edgeAt 10000000 silent).outputs[2].last.isSome = true ∧
    (edgeAt 10000000 (withOutput (ticking 8) three)).outputs[2].tick = 8 ∧
    (edgeAt 10000000 three).outputs[2] = three.outputs[2] := by decide +kernel

/-- At its end label a smear window closes COMPLETED at index W, and CUT below it. -/
theorem test_meets_BaseBoundaryReachesTheOutputs_at_a_smear_end :
    (edgeAt 10000000 (smeared 536544005 (.opened smearLeap 1000 536543000))).outputs[2].result = .completed ⟨3, 4107⟩ ∧
    (edgeAt 10000000 (smeared 536544005 (.opened smearLeap 999 536543000))).outputs[2].result = .cut ⟨3, 4107⟩ ∧
    (edgeAt 10000000 (smeared 536544002 (.opened smearLeap 1000 536543000))).outputs[2].smear = .opened smearLeap 1000 536543000 := by
  decide +kernel

/-- The records of chapter 10.5 at the turn: second 60 on a STEP output, the held label on a HOLD output (R161, R162). -/
theorem test_records_at_the_turn :
    let hold : Output := { runningOutput with binding := some { scale := 1, presentation := .hold, quench := false } }
    let at' (o : Output) (s : State) := ((edgeAt 10000000 (withOutput o s)).outputs[2].last.map fun b => b.take 15)
    at' runningOutput (atLeap 536544004 (five 0)) =
      some [0x24, 0x21, 0x07, 0xE0, 0x01, 0x6E, 23, 59, 60, 0, 0, 5, 0b00000001, 0b1011, 0] ∧
    at' hold (atLeap 536544004 (five 0)) =
      some [0x24, 0x21, 0x07, 0xE0, 0x01, 0x6E, 23, 59, 59, 0, 0, 5, 0b00010001, 0b1011, 0] ∧
    at' { runningOutput with realign := true } { three with clock := clockAt 3 } =
      some [0x24, 0x21, 0, 0, 0, 0, 0, 0, 0, 0, 0, 5, 0b11000000, 0b1011, 255] := by decide +kernel

/-- A record inside an open window shows count c + k - 1 and the smearing flag (R177). -/
theorem test_record_of_a_smeared_second :
    let o : Output :=
      { runningOutput with
        binding := some { scale := 1, presentation := .smear 1000, quench := false }
        smear := .opened smearLeap 499 536543000, curPeriod := .ticks 10010000, nextPeriod := .ticks 10010000, tick := 10010000 }
    ((after (.outputSecondStart 2) (withOutput o (atLeap 536543504 (five 0)))).outputs[2].last.map fun b => b.take 15) =
      some [0x24, 0x21, 0x07, 0xE0, 0x01, 0x6E, 23, 51, 39, 0, 0, 5, 0b00001001, 0b1011, 0] := by decide +kernel

theorem test_meets_OutputSecondBeginsAtItsPeriod :
    (after (.outputSecondStart 2) (withOutput (ticking 9000000) three)).outputs[2].tick = 0 ∧
    (after (.outputSecondStart 2) (withOutput (ticking 9000000) three)).outputs[2].sp = true ∧
    after (.outputSecondStart 2) (withOutput (ticking 8999999) three) = withOutput (ticking 8999999) three ∧
    (after (.outputSecondStart 2) (withOutput { ticking 9000000 with releasePending := true, latch := { Latch.clear with group := true } } three)).outputs[2].latch
      = Latch.clear ∧
    (after (.outputSecondStart 2) (withOutput { ticking 9000000 with latch := { Latch.clear with group := true } } three)).outputs[2].underWay =
      none ∧
    (after (.outputSecondStart 2) (withOutput { ticking 9000000 with underWay := some { bytes := [1], twelfths := 60 } } three)).outputs[2].owed.isSome
      = true := by decide +kernel

theorem test_meets_PulsesAndRecordsEnd :
    (after (.pulseEnd 2) (withOutput { ticking 1000000 with sp := true } three)).outputs[2].sp = false ∧
    (after (.pulseEnd 2) (withOutput { ticking 999999 with sp := true } three)).outputs[2].sp = true ∧
    (after (.pulseEnd 2) (withOutput { ticking 9000000 with sp := true } three)).outputs[2].sp = true ∧
    (after (.recordSent 2) (withOutput { ticking 5 with underWay := some { bytes := [1], twelfths := 1000008 }, owed := some [2] } three)).outputs[2].underWay
      = some { bytes := [2], twelfths := 8 } ∧
    (after (.recordSent 2) (withOutput { ticking 5 with underWay := some { bytes := [1], twelfths := 999996 } } three)).outputs[2].underWay =
      some { bytes := [1], twelfths := 999996 } := by decide +kernel

/-- Twelve bit times across a join of two records last 6,250 ticks: the first record is at bit 150 after 78,125 ticks, and
the one it gives place to at bit 2, 6,250 ticks later (R164). -/
theorem test_twelve_bits_across_a_join :
    let o : Output := { ticking 5 with underWay := some { bytes := [1], twelfths := 83334 * 12 }, owed := some [2] }
    let t := after (.recordSent 2) (withOutput o three)
    12 * 78125 = 150 * 6250 ∧ t.outputs[2].underWay.map (fun u => u.twelfths + 12 * (78125 + 6250 - 83334)) = some (2 * 6250) := by
  decide +kernel

/-! ### Encodings and invariants -/

theorem test_meets_RequestFramesRoundTrip :
    (requestFrame .nop).isSome = true ∧ (requestFrame (.setPlan highPlan)).isSome = true ∧
    (requestFrame (.defineScale 255 255 255 (BitVec.allOnes 24) 255)).isSome = true := by decide +kernel

/-- `busy` with both recital contexts. -/
def loaded : State :=
  { busy with
    receiving := some (context .discord none 1 none 0)
    sending := some (sendCtx 0)
    verdicts := [.line (offset 2 0 1100) (.accept [])] }

/-- A ratification on its way is sound on a shelf of one. -/
theorem test_meets_VerdictsSound_by_a_ratification : VerdictsSound storedLeap ∧ WindowsAhead storedLeap := by decide +kernel

/-- One state meets the premises of every statement about steps, with entries, a frame in transmission and contexts. -/
theorem test_meets_the_invariants_of_the_line :
    ClockBounded loaded ∧ Quiescent loaded ∧ ContextsPlaced loaded ∧ QueueBounded loaded ∧ OneInTransmission loaded ∧
    ShelfFixed loaded ∧ RosterSound loaded := by decide +kernel

theorem test_meets_the_invariants_of_the_table :
    TableBounded loaded ∧ SettledApart loaded ∧ EntriesSound loaded ∧ ScalesSound loaded ∧ NoticesBounded loaded ∧
    OutputsQuenched loaded ∧ VerdictsSound loaded ∧ WindowsAhead loaded ∧ StationBounded loaded := by decide +kernel

/-- The part takes a step from there. -/
theorem test_step_of_the_loaded_part :
    step { loaded with pending := [.lreset] } = exec .lreset loaded := rfl

end Sys2Proof.Tests
end

section
/-! SUPPORT. The parts of the state that each command may change. -/

namespace Sys2Proof.Machine

set_option Elab.async false

/-! ### Outcomes -/

/-- What holds of the state that a command gives holds of the state that it is known to answer. -/
theorem of_next {P : State → Prop} {s t : State} (h : Host.Outcome.next (φ := Fault) (ρ := Refusal) s = .next t)
    (hs : P s) : P t := by
  injection h with h; exact h ▸ hs

/-- The parts that a change of station state touches. -/
abbrev stateParts : List Part := [.table, .line, .station, .sending, .receiving, .outputs, .notices]

/-- The parts that a boundary touches. -/
abbrev boundaryParts : List Part :=
  [.clock, .scales, .table, .line, .station, .roster, .sending, .receiving, .report, .outputs, .notices, .free, .serial]

/-- The parts that a frame read to its end touches. -/
abbrev frameParts : List Part :=
  [.clock, .scales, .table, .line, .station, .roster, .sending, .receiving, .verdicts, .outputs, .notices,
    .free, .serial]

/-- The parts that a command may change. -/
def touches : Instr → List Part
  | .nop | .readStatus | .readEntry _ | .readRoster _ | .readOutput _ | .peekNotice => [.port]
  | .badCheck _ | .readScale _ => [.port, .free]
  | .setPlan _ => [.plan, .port]
  | .defineScale .. => [.scales, .port]
  | .bindOutput .. | .setWidth .. | .releaseOutput _ => [.outputs, .port]
  | .setQuench .. => [.qaCfg, .qbCfg, .port]
  | .setBaseLabel _ => [.clock, .port]
  | .setNoticeLevels .. | .takeNotice => [.notices, .port]
  | .start => [.quorum, .planDigest, .table, .station, .line, .outputs, .notices, .port, .free]
  | .proposeLeap .. | .proposeOffset .. | .proposeCustody .. | .proposeWithdraw .. =>
    [.scales, .table, .line, .verdicts, .port, .notices]
  | .rejoin => [.table, .line, .station, .roster, .sending, .receiving, .outputs, .notices, .port]
  | .lreset => [.table, .line, .station, .roster, .sending, .receiving, .outputs, .notices]
  | .reset .. => [.pins, .clock, .plan, .quorum, .planDigest, .scales, .table, .line, .station, .roster, .sending,
      .receiving, .verdicts, .report, .outputs, .qaCfg, .qbCfg, .port, .notices]
  | .attChange _ => .pins :: stateParts
  | .quenchAssertion _ | .quenchInputInactive _ => [.pins, .outputs, .notices]
  | .secinEdge _ | .substitutedBoundary _ => boundaryParts
  | .windowExpiry _ => [.table, .line, .notices]
  | .peerSilence _ => [.roster, .notices]
  | .endOfListening | .recitalTimeout => .serial :: stateParts
  | .adoptionRequest => [.clock, .station]
  | .lineSynchronised | .frameDefer => [.line]
  | .frameBegin => [.table, .line, .sending, .receiving]
  | .frameSent => [.table, .line, .sending, .receiving, .notices, .serial]
  | .clash | .frameAbandoned => [.table, .line, .sending, .receiving, .notices]
  | .rxFrameInvalid _ | .beacon .. | .propose .. | .endorse .. | .object .. | .ratify .. | .reciteReq .. | .recital ..
  | .scaleState .. => frameParts
  | .recitalAbandon => [.sending]
  | .outputSecondStart _ => [.outputs, .notices]
  | .pulseEnd _ | .recordSent _ => [.outputs]

/-! ### The operations that the shared frame lemmas leave out -/

theorem configure_frame (code : Byte) (change : Option (State → State)) {ps : List Part} (s : State)
    (h : ∀ f ∈ change, ChangesOnly ps s (f s)) (hport : Part.port ∈ ps) :
    ChangesOnly ps s (configure code change s) := by
  have hsub : [Part.port] ⊆ ps := by simpa using hport
  unfold configure
  split
  · exact (respond_frame _ _ _ _ s).mono hsub
  · split
    · exact (respond_frame _ _ _ _ s).mono hsub
    · exact (h _ rfl).trans ((respond_frame _ _ _ _ _).mono hsub)

theorem quenchAtStart_frame (g : Group) (s : State) : ChangesOnly [.outputs, .notices] s (quenchAtStart g s) :=
  .ite (quenchWhere_frame _ _ s) (.refl _ s)

theorem startUp_frame (s : State) :
    ChangesOnly [.quorum, .planDigest, .table, .station, .line, .outputs, .notices] s (startUp s) := by
  have units : ChangesOnly [.quorum, .planDigest, .table, .station, .line, .outputs] s
      { s with
        quorum := s.plan.n / 2 + 1
        planDigest := planDigestOf s.plan s.scales
        table := { s.table with nextSeq := BitVec.ofNat 16 s.clock.label }
        station := { s.station with state := .joining, listen := 0, history := [] }
        line := s.line.toHunting 0
        outputs := s.outputs.map Output.started } := by
    intro p hp; cases p <;> first | rfl | simp at hp
  exact units.then ((quenchAtStart_frame .qa _).trans (quenchAtStart_frame .qb _))

/-! ### One frame for every command -/

theorem execSetPlan_frame (a : PlanArgs) {s t : State} (h : execSetPlan a s = .next t) :
    ChangesOnly [.plan, .port] s t := by
  injection h with h; subst h
  refine configure_frame _ _ s (fun f hf => ?_) (by decide)
  obtain ⟨p, -, rfl⟩ := Option.map_eq_some_iff.1 hf
  intro p hp; cases p <;> first | rfl | simp at hp

theorem execDefineScale_frame (k kind parent : Byte) (v : BitVec 24) (c : Byte) {s t : State}
    (h : execDefineScale k kind parent v c s = .next t) : ChangesOnly [.scales, .port] s t := by
  injection h with h; subst h
  refine configure_frame _ _ s (fun f hf => ?_) (by decide)
  obtain ⟨sc, -, rfl⟩ := Option.map_eq_some_iff.1 hf
  exact (setScale_frame _ _ s).mono (by decide)

theorem execBindOutput_frame (n scale presentation : Byte) (w width : BitVec 24) (policy : Byte) {s t : State}
    (h : execBindOutput n scale presentation w width policy s = .next t) : ChangesOnly [.outputs, .port] s t := by
  injection h with h; subst h
  refine configure_frame _ _ s (fun f hf => ?_) (by decide)
  split at hf
  · injection hf with hf; subst hf
    exact (setOutput_frame _ _ s).mono (by decide)
  · exact absurd hf (by simp)

theorem execSetQuench_frame (g e p : Byte) {s t : State} (h : execSetQuench g e p s = .next t) :
    ChangesOnly [.qaCfg, .qbCfg, .port] s t := by
  injection h with h; subst h
  refine configure_frame _ _ s (fun f hf => ?_) (by decide)
  split at hf
  · injection hf with hf; subst hf
    exact (setQuenchCfg_frame _ _ s).mono (by decide)
  · exact absurd hf (by simp)

theorem execSetBaseLabel_frame (v : BitVec 40) {s t : State} (h : execSetBaseLabel v s = .next t) :
    ChangesOnly [.clock, .port] s t := by
  injection h with h; subst h
  refine configure_frame _ _ s (fun f hf => ?_) (by decide)
  injection hf with hf; subst hf
  exact (setClock_frame _ s).mono (by decide)

theorem execSetNoticeLevels_frame (k l : Byte) {s t : State} (h : execSetNoticeLevels k l s = .next t) :
    ChangesOnly [.notices, .port] s t := by
  injection h with h; subst h
  refine configure_frame _ _ s (fun f hf => ?_) (by decide)
  split at hf
  · exact absurd hf (by simp)
  · split at hf <;> injection hf with hf <;> subst hf <;>
      (intro p hp; cases p <;> first | rfl | simp at hp)

theorem execBadCheck_frame (bytes : List Byte) {s t : State} (h : execBadCheck bytes s = .next t) :
    ChangesOnly [.port, .free] s t := by
  unfold execBadCheck at h
  split at h
  · exact of_next h (.refl _ _)
  · split at h <;> injection h with h <;> subst h
    · exact (drawn_frame s).then (respond_frame _ _ _ _ _)
    · exact (respond_frame _ _ _ _ s).mono (by decide)

theorem execStart_frame {s t : State} (h : execStart s = .next t) :
    ChangesOnly [.quorum, .planDigest, .table, .station, .line, .outputs, .notices, .port, .free] s t := by
  unfold execStart at h
  split at h
  · exact of_next h ((respond_frame _ _ _ _ s).mono (by decide))
  · split at h <;> injection h with h <;> subst h
    · exact (drawn_frame s).then (respond_frame _ _ _ _ _)
    · exact (startUp_frame s).then (respond_frame _ _ _ _ _)

theorem execReadEntry_frame (i : Byte) {s t : State} (h : execReadEntry i s = .next t) : ChangesOnly [.port] s t := by
  unfold execReadEntry at h
  split at h <;> injection h with h <;> subst h <;> exact respond_frame _ _ _ _ s

theorem execReadScale_frame (k : Byte) {s t : State} (h : execReadScale k s = .next t) :
    ChangesOnly [.port, .free] s t := by
  unfold execReadScale at h
  split at h <;> injection h with h <;> subst h
  · exact (respond_frame _ _ _ _ s).mono (by decide)
  · exact (drawn_frame s).then (respond_frame _ _ _ _ _)

theorem execReadRoster_frame (p : Byte) {s t : State} (h : execReadRoster p s = .next t) :
    ChangesOnly [.port] s t := by
  unfold execReadRoster at h
  split at h <;> injection h with h <;> subst h <;> exact respond_frame _ _ _ _ s

theorem execReadOutput_frame (n : Byte) {s t : State} (h : execReadOutput n s = .next t) :
    ChangesOnly [.port] s t := by
  unfold execReadOutput at h
  split at h <;> injection h with h <;> subst h <;> exact respond_frame _ _ _ _ s

theorem execSetWidth_frame (n : Byte) (w : BitVec 24) {s t : State} (h : execSetWidth n w s = .next t) :
    ChangesOnly [.outputs, .port] s t := by
  have answer (st : Status) : ChangesOnly [.outputs, .port] s (refuse 48 st s) :=
    (respond_frame _ _ _ _ s).mono (by decide)
  unfold execSetWidth at h
  split at h
  · exact of_next h (answer _)
  · split at h
    · exact of_next h (answer _)
    · split at h <;> injection h with h <;> subst h
      · exact (setOutput_frame _ _ s).then (respond_frame _ _ _ _ _)
      · exact answer _

theorem execReleaseOutput_frame (n : Byte) {s t : State} (h : execReleaseOutput n s = .next t) :
    ChangesOnly [.outputs, .port] s t := by
  have answer (st : Status) : ChangesOnly [.outputs, .port] s (respond 49 st 0 .none s) :=
    (respond_frame _ _ _ _ s).mono (by decide)
  unfold execReleaseOutput at h
  split at h
  · exact of_next h (answer _)
  · split at h
    · exact of_next h (answer _)
    · split at h
      · exact of_next h (answer _)
      · split at h
        · exact of_next h (answer _)
        · split at h <;> injection h with h <;> subst h
          · exact answer _
          · exact (setOutput_frame _ _ s).then (respond_frame _ _ _ _ _)

theorem execRejoin_frame {s t : State} (h : execRejoin s = .next t) :
    ChangesOnly [.table, .line, .station, .roster, .sending, .receiving, .outputs, .notices, .port] s t := by
  unfold execRejoin at h
  split at h <;> injection h with h <;> subst h
  · exact (respond_frame _ _ _ _ s).mono (by decide)
  · exact (lineReset_frame _ s).then (respond_frame _ _ _ _ _)

theorem execTakeNotice_frame {s t : State} (h : execTakeNotice s = .next t) : ChangesOnly [.notices, .port] s t := by
  injection h with h; subst h
  intro p hp; cases p <;> first | rfl | simp at hp

theorem execReset_frame (stn : BitVec 4) (lrate : BitVec 2) {s t : State} (h : execReset stn lrate s = .next t) :
    ChangesOnly (touches (.reset stn lrate)) s t := by
  injection h with h; subst h
  intro p hp; cases p <;> first | rfl | simp [touches] at hp

theorem execAttChange_frame (high : Bool) {s t : State} (h : execAttChange high s = .next t) :
    ChangesOnly (.pins :: stateParts) s t := by
  have pins : ChangesOnly [.pins] s { s with pins := { s.pins with att := high } } := by
    intro p hp; cases p <;> first | rfl | simp at hp
  unfold execAttChange at h
  simp only at h
  split at h
  · exact of_next h (.refl _ _)
  · split at h <;> injection h with h <;> subst h
    · exact pins.then (enterState_frame _ _)
    · exact pins.then (enterState_frame _ _)
    · exact pins.mono (by decide)

theorem execOutputSecondStart_frame (n : Fin 8) {s t : State} (h : execOutputSecondStart n s = .next t) :
    ChangesOnly [.outputs, .notices] s t := by
  injection h with h; subst h
  exact .ite (startSecond_frame _ _ _) (.refl _ _)

theorem execPulseEnd_frame (n : Fin 8) {s t : State} (h : execPulseEnd n s = .next t) :
    ChangesOnly [.outputs] s t := by
  injection h with h; subst h
  exact .ite (setOutput_frame _ _ _) (.refl _ _)

theorem execRecordSent_frame (n : Fin 8) {s t : State} (h : execRecordSent n s = .next t) :
    ChangesOnly [.outputs] s t := by
  injection h with h; subst h
  exact .ite (setOutput_frame _ _ _) (.refl _ _)

/-- A proposal request, by its frame lemma. -/
theorem next_proposeOwn_frame {w : VerdictTime} {code : Byte} {mk : Option (Word → Record)} {s t : State}
    (h : Host.Outcome.next (φ := Fault) (ρ := Refusal) (proposeOwn w code mk s) = .next t) :
    ChangesOnly [.scales, .table, .line, .verdicts, .port, .notices] s t := by
  exact of_next h (proposeOwn_frame _ _ _ s)

/-- A frame of a known kind, by its frame lemma. -/
theorem next_receiveTyped_frame {w : VerdictTime} {k : FrameKind} {p : Nat} {b : List Byte} {s t : State}
    (h : Host.Outcome.next (φ := Fault) (ρ := Refusal) (receiveTyped w k p b s) = .next t) :
    ChangesOnly frameParts s t := by
  exact of_next h (receiveTyped_frame _ _ _ _ s)

/-- Every command changes the parts listed for it alone. -/
theorem exec_frame (c : Instr) {s t : State} (h : exec c s = .next t) : ChangesOnly (touches c) s t := by
  cases c with
  | nop => injection h with h; subst h; intro p hp; cases p <;> first | rfl | simp [touches] at hp
  | badCheck bytes => exact execBadCheck_frame bytes h
  | setPlan a => exact execSetPlan_frame a h
  | defineScale k kind p v c => exact execDefineScale_frame k kind p v c h
  | bindOutput n k p w x y => exact execBindOutput_frame n k p w x y h
  | setQuench g e p => exact execSetQuench_frame g e p h
  | setBaseLabel v => exact execSetBaseLabel_frame v h
  | setNoticeLevels k l => exact execSetNoticeLevels_frame k l h
  | start => exact execStart_frame h
  | proposeLeap => exact next_proposeOwn_frame h
  | proposeOffset => exact next_proposeOwn_frame h
  | proposeCustody => exact next_proposeOwn_frame h
  | proposeWithdraw => exact next_proposeOwn_frame h
  | readStatus => exact of_next h (respond_frame _ _ _ _ s)
  | readEntry i => exact execReadEntry_frame i h
  | readScale k => exact execReadScale_frame k h
  | readRoster p => exact execReadRoster_frame p h
  | readOutput n => exact execReadOutput_frame n h
  | setWidth n w => exact execSetWidth_frame n w h
  | releaseOutput n => exact execReleaseOutput_frame n h
  | rejoin => exact execRejoin_frame h
  | takeNotice => exact execTakeNotice_frame h
  | peekNotice => exact of_next h (respond_frame _ _ _ _ s)
  | reset stn lrate => exact execReset_frame stn lrate h
  | lreset => exact of_next h (lineReset_frame _ s)
  | attChange high => exact execAttChange_frame high h
  | quenchAssertion g => exact of_next h (driveQuench_frame _ _ s)
  | secinEdge ord => exact of_next h (secinEdge_frame ord s)
  | substitutedBoundary ord => exact of_next h (substitutedBoundary_frame ord s)
  | windowExpiry id => exact of_next h (expireEntry_frame id s)
  | peerSilence p => exact of_next h (silenceSlot_frame _ s)
  | endOfListening => exact of_next h ((endListeningIfDue_frame s).mono (by decide))
  | adoptionRequest => exact of_next h (requestIfDue_frame s)
  | recitalTimeout => exact of_next h ((timeoutIfDue_frame s).mono (by decide))
  | lineSynchronised => exact of_next h (synchronise_frame s)
  | frameBegin => exact of_next h (frameBegin_frame s)
  | frameDefer => exact of_next h (deferTo_frame s)
  | frameSent => exact of_next h (frameSent_frame s)
  | clash => exact of_next h (clashNow_frame s)
  | frameAbandoned => exact of_next h (abandonNow_frame s)
  | rxFrameInvalid f => exact of_next h (receiveRaw_frame f s)
  | beacon => exact next_receiveTyped_frame h
  | propose => exact next_receiveTyped_frame h
  | endorse => exact next_receiveTyped_frame h
  | object => exact next_receiveTyped_frame h
  | ratify => exact next_receiveTyped_frame h
  | reciteReq => exact next_receiveTyped_frame h
  | recital => exact next_receiveTyped_frame h
  | scaleState => exact next_receiveTyped_frame h
  | recitalAbandon => exact of_next h (.ite (abandonRecital_frame s) (.refl _ s))
  | outputSecondStart n => exact execOutputSecondStart_frame n h
  | pulseEnd n => exact execPulseEnd_frame n h
  | recordSent n => exact execRecordSent_frame n h
  | quenchInputInactive g => exact of_next h (driveQuench_frame _ _ s)

end Sys2Proof.Machine
end

section
/-! SUPPORT. What one step can be, and the induction step that an invariant needs. -/

namespace Sys2Proof.Machine

set_option Elab.async false

/-! ### Frames as equations -/

/-- A state that agrees with another in the parts that a predicate reads. -/
theorem ChangesOnly.clock {ps : List Part} {s t : State} (h : ChangesOnly ps s t)
    (hp : Part.clock ∉ ps := by decide) : t.clock = s.clock := h .clock hp

theorem ChangesOnly.pins {ps : List Part} {s t : State} (h : ChangesOnly ps s t)
    (hp : Part.pins ∉ ps := by decide) : t.pins = s.pins := h .pins hp

theorem ChangesOnly.plan {ps : List Part} {s t : State} (h : ChangesOnly ps s t)
    (hp : Part.plan ∉ ps := by decide) : t.plan = s.plan := h .plan hp

theorem ChangesOnly.quorum {ps : List Part} {s t : State} (h : ChangesOnly ps s t)
    (hp : Part.quorum ∉ ps := by decide) : t.quorum = s.quorum := h .quorum hp

theorem ChangesOnly.scales {ps : List Part} {s t : State} (h : ChangesOnly ps s t)
    (hp : Part.scales ∉ ps := by decide) : t.scales = s.scales := h .scales hp

theorem ChangesOnly.table {ps : List Part} {s t : State} (h : ChangesOnly ps s t)
    (hp : Part.table ∉ ps := by decide) : t.table = s.table := h .table hp

theorem ChangesOnly.line {ps : List Part} {s t : State} (h : ChangesOnly ps s t)
    (hp : Part.line ∉ ps := by decide) : t.line = s.line := h .line hp

theorem ChangesOnly.station {ps : List Part} {s t : State} (h : ChangesOnly ps s t)
    (hp : Part.station ∉ ps := by decide) : t.station = s.station := h .station hp

theorem ChangesOnly.roster {ps : List Part} {s t : State} (h : ChangesOnly ps s t)
    (hp : Part.roster ∉ ps := by decide) : t.roster = s.roster := h .roster hp

theorem ChangesOnly.sending {ps : List Part} {s t : State} (h : ChangesOnly ps s t)
    (hp : Part.sending ∉ ps := by decide) : t.sending = s.sending := h .sending hp

theorem ChangesOnly.receiving {ps : List Part} {s t : State} (h : ChangesOnly ps s t)
    (hp : Part.receiving ∉ ps := by decide) : t.receiving = s.receiving := h .receiving hp

theorem ChangesOnly.verdicts {ps : List Part} {s t : State} (h : ChangesOnly ps s t)
    (hp : Part.verdicts ∉ ps := by decide) : t.verdicts = s.verdicts := h .verdicts hp

theorem ChangesOnly.report {ps : List Part} {s t : State} (h : ChangesOnly ps s t)
    (hp : Part.report ∉ ps := by decide) : t.report = s.report := h .report hp

theorem ChangesOnly.outputs {ps : List Part} {s t : State} (h : ChangesOnly ps s t)
    (hp : Part.outputs ∉ ps := by decide) : t.outputs = s.outputs := h .outputs hp

theorem ChangesOnly.notices {ps : List Part} {s t : State} (h : ChangesOnly ps s t)
    (hp : Part.notices ∉ ps := by decide) : t.notices = s.notices := h .notices hp

theorem withPending_frame (cs : List Instr) (s : State) : ChangesOnly [.pending] s { s with pending := cs } := by
  intro p hp; cases p <;> first | rfl | simp at hp

theorem withVerdicts_frame (vs : List PendingVerdict) (s : State) :
    ChangesOnly [.verdicts] s { s with verdicts := vs } := by
  intro p hp; cases p <;> first | rfl | simp at hp

theorem tick_frame (s : State) : ChangesOnly [.clock, .line, .outputs, .port, .free] s (tick s) := by
  intro p hp; cases p <;> first | rfl | simp at hp

/-! ### The choice among several items -/

theorem choose_eq_none_iff {α : Type} {i : Nat} {l : List α} : choose i l = none ↔ l = [] := by
  match l with
  | [] => simp [choose]
  | [a] => simp [choose]
  | a :: b :: l =>
    have hlt : Config.pick i % ((b :: l).length + 1) < (a :: b :: l).length := Nat.mod_lt _ (by simp)
    simp only [choose, List.getElem?_eq_getElem hlt, reduceCtorEq]

theorem choose_mem {α : Type} {i : Nat} {l : List α} {a : α} (h : choose i l = some a) : a ∈ l := by
  match l, h with
  | [x], h => simp_all [choose]
  | x :: y :: l, h => exact List.mem_of_getElem? h

/-! ### One step -/

/-- A step runs the front command; on an empty queue it takes the first claim, or an event that is due, or it is a
tick (log entry 1). -/
theorem step_cases {s t : State} (h : step s = .next t) :
    (∃ c rest, s.pending = c :: rest ∧ exec c { s with pending := rest } = .next t) ∨
    (∃ v vs, s.verdicts = v :: vs ∧ t = v.take { s with verdicts := vs }) ∨
    (∃ c ∈ s.dueEvents, exec c s.drawn = .next t) ∨
    (s.dueEvents = [] ∧ t = tick s) := by
  unfold step at h
  split at h
  next c rest hp => exact .inl ⟨c, rest, hp, h⟩
  next hp =>
    unfold idleStep State.verdictArrives at h
    cases hv : s.verdicts with
    | cons v vs =>
      rw [hv] at h
      exact .inr (.inl ⟨v, vs, rfl, of_next h (P := (· = v.take { s with verdicts := vs })) rfl⟩)
    | nil =>
      rw [hv] at h
      cases hd : s.nextDue with
      | some c => rw [hd] at h; exact .inr (.inr (.inl ⟨c, choose_mem hd, h⟩))
      | none =>
        rw [hd] at h
        exact .inr (.inr (.inr ⟨choose_eq_none_iff.1 hd, of_next h (P := (· = tick s)) rfl⟩))

/-- A step keeps what every command, every claim and a tick with no event due keep, where the premise reads neither the
queue of commands nor the count of free values. -/
theorem step_keeps {I J : State → Prop} (own : ∀ s t, ChangesOnly [.pending, .free] s t → I s → I t)
    (command : ∀ c s t, I s → exec c s = .next t → J t)
    (claim : ∀ s v vs, I s → s.verdicts = v :: vs → J (v.take { s with verdicts := vs }))
    (quiet : ∀ s, I s → s.dueEvents = [] → J (tick s)) {s t : State} (hs : I s) (h : step s = .next t) : J t := by
  obtain ⟨c, rest, -, hc⟩ | ⟨v, vs, hv, rfl⟩ | ⟨c, -, hc⟩ | ⟨hd, rfl⟩ := step_cases h
  · exact command c _ t (own s _ ((withPending_frame rest s).mono (by decide)) hs) hc
  · exact claim s v vs hs hv
  · exact command c _ t (own s _ ((drawn_frame s).mono (by decide)) hs) hc
  · exact quiet s hs hd

end Sys2Proof.Machine
end

section
/-! SUPPORT. The Base Clock: what a boundary makes of it, that nothing else but a tick and a request changes it, and its
ranges (R1 to R10). -/

namespace Sys2Proof.Machine

set_option Elab.async false

/-! ### Requests of adoption alone -/

/-- From `s` to `t` the Base Clock changes at most by a pending adoption in place of its pending label (R10). -/
def asksOnly (s t : State) : Prop :=
  t.clock = s.clock ∨ ∃ v, t.clock = { s.clock with pendingLabel := some { value := v, origin := .adoption } }

theorem asksOnly.of_eq {s t : State} (h : t.clock = s.clock) : asksOnly s t := .inl h

theorem asksOnly.of_frame {ps : List Part} {s t : State} (h : ChangesOnly ps s t)
    (hp : Part.clock ∉ ps := by decide) : asksOnly s t := .inl (h.clock hp)

theorem asksOnly.trans {s t u : State} (h : asksOnly s t) (k : asksOnly t u) : asksOnly s u := by
  obtain k | ⟨v, k⟩ := k
  · rwa [asksOnly, k]
  · obtain h | ⟨w, h⟩ := h
    · exact .inr ⟨v, by rw [k, h]⟩
    · exact .inr ⟨v, by rw [k, h]⟩

theorem asksOnly.foldl {α : Type} {g : State → α → State} (h : ∀ t x, asksOnly t (g t x)) (l : List α) (s : State) :
    asksOnly s (l.foldl g s) := by
  induction l generalizing s with
  | nil => exact .of_eq rfl
  | cons x l ih => exact (h s x).trans (ih _)

theorem asksOnly.label {s t : State} (h : asksOnly s t) : t.clock.label = s.clock.label := by
  obtain h | ⟨v, h⟩ := h <;> rw [h]

theorem asksOnly.tick {s t : State} (h : asksOnly s t) : t.clock.tick = s.clock.tick := by
  obtain h | ⟨v, h⟩ := h <;> rw [h]

theorem asksOnly.run {s t : State} (h : asksOnly s t) : t.clock.run = s.clock.run := by
  obtain h | ⟨v, h⟩ := h <;> rw [h]

theorem asksOnly.lock {s t : State} (h : asksOnly s t) : t.clock.lock = s.clock.lock := by
  obtain h | ⟨v, h⟩ := h <;> rw [h]

theorem asksOnly.phased {s t : State} (h : asksOnly s t) : t.clock.phased = s.clock.phased := by
  obtain h | ⟨v, h⟩ := h <;> rw [h]

theorem asksOnly.capRun {s t : State} (h : asksOnly s t) : t.clock.capRun = s.clock.capRun := by
  obtain h | ⟨v, h⟩ := h <;> rw [h]

theorem asksOnly.capElapsed {s t : State} (h : asksOnly s t) : t.clock.capElapsed = s.clock.capElapsed := by
  obtain h | ⟨v, h⟩ := h <;> rw [h]

/-! ### Who asks -/

theorem requestIfDue_counted {s : State} {v : Nat} (h : s.station.adoption = .counting v 0) :
    requestIfDue s =
      { s with
        clock := { s.clock with pendingLabel := some { value := v, origin := .adoption } }
        station := { s.station with adoption := .requested v } } := by
  simp [requestIfDue, h]

theorem requestIfDue_stands {s : State} (h : ∀ v, s.station.adoption ≠ .counting v 0) : requestIfDue s = s := by
  unfold requestIfDue
  split
  next v hv => exact absurd hv (h v)
  next => rfl

theorem requestIfDue_asks (s : State) : asksOnly s (requestIfDue s) := by
  unfold requestIfDue
  split
  next v _ => exact .inr ⟨v, rfl⟩
  next => exact .of_eq rfl

theorem advanceAdoption_asks (s : State) : asksOnly s (advanceAdoption s) := by
  unfold advanceAdoption
  split
  · exact requestIfDue_asks _
  · exact .of_eq rfl

theorem stationWork_asks (rep : LabelReport) (s : State) : asksOnly s (stationWork rep s) := by
  simp only [stationWork]
  split
  · exact .of_eq rfl
  · have aged : asksOnly s { s with roster := s.roster.map Slot.older } := .of_eq rfl
    have counted := (aged.trans (.of_frame (takeReport_frame rep _))).trans (advanceAdoption_asks _)
    split
    · exact counted.trans (.of_frame (beaconWork_frame _))
    · exact counted

theorem meetBeacon_asks (new : Slot) (label : Nat) (s : State) : asksOnly s (meetBeacon new label s) := by
  unfold meetBeacon
  split
  · split
    · exact requestIfDue_asks _
    · exact .of_eq rfl
  · exact .of_eq rfl

theorem takeBeacon_asks (sender : Nat) (body : List Byte) (s : State) : asksOnly s (takeBeacon sender body s) := by
  unfold takeBeacon
  split
  · exact .of_eq rfl
  · exact (asksOnly.of_frame (changeSlot_frame _ _ _ s)).trans (meetBeacon_asks _ _ _)

theorem deliver_asks (w : VerdictTime) (k : FrameKind) (sender : Nat) (body : List Byte) (s : State) :
    asksOnly s (deliver w k sender body s) := by
  cases k with
  | beacon => exact takeBeacon_asks sender body s
  | propose => exact .of_frame (takePropose_frame w sender body s)
  | endorse => exact .of_frame (takeEndorse_frame sender body s)
  | object => exact .of_frame (takeObject_frame sender body s)
  | ratify => exact .of_frame (takeRatify_frame sender body s)
  | reciteReq => exact .of_frame (takeReciteReq_frame sender body s)
  | recital => exact .of_frame (takeRecitalFrame_frame .recital sender body s)
  | scaleState => exact .of_frame (takeRecitalFrame_frame .scaleState sender body s)

theorem handOn_asks (w : VerdictTime) (k : FrameKind) (sender : Nat) (body : List Byte) (s : State) :
    asksOnly s (handOn w k sender body s) :=
  (asksOnly.of_frame ((setLine_frame _ s).then (rs := [.line, .roster, .notices]) (reportSender_frame sender _))).trans
    (deliver_asks w k sender body _)

theorem receiveTyped_asks (w : VerdictTime) (k : FrameKind) (sender : Nat) (body : List Byte) (s : State) :
    asksOnly s (receiveTyped w k sender body s) := by
  unfold receiveTyped
  split
  · split
    · exact .of_frame (discardFrame_frame _ _ _ _ _ s)
    · exact handOn_asks w k sender body s
  · exact .of_eq rfl

theorem receiveRaw_asks (f : RawFrame) (s : State) : asksOnly s (receiveRaw f s) := by
  unfold receiveRaw
  split
  · split
    · exact .of_frame (discardFrame_frame _ _ _ _ _ s)
    · exact handOn_asks _ _ _ _ s
  · exact .of_eq rfl

/-! ### The boundary -/

theorem runStage_asks (rep : LabelReport) (st : Stage) (s : State) : asksOnly s (runStage rep st s) := by
  cases st with
  | apply => exact .of_frame (applyPass_frame s)
  | expiry => exact .of_frame (expireWindows_frame s)
  | station => exact stationWork_asks rep s
  | retest => exact .of_frame (retestQuorum_frame s)
  | ratifyOffers => exact .of_frame (reofferRatify_frame s)
  | proposeOffers => exact .of_frame (reofferPropose_frame s)
  | recitalSend => exact .of_frame (reofferRecital_frame s)
  | recitalReceive => exact .of_frame (receiveWork_frame s)

/-- After the label has been taken a boundary changes the Base Clock at most by a pending adoption. -/
theorem boundary_asks (ord : BoundaryOrder) (s : State) :
    asksOnly (takeLabel ord.passBeforeTest s).2 (boundary ord s) :=
  (((asksOnly.of_frame (moveWindows_frame _ _)).trans (.foldl (fun t st => runStage_asks _ st t) _ _)).trans
    (.of_frame (realignIfAdopted_frame _ _))).trans (.of_frame (outputsBoundary_frame _))

/-- A boundary takes a label and leaves none pending; the other items of the clock stand (R8). -/
theorem takeLabel_clock (b : Bool) (s : State) :
    (takeLabel b s).2.clock = { s.clock with label := (takeLabel b s).2.clock.label, pendingLabel := none } := by
  simp only [takeLabel]
  split
  · rfl
  · rfl
  · split <;> rfl

theorem takeLabel_plain {s : State} (h : s.clock.pendingLabel = none) (b : Bool) :
    takeLabel b s = (.plain, s.withLabel s.clock.otherwise) := by
  simp [takeLabel, h]

theorem takeLabel_setting {s : State} {v : Nat} (h : s.clock.pendingLabel = some { value := v, origin := .setting })
    (b : Bool) : takeLabel b s = (.set ((v : Int) - s.clock.otherwise), s.withLabel v) := by
  simp [takeLabel, h]

/-- An adoption is taken where no entry blocks it (R10). -/
theorem takeLabel_adopted {s : State} {v : Nat} {b : Bool}
    (h : s.clock.pendingLabel = some { value := v, origin := .adoption })
    (free : s.blockers v s.clock.otherwise b = []) :
    takeLabel b s =
      (.adopted (((v % labelSpan : Nat) : Int) - s.clock.otherwise), s.withLabel (v % labelSpan)) := by
  simp [takeLabel, h, choose_eq_none_iff.2 free]

/-- An adoption that an entry blocks is reported with ADOPTION_BLOCKED, and the label rises by one (R10). -/
theorem takeLabel_blocked {s : State} {v : Nat} {b : Bool}
    (h : s.clock.pendingLabel = some { value := v, origin := .adoption })
    (blocked : s.blockers v s.clock.otherwise b ≠ []) :
    ∃ id, takeLabel b s = (.blocked, raise (.adoptionBlocked v id) (s.withLabel s.clock.otherwise).drawn) := by
  cases hc : choose s.free (s.blockers v s.clock.otherwise b) with
  | none => exact absurd (choose_eq_none_iff.1 hc) blocked
  | some id => exact ⟨id, by simp [takeLabel, h, hc]⟩

theorem otherwise_lt (c : Clock) : c.otherwise < labelSpan := Nat.mod_lt _ (by decide)

/-- The label taken keeps its range where a setting that is pending does. -/
theorem takeLabel_label_lt {s : State}
    (h : ∀ p ∈ s.clock.pendingLabel, p.origin = .setting → p.value < labelSpan) (b : Bool) :
    (takeLabel b s).2.clock.label < labelSpan := by
  simp only [takeLabel]
  split
  · exact otherwise_lt _
  next v hv => exact h _ hv rfl
  · split
    · exact Nat.mod_lt _ (by decide)
    · exact otherwise_lt _

theorem boundary_plain_label {s : State} (h : s.clock.pendingLabel = none) (ord : BoundaryOrder) :
    (boundary ord s).clock.label = s.clock.otherwise := by
  rw [(boundary_asks ord s).label, takeLabel_plain h]; rfl

theorem boundary_setting_label {s : State} {v : Nat}
    (h : s.clock.pendingLabel = some { value := v, origin := .setting }) (ord : BoundaryOrder) :
    (boundary ord s).clock.label = v := by
  rw [(boundary_asks ord s).label, takeLabel_setting h]; rfl

/-- A boundary leaves the tick count, lock, run, phase and capture record as the Base Clock has set them. -/
theorem boundary_clock (ord : BoundaryOrder) (s : State) :
    (boundary ord s).clock.tick = s.clock.tick ∧ (boundary ord s).clock.run = s.clock.run ∧
    (boundary ord s).clock.lock = s.clock.lock ∧ (boundary ord s).clock.phased = s.clock.phased ∧
    (boundary ord s).clock.capRun = s.clock.capRun ∧ (boundary ord s).clock.capElapsed = s.clock.capElapsed := by
  have h := boundary_asks ord s
  rw [h.tick, h.run, h.lock, h.phased, h.capRun, h.capElapsed, takeLabel_clock]
  exact ⟨rfl, rfl, rfl, rfl, rfl, rfl⟩

/-! ### The ranges of the Base Clock -/

theorem ClockBounded.of_asks {s t : State} (h : asksOnly s t) (hs : ClockBounded s) : ClockBounded t := by
  obtain h | ⟨v, h⟩ := h
  · simpa only [ClockBounded, h] using hs
  · obtain ⟨label, tick, run, cap, lock, phase, -⟩ := hs
    refine ⟨h ▸ label, h ▸ tick, h ▸ run, h ▸ cap, h ▸ lock, h ▸ phase, fun p hp set => ?_⟩
    simp only [h, Option.mem_some_iff] at hp
    subst hp
    exact absurd set (by simp)

theorem ClockBounded.takeLabel {s : State} (hs : ClockBounded s) (b : Bool) : ClockBounded (takeLabel b s).2 := by
  obtain ⟨-, tick, run, cap, lock, phase, set⟩ := hs
  have h := takeLabel_clock b s
  refine ⟨takeLabel_label_lt set b, ?_⟩
  rw [h]
  exact ⟨tick, run, cap, lock, phase, by simp⟩

theorem ClockBounded.boundary {s : State} (hs : ClockBounded s) (ord : BoundaryOrder) :
    ClockBounded (boundary ord s) :=
  .of_asks (boundary_asks ord s) (hs.takeLabel _)

theorem ClockBounded.raise {s : State} (hs : ClockBounded s) (n : Notice) : ClockBounded (raise n s) := hs

/-- An accepted edge brings the run to 4 exactly where it makes the clock LOCKED (R5). -/
theorem ClockBounded.accept {s : State} (hs : ClockBounded s) (phased : s.clock.phased = true) :
    ClockBounded (s.setClock s.clock.accept) := by
  obtain ⟨label, -, run, -, lock, -, set⟩ := hs
  refine ⟨label, Nat.zero_le _, Nat.min_le_left _ _, Nat.zero_le _, ?_, ?_, set⟩
  · simp only [setClock_clock, Clock.accept]
    split
    · simp; omega
    next h => rw [lock]; omega
  · simp [Clock.accept, phased]

theorem ClockBounded.phase {s : State} (hs : ClockBounded s) (unphased : s.clock.phased = false) :
    ClockBounded (s.setClock s.clock.phase) := by
  obtain ⟨label, -, -, -, lock, phase, set⟩ := hs
  have free : s.clock.lock ≠ .locked := fun h => by have := lock.1 h; have := phase unphased; omega
  exact ⟨label, Nat.zero_le _, by simp [Clock.phase], Nat.zero_le _, by simpa [Clock.phase] using free,
    by simp [Clock.phase], set⟩

theorem ClockBounded.substitute {s : State} (hs : ClockBounded s) : ClockBounded (s.setClock s.clock.substitute) := by
  obtain ⟨label, -, -, cap, -, -, set⟩ := hs
  exact ⟨label, Nat.zero_le _, Nat.zero_le _, cap, by simp [Clock.substitute], fun _ => rfl, set⟩

theorem ClockBounded.capture {s : State} (hs : ClockBounded s) (free : s.clock.lock = .free)
    (few : s.clock.nextCapRun < 4) : ClockBounded (s.setClock s.clock.capture) := by
  obtain ⟨label, tick, -, -, -, -, set⟩ := hs
  exact ⟨label, tick, Nat.zero_le _, Nat.le_of_lt_succ few, by simp [Clock.capture, free], fun _ => rfl, set⟩

theorem ClockBounded.recapture {s : State} (hs : ClockBounded s) (phased : s.clock.phased = true)
    (free : s.clock.lock = .free) : ClockBounded (s.setClock s.clock.recapture) := by
  obtain ⟨label, -, -, -, -, -, set⟩ := hs
  exact ⟨label, Nat.zero_le _, by simp [Clock.recapture], Nat.zero_le _, by simp [Clock.recapture, free],
    by simp [Clock.recapture, phased], set⟩

theorem ClockBounded.spuriousEdge {s : State} (hs : ClockBounded s) (phased : s.clock.phased = true)
    (ord : BoundaryOrder) : ClockBounded (spuriousEdge ord s) := by
  simp only [Machine.spuriousEdge]
  split
  · exact hs.raise _
  next free =>
    split
    · exact ((hs.recapture phased free).boundary ord).raise _
    next few => exact (hs.capture free (by omega)).raise _

theorem ClockBounded.secinEdge {s : State} (hs : ClockBounded s) (ord : BoundaryOrder) :
    ClockBounded (secinEdge ord s) := by
  unfold Machine.secinEdge
  split
  next phased =>
    split
    · exact hs.spuriousEdge phased ord
    · exact (hs.accept phased).boundary ord
  next unphased => exact (hs.phase (by simpa using unphased)).boundary ord

theorem ClockBounded.substitutedBoundary {s : State} (hs : ClockBounded s) (ord : BoundaryOrder) :
    ClockBounded (substitutedBoundary ord s) := by
  unfold Machine.substitutedBoundary
  split
  · exact (hs.substitute.boundary ord).raise _
  · exact hs

/-- The commands that make no boundary, load no label and make no reset change the Base Clock at most by a pending
adoption. -/
theorem exec_asks {c : Instr} {s t : State} (h : exec c s = .next t) (label : ∀ v, c ≠ .setBaseLabel v)
    (reset : ∀ x y, c ≠ .reset x y) (edge : ∀ ord, c ≠ .secinEdge ord) (sub : ∀ ord, c ≠ .substitutedBoundary ord) :
    asksOnly s t := by
  cases c with
  | setBaseLabel v => exact absurd rfl (label v)
  | reset x y => exact absurd rfl (reset x y)
  | secinEdge ord => exact absurd rfl (edge ord)
  | substitutedBoundary ord => exact absurd rfl (sub ord)
  | adoptionRequest => exact of_next h (requestIfDue_asks s)
  | rxFrameInvalid f => exact of_next h (receiveRaw_asks f s)
  | beacon sender body => exact of_next h (receiveTyped_asks _ _ _ _ s)
  | propose sender body => exact of_next h (receiveTyped_asks _ _ _ _ s)
  | endorse sender body => exact of_next h (receiveTyped_asks _ _ _ _ s)
  | object sender body => exact of_next h (receiveTyped_asks _ _ _ _ s)
  | ratify sender body => exact of_next h (receiveTyped_asks _ _ _ _ s)
  | reciteReq sender body => exact of_next h (receiveTyped_asks _ _ _ _ s)
  | recital sender body => exact of_next h (receiveTyped_asks _ _ _ _ s)
  | scaleState sender body => exact of_next h (receiveTyped_asks _ _ _ _ s)
  | _ => exact .of_frame (exec_frame _ h) (by simp [touches])

theorem ClockBounded.setBaseLabel {v : BitVec 40} {s t : State} (hs : ClockBounded s)
    (h : exec (.setBaseLabel v) s = .next t) : ClockBounded t := by
  refine of_next h ?_
  unfold configure
  split
  · exact hs
  · obtain ⟨label, tick, run, cap, lock, phase, -⟩ := hs
    refine ⟨label, tick, run, cap, lock, phase, fun p hp _ => ?_⟩
    obtain rfl : _ = p := Option.some.inj hp
    exact v.isLt

theorem ClockBounded.exec {c : Instr} {s t : State} (hs : ClockBounded s) (h : exec c s = .next t) :
    ClockBounded t := by
  by_cases hset : ∃ v, c = .setBaseLabel v
  · obtain ⟨v, rfl⟩ := hset; exact hs.setBaseLabel h
  by_cases hreset : ∃ x y, c = .reset x y
  · obtain ⟨x, y, rfl⟩ := hreset
    exact of_next h (by decide : ClockBounded State.reset)
  by_cases hedge : ∃ ord, c = .secinEdge ord
  · obtain ⟨ord, rfl⟩ := hedge; exact of_next h (hs.secinEdge ord)
  by_cases hsub : ∃ ord, c = .substitutedBoundary ord
  · obtain ⟨ord, rfl⟩ := hsub; exact of_next h (hs.substitutedBoundary ord)
  simp only [not_exists] at hset hreset hedge hsub
  exact .of_asks (exec_asks h hset hreset hedge hsub) hs

/-- A substituted boundary is due at its tick count, so that a tick with no event due does not pass it (R4). -/
theorem tick_lt_of_not_due {s : State} (h : s.dueEvents = []) : s.clock.tick < Config.substituteAt := by
  by_contra hge
  have due : Instr.substitutedBoundary (Config.boundaryOrder s.free) ∈ s.dueEvents := by
    simp [State.dueEvents, State.unitsDue, dueWhen, Nat.not_lt.1 hge]
  simp [h] at due

theorem ClockBounded.tick {s : State} (hs : ClockBounded s) (h : s.dueEvents = []) : ClockBounded (tick s) := by
  obtain ⟨label, -, run, cap, lock, phase, set⟩ := hs
  exact ⟨label, tick_lt_of_not_due h, run, cap, lock, phase, set⟩

/-- Settles O55: each command, each claim and each tick keeps the ranges of the Base Clock. -/
theorem stepsKeepTheClockBounded : Obligations.StepsKeepTheClockBounded := by
  intro s t hs h
  exact step_keeps (I := ClockBounded) (J := ClockBounded) (fun s t frame => .of_asks (.of_frame frame))
    (fun c s t hs h => hs.exec h)
    (fun s v vs hs _ => .of_asks (.of_frame ((withVerdicts_frame vs s).then (take_frame v _)
      (rs := [.scales, .table, .line, .verdicts, .port, .notices]))) hs)
    (fun s hs quiet => hs.tick quiet) hs h

end Sys2Proof.Machine
end

section
/-! SUPPORT. The soundness of entries and scales as one invariant over a rule on windows, and the operations on the
table that keep it (R13, R22, R23, R29, R94). -/

namespace Sys2Proof.Machine

set_option Elab.async false

/-! ### The invariant -/

/-- A rule on the windows of entries that holds of a settled entry without a window, and that the move to APPLYING
keeps (R22, R143). -/
structure WindowRule (W : EntryState → Option Nat → Prop) : Prop where
  settled : ∀ st, st ≠ .proposed → W st none
  applying : ∀ w, W .ratified w → W .applying w

/-- A rule on windows that holds of a PROPOSED entry whose window is ahead of a label (R29). -/
structure Allows (W : EntryState → Option Nat → Prop) (label : Nat) : Prop extends WindowRule W where
  stored : ∀ w, label < w → W .proposed (some w)

/-- An entry's fields suit its kind, its endorsers are of the shelf with the proposer among them, a settled one has Q of
them, and its window keeps a rule (R22, R23, R94). -/
structure EntrySound (W : EntryState → Option Nat → Prop) (n q : Nat) (e : Entry) : Prop where
  fields : e.toRecord.fieldsOk n = true
  endorsers : endorsersOk n e.id.proposer e.endorsers = true
  quorum : e.settled = true → q ≤ countStations e.endorsers
  window : W e.state e.window

/-- Every entry and every scale is sound, no identifier is held twice, and the part is not UNCONFIGURED where `p`
holds. -/
structure Sound (W : EntryState → Option Nat → Prop) (p : Prop) (s : State) : Prop where
  started : p → s.started
  ids : (s.table.entries.map fun e => e.id).Nodup
  entries : ∀ e ∈ s.table.entries, EntrySound W s.plan.n s.quorum e
  scales : ∀ sc ∈ s.scales.toList, scaleSound p s.plan.n sc

section
variable {W : EntryState → Option Nat → Prop} {p : Prop} {s t : State} {ps : List Part}

theorem Sound.of_find (hs : Sound W p s) {id : Ident} {e : Entry} (h : s.find id = some e) :
    EntrySound W s.plan.n s.quorum e := hs.entries e (mem_of_find h)

/-- What changes neither table nor scales keeps soundness. -/
theorem Sound.of_frame (hs : Sound W p s) (h : ChangesOnly ps s t) (started : p → t.started)
    (table : Part.table ∉ ps := by decide) (scales : Part.scales ∉ ps := by decide)
    (plan : Part.plan ∉ ps := by decide) (quorum : Part.quorum ∉ ps := by decide) : Sound W p t := by
  refine ⟨started, ?_, ?_, ?_⟩
  · rw [h.table table]; exact hs.ids
  · rw [h.table table, h.plan plan, h.quorum quorum]; exact hs.entries
  · rw [h.scales scales, h.plan plan]; exact hs.scales

/-- What changes neither table nor scales nor station keeps soundness. -/
theorem Sound.of_still (hs : Sound W p s) (h : ChangesOnly ps s t) (station : Part.station ∉ ps := by decide)
    (table : Part.table ∉ ps := by decide) (scales : Part.scales ∉ ps := by decide)
    (plan : Part.plan ∉ ps := by decide) (quorum : Part.quorum ∉ ps := by decide) : Sound W p t :=
  hs.of_frame h (fun hp => by rw [State.started, h.station station]; exact hs.started hp) table scales plan quorum

/-- What changes the table keeps soundness where the entries are sound afterwards. -/
theorem Sound.of_entries (hs : Sound W p s) (h : ChangesOnly ps s t)
    (ids : (t.table.entries.map fun e => e.id).Nodup)
    (entries : ∀ e ∈ t.table.entries, EntrySound W s.plan.n s.quorum e)
    (started : p → t.started) (scales : Part.scales ∉ ps := by decide)
    (plan : Part.plan ∉ ps := by decide) (quorum : Part.quorum ∉ ps := by decide) : Sound W p t := by
  refine ⟨started, ids, ?_, ?_⟩
  · rw [h.plan plan, h.quorum quorum]; exact entries
  · rw [h.scales scales, h.plan plan]; exact hs.scales

theorem Sound.started_of (hs : Sound W p s) (h : ChangesOnly ps s t) (station : Part.station ∉ ps := by decide) :
    p → t.started := fun hp => by rw [State.started, h.station station]; exact hs.started hp

/-- Entries mapped by a function that keeps the identifier and the soundness of each. -/
theorem Sound.of_map (hs : Sound W p s) (h : ChangesOnly [.table] s t) {g : Entry → Entry}
    (eq : t.table.entries = s.table.entries.map g) (id : ∀ e, (g e).id = e.id)
    (sound : ∀ e ∈ s.table.entries, EntrySound W s.plan.n s.quorum (g e)) : Sound W p t := by
  refine hs.of_entries h ?_ ?_ (hs.started_of h)
  · rw [eq, List.map_map]
    exact (List.map_congr_left fun e _ => id e) ▸ hs.ids
  · rw [eq]; simpa using sound

/-- A part of the entries, in their order. -/
theorem Sound.of_sublist (hs : Sound W p s) (h : ChangesOnly ps s t)
    (sub : t.table.entries.Sublist s.table.entries) (started : p → t.started)
    (scales : Part.scales ∉ ps := by decide) (plan : Part.plan ∉ ps := by decide)
    (quorum : Part.quorum ∉ ps := by decide) : Sound W p t :=
  hs.of_entries h (hs.ids.sublist (sub.map _)) (fun e he => hs.entries e (sub.subset he)) started scales plan quorum

theorem EntrySound.of_mark {n q : Nat} {e : Entry} (h : EntrySound W n q e) (m : Mark) :
    EntrySound W n q { e with mark := m } := ⟨h.fields, h.endorsers, h.quorum, h.window⟩

/-- Entries that differ in their announcement marks alone are as sound (R81). -/
theorem Sound.of_marks (hs : Sound W p s) (h : ChangesOnly ps s t) (marks : sameButMarks s t) (started : p → t.started)
    (scales : Part.scales ∉ ps := by decide) (plan : Part.plan ∉ ps := by decide)
    (quorum : Part.quorum ∉ ps := by decide) : Sound W p t := by
  obtain ⟨eq, -⟩ := marks
  refine hs.of_entries h ?_ (fun e he => ?_) started scales plan quorum
  · have ids := congrArg (List.map fun e : Entry => e.id) eq
    simp only [List.map_map, Function.comp_def] at ids
    rw [ids]; exact hs.ids
  · obtain ⟨x, hx, same⟩ := List.mem_map.1 (eq ▸ List.mem_map_of_mem he)
    have sound := (hs.entries x hx).of_mark .none
    rw [same] at sound
    exact sound.of_mark e.mark

theorem Sound.foldl {α : Type} {g : State → α → State} {l : List α} (hs : Sound W p s)
    (h : ∀ t, Sound W p t → ∀ a ∈ l, Sound W p (g t a)) : Sound W p (l.foldl g s) :=
  List.foldlRecOn l g hs h

/-! ### The operations on the table -/

theorem Sound.raise (hs : Sound W p s) (n : Notice) : Sound W p (raise n s) := hs.of_still (raise_frame n s)

theorem Sound.offer (hs : Sound W p s) (f : Frame) : Sound W p (offer f s) := hs.of_still (offer_frame f s)

theorem Sound.freeEntry (hs : Sound W p s) (id : Ident) (n : Notice) : Sound W p (freeEntry id n s) :=
  hs.of_sublist (freeEntry_frame id n s) List.filter_sublist (hs.started_of (freeEntry_frame id n s))

theorem Sound.freeExecuted (hs : Sound W p s) (id : Ident) (set : StationSet) : Sound W p (freeExecuted id set s) :=
  hs.of_sublist (freeExecuted_frame id set s) List.filter_sublist (hs.started_of (freeExecuted_frame id set s))

theorem Sound.setMark (hs : Sound W p s) (id : Ident) (m : Mark) : Sound W p (s.setMark id m) := by
  refine hs.of_map (setMark_frame id m s) rfl (fun e => ?_) fun e he => ?_
  · split <;> rfl
  · split
    · exact (hs.entries e he).of_mark m
    · exact hs.entries e he

theorem Sound.moveMark (hs : Sound W p s) (id : Ident) (a b : Mark) : Sound W p (s.moveMark id a b) :=
  hs.of_marks (moveMark_frame id a b s) (moveMark_sameButMarks s id a b) (hs.started_of (moveMark_frame id a b s))

/-- The entry held under an identifier changed, which is the one that the table finds. -/
theorem Sound.modify (hs : Sound W p s) {id : Ident} {f : Entry → Entry} (hid : ∀ e, (f e).id = e.id)
    (sound : ∀ e, s.find id = some e → EntrySound W s.plan.n s.quorum (f e)) : Sound W p (s.modify id f) := by
  refine hs.of_map (modify_frame id f s) rfl (fun e => ?_) fun e he => ?_
  · split <;> simp [hid]
  · split
    next h => exact sound e (h ▸ find_of_mem hs.ids he)
    next => exact hs.entries e he

theorem Sound.storeEntry (hs : Sound W p s) {r : Record} {st : EntryState} {set : StationSet} {flags : List CfgRule}
    {w : Option Nat} {m : Mark} {o : StoreOrigin} (free : s.find r.id = none)
    (sound : EntrySound W s.plan.n s.quorum
      { r with state := st, endorsers := set, flags := flags, window := w, stamp := s.table.nextStamp, mark := m }) :
    Sound W p (storeEntry r st set flags w m o s) := by
  have frame := storeEntry_frame r st set flags w m o s
  refine hs.of_entries frame ?_ (fun e he => ?_) (hs.started_of frame)
  · refine ((insertEntry_perm _ _).map _).nodup_iff.2 (List.nodup_cons.2 ⟨fun hmem => ?_, hs.ids⟩)
    obtain ⟨x, hx, hid⟩ := List.mem_map.1 hmem
    exact lookup_none_iff.1 (find_eq_lookup s r.id ▸ free) x hx hid
  · obtain rfl | he := mem_insertEntry.1 he
    · exact sound
    · exact hs.entries e he

/-! ### The scales -/

theorem scaleSound_undefined (p : Prop) (n : Nat) : scaleSound p n Scale.undefined := by
  refine ⟨by simp [Scale.undefined], by simp [Scale.undefined], by simp [Scale.undefined]⟩

theorem Sound.scale (hs : Sound W p s) (k : Nat) : scaleSound p s.plan.n (s.scale k) := by
  unfold State.scale
  split
  · exact hs.scales _ (by simp)
  · exact scaleSound_undefined _ _

theorem Sound.setScale (hs : Sound W p s) (k : Nat) {sc : Scale} (sound : scaleSound p s.plan.n sc) :
    Sound W p (s.setScale k sc) := by
  refine ⟨fun hp => by simpa [State.started] using hs.started hp, by simpa using hs.ids, by simpa using hs.entries,
    fun x hx => ?_⟩
  rw [setScale_plan]
  rw [setScale_scales] at hx
  split at hx
  · rw [Vector.toList_setIfInBounds] at hx
    obtain hx | rfl := List.mem_or_eq_of_mem_set hx
    · exact hs.scales x hx
    · exact sound
  · exact hs.scales x hx

/-- A change that the registry is handed keeps the ranges of a scale, with an offset in its range (R13, R18). -/
theorem scaleSound.change {n : Nat} {sc : Scale} (h : scaleSound p n sc) (c : ScaleChange) {v : Int}
    (offset : c = .offsetTo → -86400 ≤ v ∧ v ≤ 86400) : scaleSound p n (sc.change c v).1 := by
  obtain ⟨lag, off, custodian⟩ := h
  cases c with
  | insertBegin =>
    simp only [Scale.change]
    split
    · exact ⟨lag, off, custodian⟩
    · split <;> exact ⟨lag, off, custodian⟩
  | insertEnd =>
    simp only [Scale.change]
    split
    · exact ⟨lag, off, custodian⟩
    next civil =>
      have civil : sc.kind = .civil := by simpa using civil
      split
      · exact ⟨lag, off, custodian⟩
      · split
        · exact ⟨lag, off, custodian⟩
        · have range := lag civil
          exact ⟨fun _ => ⟨by dsimp only; omega, by dsimp only; omega⟩, by simp [civil], custodian⟩
  | lagDown =>
    simp only [Scale.change]
    split
    · exact ⟨lag, off, custodian⟩
    next civil =>
      have civil : sc.kind = .civil := by simpa using civil
      split
      · exact ⟨lag, off, custodian⟩
      · have range := lag civil
        exact ⟨fun _ => ⟨by dsimp only; omega, by dsimp only; omega⟩, by simp [civil], custodian⟩
  | offsetTo =>
    simp only [Scale.change]
    split
    · exact ⟨lag, off, custodian⟩
    next loc =>
      have loc : sc.kind = .localScale := by simpa using loc
      exact ⟨by simp [loc], fun _ => offset rfl, custodian⟩

/-! ### The fields that soundness gives -/

/-- A CUSTODY names a station of the shelf (R23). -/
theorem custody_value {n : Nat} {r : Record} (h : r.fieldsOk n = true) (kind : r.kind = .custody) :
    ∀ c ∈ r.value.map Int.toNat, c < n := by
  unfold Record.fieldsOk at h
  rw [kind] at h
  cases hv : r.value with
  | none => simp
  | some v =>
    simp [hv] at h
    intro c hc
    simp at hc
    omega

/-- An OFFSET_SET carries an offset in its range (R23). -/
theorem offset_value {n : Nat} {r : Record} (h : r.fieldsOk n = true) (kind : r.kind = .offsetSet) :
    -86400 ≤ r.value.getD 0 ∧ r.value.getD 0 ≤ 86400 := by
  unfold Record.fieldsOk at h
  rw [kind] at h
  cases hv : r.value with
  | none => simp
  | some v =>
    simp [hv] at h
    simpa using h.2

end

/-! ### Sets of stations -/

theorem hasStation_or (a b : StationSet) (k : Nat) :
    hasStation (a ||| b) k = (hasStation a k || hasStation b k) := BitVec.getLsbD_or

theorem hasStation_addStation (set : StationSet) {k : Nat} (h : k < 16) : hasStation (addStation set k) k = true := by
  simp [hasStation, addStation, h]

theorem stationsBelow_or {n : Nat} {a b : StationSet} (ha : stationsBelow n a = true) (hb : stationsBelow n b = true) :
    stationsBelow n (a ||| b) = true := by
  simp only [stationsBelow, decide_eq_true_eq] at *
  rw [BitVec.toNat_or]
  exact Nat.or_lt_two_pow ha hb

theorem stationsBelow_addStation {n k : Nat} {set : StationSet} (h : stationsBelow n set = true) (hk : k < n)
    (hk16 : k < 16) : stationsBelow n (addStation set k) = true := by
  refine stationsBelow_or h ?_
  simp only [stationsBelow, decide_eq_true_eq, BitVec.toNat_twoPow]
  rw [Nat.mod_eq_of_lt (Nat.pow_lt_pow_right (by decide) hk16)]
  exact Nat.pow_lt_pow_right (by decide) hk

theorem stationsBelow_noStations (n : Nat) : stationsBelow n noStations = true := by
  simp [stationsBelow, noStations]

theorem countStations_mono {a b : StationSet} (h : ∀ k, hasStation a k = true → hasStation b k = true) :
    countStations a ≤ countStations b := List.countP_mono_left fun k _ => h k

/-- A set with a station of the shelf in it has at least one. -/
theorem countStations_pos {set : StationSet} {k : Nat} (h : hasStation set k = true) : 1 ≤ countStations set := by
  have hk : k < 16 := by
    by_contra hge
    rw [hasStation, BitVec.getLsbD_of_ge _ _ (Nat.not_lt.1 hge)] at h
    exact absurd h (by decide)
  exact List.countP_pos_iff.2 ⟨k, List.mem_range.2 hk, h⟩

theorem endorsersOk_iff {n k : Nat} {set : StationSet} :
    endorsersOk n k set = true ↔ stationsBelow n set = true ∧ hasStation set k = true := by
  simp [endorsersOk]

/-- The proposer alone is an endorser set of the shelf. -/
theorem endorsersOk_proposer {n k : Nat} (hk : k < n) (hn : n ≤ 16) :
    endorsersOk n k (addStation noStations k) = true :=
  endorsersOk_iff.2 ⟨stationsBelow_addStation (stationsBelow_noStations n) hk (by omega),
    hasStation_addStation _ (by omega)⟩

theorem endorsersOk_or {n k : Nat} {a b : StationSet} (ha : endorsersOk n k a = true) (hb : stationsBelow n b = true) :
    endorsersOk n k (a ||| b) = true := by
  obtain ⟨below, has⟩ := endorsersOk_iff.1 ha
  exact endorsersOk_iff.2 ⟨stationsBelow_or below hb, by rw [hasStation_or, has, Bool.true_or]⟩

theorem endorsersOk_addStation {n k m : Nat} {set : StationSet} (h : endorsersOk n k set = true) (hm : m < n)
    (hn : n ≤ 16) : endorsersOk n k (addStation set m) = true := by
  have one : stationsBelow n (BitVec.twoPow 16 m) = true := by
    simpa [addStation, noStations] using stationsBelow_addStation (stationsBelow_noStations n) hm (by omega)
  exact endorsersOk_or h one

end Sys2Proof.Machine
end

section
/-! SUPPORT. The units' shared operations keep entries and scales sound: the change of station state, the Agreement
Engine, the merge of recital records and the pass. -/

namespace Sys2Proof.Machine

set_option Elab.async false

section
variable {W : EntryState → Option Nat → Prop} {p : Prop} {s : State}

/-! ### The change of station state -/

theorem Sound.enterState (hs : Sound W p s) {new : StationState} (h : new ≠ .unconfigured) :
    Sound W p (enterState new s) :=
  hs.of_marks (enterState_frame new s) (enterState_sameButMarks new s)
    fun _ => by rw [State.started, enterState_state]; exact h

theorem Sound.roundFailed (hs : Sound W p s) (origin : RecvOrigin) : Sound W p (roundFailed origin s) := by
  cases origin with
  | joining => exact hs.enterState (by decide)
  | discord => exact hs
  | missedEntry => exact hs

theorem withAttempt_frame (c : Option RecvCtx) (k : Nat) (s : State) :
    ChangesOnly [.receiving, .serial] s { s with serial := k, receiving := c } := by
  intro p hp; cases p <;> first | rfl | simp at hp

theorem Sound.failAttempt (hs : Sound W p s) (cause : AttemptCause) : Sound W p (failAttempt cause s) := by
  unfold Machine.failAttempt
  split
  · exact hs
  next c _ =>
    simp only
    split
    · exact (hs.of_still (withAttempt_frame _ _ s)).of_still (offerRequest_frame _)
    · exact Sound.roundFailed (Sound.raise (hs.of_still (withReceiving_frame none s)) _) c.origin

/-! ### Reports of frames -/

theorem Sound.reportPurged (hs : Sound W p s) (f : Frame) : Sound W p (reportPurged s f) :=
  hs.of_marks (reportPurged_frame f s) (reportPurged_sameButMarks s f) (hs.started_of (reportPurged_frame f s))

theorem Sound.reportSent (hs : Sound W p s) (f : Frame) : Sound W p (reportSent s f) := by
  unfold Machine.reportSent
  split
  · exact hs.moveMark _ _ _
  · exact hs.moveMark _ _ _
  · exact hs.of_still (setRequest_frame _ _ s)
  · split
    · exact hs.of_still (recitalFrameSent_frame s)
    · exact hs
  · split
    · exact hs.of_still (recitalEnded_frame s)
    · exact hs
  · exact hs

theorem Sound.reportAbandoned (hs : Sound W p s) (f : Frame) : Sound W p (reportAbandoned s f) := by
  unfold Machine.reportAbandoned
  split
  · exact hs.moveMark _ _ _
  · exact hs.moveMark _ _ _
  · exact hs.of_still (setRequest_frame _ _ s)
  · split
    · exact hs.of_still (recitalOfferFailed_frame s)
    · exact hs
  · split
    · exact hs.of_still (recitalOfferFailed_frame s)
    · exact hs
  · exact hs

/-! ### The Agreement Engine -/

theorem Sound.offerPropose (hs : Sound W p s) (r : Record) : Sound W p (offerPropose r s) :=
  (hs.offer _).setMark _ _

theorem Sound.offerRatify (hs : Sound W p s) (id : Ident) (set : StationSet) : Sound W p (offerRatify id set s) :=
  (hs.offer _).setMark _ _

theorem Sound.lapseOvertaken (hs : Sound W p s) (id : Ident) : Sound W p (lapseOvertaken id s) :=
  hs.foldl fun _ ht _ _ => ht.freeEntry _ _

theorem Sound.withdrawTarget (hs : Sound W p s) (target withdraw : Ident) :
    Sound W p (withdrawTarget target withdraw s) := by
  unfold Machine.withdrawTarget
  split
  · exact hs
  · split
    · exact hs.raise _
    · exact hs.freeEntry _ _

/-- Ratification needs an endorser set of the shelf, and for a kind that stays in the table one of Q (R31, R94). -/
theorem Sound.ratifyClaim (hs : Sound W p s) (rule : WindowRule W) {e : Entry} {set : StationSet}
    (he : s.find e.id = some e) (ok : endorsersOk s.plan.n e.id.proposer set = true)
    (quorum : e.kind.scheduled = true → s.quorum ≤ countStations set) : Sound W p (ratifyClaim e set s) := by
  have sound := hs.of_find he
  unfold Machine.ratifyClaim
  split
  next custody =>
    obtain ⟨lag, offset, -⟩ := hs.scale (e.scale.getD 0)
    have taken : scaleSound p s.plan.n
        { s.scale (e.scale.getD 0) with custodian := e.value.map Int.toNat } :=
      ⟨lag, offset, fun _ => custody_value sound.fields custody⟩
    exact (hs.setScale _ taken).freeExecuted _ _
  next => exact (hs.withdrawTarget _ _).freeExecuted _ _
  next custody withdraw =>
    have scheduled : e.kind.scheduled = true := by
      cases h : e.kind <;> simp_all [Kind.scheduled]
    split
    · refine Sound.raise (hs.modify (by simp) fun x hx => ?_) _
      obtain rfl : e = x := Option.some.inj (he.symm.trans hx)
      exact ⟨sound.fields, ok, fun _ => quorum scheduled, rule.settled _ (by simp)⟩
    · exact hs.freeEntry _ _

theorem Sound.ratifyOwn (hs : Sound W p s) (rule : WindowRule W) {id : Ident}
    (quorum : ∀ e, s.find id = some e → e.kind.scheduled = true → s.quorum ≤ countStations e.endorsers) :
    Sound W p (ratifyOwn id s) := by
  unfold Machine.ratifyOwn
  split
  · exact hs
  next e he =>
    have hid : e.id = id := find_id he
    have he' : s.find e.id = some e := hid ▸ he
    have claim : Sound W p (Machine.ratifyClaim e e.endorsers s) :=
      hs.ratifyClaim rule he' (hs.of_find he).endorsers (quorum e he)
    split
    · simp only
      split
      · exact claim
      · split
        · split
          · exact claim.offerRatify _ _
          · exact claim.setMark _ _
        · exact claim
    next unscheduled =>
      split
      · split
        · exact claim
        · have frame := offer_frame (ratifyFrame id e.endorsers) s
          refine (hs.offer _).ratifyClaim rule ((find_offer _ s _).trans he') ?_ (fun h => absurd h unscheduled)
          rw [frame.plan]
          exact (hs.of_find he).endorsers
      · exact hs

theorem Sound.addEndorsers (hs : Sound W p s) (rule : WindowRule W) (id : Ident) {set : StationSet}
    (below : stationsBelow s.plan.n set = true) : Sound W p (addEndorsers id set s) := by
  unfold Machine.addEndorsers
  split
  · exact hs
  next e he =>
    simp only
    split
    · exact hs
    · have sound := hs.of_find he
      have more : countStations e.endorsers ≤ countStations (e.endorsers ||| set) :=
        countStations_mono fun k hk => by rw [hasStation_or, hk, Bool.true_or]
      have added : Sound W p (s.modify id fun x => { x with endorsers := e.endorsers ||| set }) := by
        refine hs.modify (by simp) fun x hx => ?_
        obtain rfl : e = x := Option.some.inj (he.symm.trans hx)
        exact ⟨sound.fields, endorsersOk_or sound.endorsers below, fun h => (sound.quorum h).trans more, sound.window⟩
      split
      next reached =>
        refine added.ratifyOwn rule fun x hx _ => ?_
        rw [find_modify _ _ _ (by simp), if_pos rfl, he] at hx
        obtain rfl := Option.some.inj hx
        exact reached.2.2
      · exact added

/-- The ratification of a kind without a turn only frees entries (R31). -/
theorem ratifyOwn_unscheduled {id : Ident} (h : ∀ e, s.find id = some e → e.kind.scheduled = false) :
    (ratifyOwn id s).table.entries ⊆ s.table.entries := by
  unfold ratifyOwn
  split
  · exact List.Subset.refl _
  next e he =>
    have claim (u : State) (hu : u.table = s.table) :
        (ratifyClaim e e.endorsers u).table.entries ⊆ s.table.entries := by
      have unscheduled := h e he
      rw [← hu]
      unfold ratifyClaim
      split
      · simp only [freeExecuted, raise_table, setEntries_table, setScale_table]
        exact List.filter_sublist.subset
      · refine List.Subset.trans (List.filter_sublist.subset) ?_
        unfold withdrawTarget
        split
        · exact List.Subset.refl _
        · split
          · exact List.Subset.refl _
          · exact List.filter_sublist.subset
      next custody withdraw => cases hk : e.kind <;> simp_all [Kind.scheduled]
    rw [if_neg (by simp [h e he])]
    split
    · split
      · exact claim s rfl
      · exact claim _ (offer_table _ s)
    · exact List.Subset.refl _

theorem Sound.retestQuorum (hs : Sound W p s) (rule : WindowRule W) : Sound W p (retestQuorum s) := by
  unfold Machine.retestQuorum whenActive
  split
  · refine (List.foldlRecOn (motive := fun t => Sound W p t ∧ t.table.entries ⊆ s.table.entries) _ _
      ⟨hs, List.Subset.refl _⟩ fun t ht id hid => ?_).1
    obtain ⟨sound, sub⟩ := ht
    have unscheduled : ∀ e, t.find id = some e → e.kind.scheduled = false := fun e he => by
      obtain ⟨x, hx, rfl⟩ := List.mem_map.1 hid
      obtain ⟨hx, test⟩ := List.mem_filter.1 hx
      obtain rfl : x = e := List.inj_on_of_nodup_map hs.ids hx (sub (mem_of_find he)) (find_id he).symm
      simp only [Bool.and_eq_true, Bool.not_eq_true'] at test
      exact test.1.1.2
    exact ⟨sound.ratifyOwn rule fun e he h => absurd h (by simp [unscheduled e he]),
      List.Subset.trans (ratifyOwn_unscheduled unscheduled) sub⟩
  · exact hs

theorem Sound.reofferRatify (hs : Sound W p s) : Sound W p (reofferRatify s) := by
  unfold Machine.reofferRatify whenActive
  split
  · refine hs.foldl fun t ht id _ => ?_
    split
    · exact ht.offerRatify _ _
    · exact ht
  · exact hs

theorem Sound.reofferPropose (hs : Sound W p s) : Sound W p (reofferPropose s) := by
  unfold Machine.reofferPropose whenActive
  split
  · refine hs.foldl fun t ht id _ => ?_
    split
    · exact ht.offerPropose _
    · exact ht
  · exact hs

theorem Sound.expireEntry (hs : Sound W p s) (id : Ident) : Sound W p (expireEntry id s) := by
  unfold Machine.expireEntry
  split
  · split
    · exact hs.freeEntry _ _
    · exact hs
  · exact hs

theorem Sound.expireWindows (hs : Sound W p s) : Sound W p (expireWindows s) :=
  hs.foldl fun _ ht _ _ => ht.expireEntry _

/-! ### The merge of recital records (R135 to R137) -/

theorem Sound.tally (hs : Sound W p s) (f : Tallies → Tallies) : Sound W p (tally f s) :=
  hs.of_still (tally_frame f s)

theorem recoverSequence_entries (id : Ident) (s : State) :
    (recoverSequence id s).table.entries = s.table.entries := by
  unfold recoverSequence; split <;> rfl

theorem recoverSequences_entries (r : Record) (s : State) :
    (recoverSequences r s).table.entries = s.table.entries := by
  simp only [recoverSequences]
  split <;> simp only [recoverSequence_entries]

theorem Sound.recoverSequences (hs : Sound W p s) (r : Record) : Sound W p (recoverSequences r s) :=
  hs.of_sublist (recoverSequences_frame r s) (recoverSequences_entries r s ▸ List.Sublist.refl _)
    (hs.started_of (recoverSequences_frame r s))

theorem Sound.skipConflict (hs : Sound W p s) (r : Record) : Sound W p (skipConflict r s) :=
  hs.of_still (skipConflict_frame r s)

/-- What the form test of R132 gives of a record: its fields and endorsers, a window with time remaining while it is
PROPOSED, and Q endorsers once it is settled. -/
theorem recitalRecordOk_iff {rr : RecitalRecord} :
    recitalRecordOk s rr = true ↔
      rr.record.fieldsOk s.plan.n = true ∧ endorsersOk s.plan.n rr.record.id.proposer rr.endorsers = true ∧
      (rr.state = .proposed → rr.window = true ∧ rr.remaining ≠ 0) ∧
      (rr.state ≠ .proposed → rr.window = false ∧ rr.remaining = 0 ∧ rr.record.kind.scheduled = true ∧
        s.quorum ≤ countStations rr.endorsers) := by
  unfold recitalRecordOk Record.wellFormed
  cases rr.state <;> simp [and_assoc]

theorem Sound.advanceEntry (hs : Sound W p s) (rule : WindowRule W) {rr : RecitalRecord}
    (ok : recitalRecordOk s rr = true) (settled : rr.state ≠ .proposed) : Sound W p (advanceEntry rr s) := by
  obtain ⟨-, set, -, quorate⟩ := recitalRecordOk_iff.1 ok
  have advanced : Sound W p (Machine.raise (.ratified rr.record.id rr.endorsers .merged)
      (s.modify rr.record.id fun x =>
        { x with state := rr.state, endorsers := rr.endorsers, window := none, mark := .none })) := by
    refine Sound.raise (hs.modify (by simp) fun x hx => ?_) _
    exact ⟨(hs.of_find hx).fields, find_id hx ▸ set, fun _ => (quorate settled).2.2.2, rule.settled _ settled⟩
  simp only [Machine.advanceEntry]
  split
  · exact (advanced.lapseOvertaken _).tally _
  · exact advanced.tally _

theorem later_settled {a b : EntryState} (h : a.later b = true) : a ≠ .proposed := by
  rintro rfl
  cases b <;> simp [EntryState.later, EntryState.code] at h

theorem Sound.mergeHeld (hs : Sound W p s) (rule : WindowRule W) {rr : RecitalRecord} (e : Entry)
    (ok : recitalRecordOk s rr = true) : Sound W p (mergeHeld rr e s) := by
  obtain ⟨-, set, -⟩ := recitalRecordOk_iff.1 ok
  unfold Machine.mergeHeld
  split
  next later =>
    split
    · exact hs.tally _
    · split
      · exact hs.advanceEntry rule ok (later_settled later)
      · exact hs.skipConflict _
  · split
    · exact (hs.tally _).addEndorsers rule _ (endorsersOk_iff.1 set).1
    · exact hs.tally _

theorem insertionState_proposed {rr : RecitalRecord} : insertionState s rr = .proposed ↔ rr.state = .proposed := by
  unfold insertionState
  cases rr.state with
  | proposed => simp
  | ratified => cases rr.record.turn <;> simp; split <;> simp
  | applying => cases rr.record.turn <;> simp

theorem Sound.insertRecord (hs : Sound W p s) (adm : Allows W s.clock.label) {rr : RecitalRecord}
    (free : s.find rr.record.id = none) (ok : recitalRecordOk s rr = true) : Sound W p (insertRecord rr s) := by
  obtain ⟨fields, set, open_, quorate⟩ := recitalRecordOk_iff.1 ok
  have stored : Sound W p (Machine.storeEntry rr.record (insertionState s rr) rr.endorsers []
      (if insertionState s rr = .proposed then some (s.clock.label + rr.remaining) else none) .none .merge s) := by
    refine hs.storeEntry free ⟨fields, set, fun settled => ?_, ?_⟩
    · have : rr.state ≠ .proposed := fun h => by simp [Entry.settled, insertionState_proposed.2 h] at settled
      exact (quorate this).2.2.2
    · dsimp only
      split
      next h =>
        rw [h]
        have := (open_ (insertionState_proposed.1 h)).2
        exact adm.stored _ (by omega)
      next h => exact adm.settled _ h
  simp only [Machine.insertRecord]
  split
  · exact (stored.lapseOvertaken _).tally _
  · exact stored.tally _

theorem Sound.mergeNew (hs : Sound W p s) (adm : Allows W s.clock.label) {rr : RecitalRecord}
    (free : s.find rr.record.id = none) (ok : recitalRecordOk s rr = true) : Sound W p (mergeNew rr s) := by
  simp only [Machine.mergeNew]
  split
  · exact hs.tally _
  · split
    · exact hs.tally _
    · split
      · exact hs.tally _
      · split
        · exact hs.skipConflict _
        · split
          · exact hs.failAttempt _
          · exact hs.insertRecord adm free ok

theorem recitalRecordOk_of_frame {ps : List Part} {t : State} (h : ChangesOnly ps s t) {rr : RecitalRecord}
    (plan : Part.plan ∉ ps := by decide) (quorum : Part.quorum ∉ ps := by decide) :
    recitalRecordOk t rr = recitalRecordOk s rr := by
  simp only [recitalRecordOk, h.plan plan, h.quorum quorum]

theorem Sound.mergeRecord (hs : Sound W p s) (adm : Allows W s.clock.label) {rr : RecitalRecord}
    (ok : recitalRecordOk s rr = true) : Sound W p (mergeRecord rr s) := by
  have recovered := hs.recoverSequences rr.record
  have frame := recoverSequences_frame rr.record s
  have ok' : recitalRecordOk (Machine.recoverSequences rr.record s) rr = true :=
    (recitalRecordOk_of_frame frame).trans ok
  simp only [Machine.mergeRecord]
  split
  · exact recovered.mergeHeld adm.toWindowRule _ ok'
  next free => exact recovered.mergeNew (frame.clock ▸ adm) free ok'

/-! ### Scale-state adoption (R20, R138) -/

theorem scaleSound.adopt {n : Nat} {sc : Scale} (h : scaleSound p n sc) {v : Int} {c : Option Nat}
    (ok : carriedOk n sc v c = true) : scaleSound p n (sc.adopt v c) := by
  obtain ⟨lag, offset, custodian⟩ := h
  unfold carriedOk at ok
  unfold Scale.adopt
  cases hk : sc.kind with
  | undefined => exact ⟨lag, offset, custodian⟩
  | civil =>
    simp only [hk, Bool.and_eq_true, decide_eq_true_eq, Option.all_eq_true] at ok
    exact ⟨fun _ => ok.1, by simp, fun _ => ok.2⟩
  | localScale =>
    simp only [hk, Bool.and_eq_true, decide_eq_true_eq, Option.all_eq_true] at ok
    exact ⟨by simp, fun _ => ok.1, fun _ => ok.2⟩

theorem Sound.adoptScales (hs : Sound W p s) {label : Nat} {body : List Byte} (ok : adoptable s label body = true) :
    Sound W p (adoptScales body s) := by
  simp only [adoptable, Bool.and_eq_true, List.all_eq_true] at ok
  refine ⟨hs.started, hs.ids, hs.entries, fun sc hsc => ?_⟩
  have sound (i : Fin 5) : scaleSound p s.plan.n
      (s.scales[i].adopt (carriedValue body i.val) (carriedCustodian body i.val)) :=
    (hs.scales _ (by simp)).adopt (ok.2 i (List.mem_finRange i))
  have carried : (Machine.adoptScales body s).scales = adoptedScales s.scales body := rfl
  rw [carried] at hsc
  have mem : sc ∈ (List.finRange 5).map fun i : Fin 5 =>
      s.scales[i].adopt (carriedValue body i.val) (carriedCustodian body i.val) := hsc
  obtain ⟨i, -, rfl⟩ := List.mem_map.1 mem
  exact sound i

theorem attState_ne (s : State) : s.attState ≠ .unconfigured := by
  unfold State.attState; split <;> simp

theorem Sound.recitalDone (hs : Sound W p s) (source : Nat) : Sound W p (recitalDone source s) := by
  unfold Machine.recitalDone
  split
  · exact hs
  next c _ =>
    have done : Sound W p (Machine.raise (.recitalDone source c.origin c.tallies) { s with receiving := none }) :=
      (hs.of_still (withReceiving_frame none s)).raise _
    simp only
    split
    · exact done.enterState (attState_ne _)
    · exact done

theorem Sound.handScales (hs : Sound W p s) (sender label : Nat) (body : List Byte) :
    Sound W p (handScales sender label body s) := by
  unfold Machine.handScales
  split
  next ok => exact (hs.adoptScales ok).recitalDone _
  · exact hs.failAttempt _

/-- A record that the form test lets through is well formed (R132). -/
theorem recitalContent_entry {scaleState : Bool} {total : Nat} {body : List Byte} {rr : RecitalRecord}
    (h : recitalContent s scaleState total body = some (.entry rr)) : recitalRecordOk s rr = true := by
  simp only [recitalContent] at h
  split at h
  · simp at h
  · split at h
    · split at h <;> simp at h
    · split at h
      · simp at h
      · split at h
        · simp at h
        · split at h
          · split at h
            next ok => simp at h; exact h ▸ ok
            next => simp at h
          · simp at h

theorem Sound.takeInOrder (hs : Sound W p s) (adm : Allows W s.clock.label) (kind : FrameKind) (sender : Nat)
    (body : List Byte) (c : RecvCtx) (total : Nat) : Sound W p (takeInOrder kind sender body c total s) := by
  unfold Machine.takeInOrder
  split
  · exact (hs.raise _).failAttempt _
  next content hc =>
    have frame := withReceiving_frame (some { c with wait := 0, expected := c.expected + 1 }) s
    have taken := hs.of_still frame
    simp only
    split
    · exact taken
    next rr =>
      refine taken.mergeRecord adm ((recitalRecordOk_of_frame frame).trans ?_)
      exact recitalContent_entry hc
    · exact taken.handScales _ _ _

theorem Sound.takeRecitalFrame (hs : Sound W p s) (adm : Allows W s.clock.label) (kind : FrameKind) (sender : Nat)
    (body : List Byte) : Sound W p (takeRecitalFrame kind sender body s) := by
  unfold Machine.takeRecitalFrame
  split
  · exact hs
  next c _ =>
    split
    · exact hs
    · simp only
      split
      · split
        · exact Sound.takeInOrder
            (hs.of_still (withReceiving_frame
              (some { c with source := some sender, total := some (field body 1 1) }) s)) adm _ _ _ _ _
        · exact hs
      · split
        · exact hs
        · split
          · exact hs.takeInOrder adm _ _ _ _ _
          · exact hs.failAttempt _

/-! ### The pass (R142 to R149) -/

theorem Sound.handChange (hs : Sound W p s) (c : ScaleChange) (k : Nat) {v : Int} (id : Ident)
    (offset : c = .offsetTo → -86400 ≤ v ∧ v ≤ 86400) : Sound W p (handChange c k v id s) :=
  (hs.setScale k ((hs.scale k).change c offset)).foldl fun t ht x _ => ht.of_still (setChange_frame x _ t)

theorem Sound.completeEntry (hs : Sound W p s) (c : ScaleChange) (e : Entry)
    (offset : c = .offsetTo → -86400 ≤ e.value.getD 0 ∧ e.value.getD 0 ≤ 86400) : Sound W p (completeEntry c e s) :=
  (hs.handChange c _ e.id offset).freeEntry _ _

/-- A change of state that the window rule and the settled state of an entry allow. -/
theorem Sound.enterApplying (hs : Sound W p s) (rule : WindowRule W) {id : Ident}
    (ratified : ∀ e, s.find id = some e → e.state = .ratified) : Sound W p (enterApplying id s) := by
  refine Sound.lapseOvertaken (hs.modify (by simp) fun e he => ?_) _
  have sound := hs.of_find he
  have state := ratified e he
  exact ⟨sound.fields, sound.endorsers, fun _ => sound.quorum (by simp [Entry.settled, state]),
    rule.applying _ (state ▸ sound.window)⟩

theorem Sound.actWhenDue (hs : Sound W p s) {n : Nat} {e : Entry} (fields : e.toRecord.fieldsOk n = true) (turn : Nat) :
    Sound W p (actWhenDue e turn s) := by
  unfold Machine.actWhenDue
  split
  · split
    · exact hs.handChange _ _ _ (by simp)
    · split
      · exact hs.completeEntry _ _ (by simp)
      · exact hs
  · split
    · exact hs.completeEntry _ _ (by simp)
    · exact hs
  next kind =>
    split
    · exact hs.completeEntry _ _ fun _ => offset_value fields kind
    · exact hs
  · exact hs

theorem Sound.applyEntry (hs : Sound W p s) (rule : WindowRule W) (id : Ident) : Sound W p (applyEntry id s) := by
  unfold Machine.applyEntry
  split
  · exact hs
  next e he =>
    have fields := (hs.of_find he).fields
    split
    · exact hs
    · split
      · exact hs
      next ratified =>
        split
        · refine (hs.enterApplying rule fun x hx => ?_).actWhenDue fields _
          obtain rfl := Option.some.inj (he.symm.trans hx)
          exact ratified
        · exact hs
      · exact hs.actWhenDue fields _

theorem clearChanges_frame (s : State) : ChangesOnly [.report] s (clearChanges s) := by
  intro p hp; cases p <;> first | rfl | simp at hp

theorem formReport_frame (s : State) : ChangesOnly [.report] s (formReport s) := by
  intro p hp; cases p <;> first | rfl | simp at hp

theorem Sound.applyPass (hs : Sound W p s) (rule : WindowRule W) : Sound W p (applyPass s) := by
  unfold Machine.applyPass
  split
  · exact hs
  · exact ((hs.of_still (clearChanges_frame s)).foldl fun _ ht _ _ => ht.applyEntry rule _).of_still
      (formReport_frame _)

end

end Sys2Proof.Machine
end

section
/-! SUPPORT. The Station Controller's work, the stages of a boundary, the line and the frames keep entries and scales
sound. -/

namespace Sys2Proof.Machine

set_option Elab.async false

section
variable {W : EntryState → Option Nat → Prop} {p : Prop} {s : State}

/-! ### Operations that change items of the Station Controller but not its state -/

theorem evaluateDiscord_state (s : State) : (evaluateDiscord s).station.state = s.station.state := by
  unfold evaluateDiscord
  dsimp only
  generalize (if evaluationLost (discordSides s).1 (discordSides s).2 = true then EvalResult.lost else .won) = r
  split
  · split <;> rfl
  · rfl

theorem armAdoption_state (s : State) : (armAdoption s).station.state = s.station.state := by
  unfold armAdoption
  split
  · split <;> rfl
  · rfl

theorem requestIfDue_state (s : State) : (requestIfDue s).station.state = s.station.state := by
  unfold requestIfDue
  split <;> rfl

theorem advanceAdoption_state (s : State) : (advanceAdoption s).station.state = s.station.state := by
  unfold advanceAdoption
  split
  · exact requestIfDue_state _
  · rfl

theorem meetBeacon_state (new : Slot) (label : Nat) (s : State) :
    (meetBeacon new label s).station.state = s.station.state := by
  unfold meetBeacon
  split
  · split
    · exact requestIfDue_state _
    · rfl
  · rfl

/-! ### The Station Controller -/

theorem Sound.of_state {ps : List Part} {t : State} (hs : Sound W p s) (h : ChangesOnly ps s t)
    (state : t.station.state = s.station.state) (table : Part.table ∉ ps := by decide)
    (scales : Part.scales ∉ ps := by decide) (plan : Part.plan ∉ ps := by decide)
    (quorum : Part.quorum ∉ ps := by decide) : Sound W p t :=
  hs.of_frame h (fun hp => by rw [State.started, state]; exact hs.started hp) table scales plan quorum

theorem Sound.withStation (hs : Sound W p s) {x : Station} (state : x.state = s.station.state) :
    Sound W p { s with station := x } := hs.of_state (withStation_frame x s) state

theorem Sound.evaluatePlan (hs : Sound W p s) : Sound W p (evaluatePlan s) := by
  unfold Machine.evaluatePlan
  simp only
  split
  · exact (hs.raise _).enterState (by decide)
  · exact hs

theorem Sound.armAdoption (hs : Sound W p s) : Sound W p (armAdoption s) :=
  hs.of_state (armAdoption_frame s) (armAdoption_state s)

theorem Sound.evaluateLabel (hs : Sound W p s) : Sound W p (evaluateLabel s) := by
  unfold Machine.evaluateLabel
  simp only
  split
  · split
    · exact ((hs.raise _).enterState (by decide)).armAdoption
    · split
      · exact hs.armAdoption
      · exact hs
  · split
    · exact hs.enterState (by decide)
    · exact hs

theorem Sound.evaluateDiscord (hs : Sound W p s) : Sound W p (evaluateDiscord s) :=
  hs.of_state (evaluateDiscord_frame s) (evaluateDiscord_state s)

theorem Sound.endListening (hs : Sound W p s) : Sound W p (endListening s) := by
  unfold Machine.endListening
  split
  · exact (hs.enterState (by decide)).of_still (askRecital_frame _ _ _)
  · exact hs.enterState (attState_ne s)

theorem Sound.endListeningIfDue (hs : Sound W p s) : Sound W p (endListeningIfDue s) := by
  unfold Machine.endListeningIfDue
  split
  · exact hs.endListening
  · exact hs

theorem Sound.advanceListening (hs : Sound W p s) : Sound W p (advanceListening s) := by
  unfold Machine.advanceListening
  split
  · exact Sound.endListeningIfDue
      (hs.withStation (x := { s.station with listen := s.station.listen + 1 }) rfl)
  · exact hs

theorem Sound.advanceAdoption (hs : Sound W p s) : Sound W p (advanceAdoption s) :=
  hs.of_state (advanceAdoption_frame s) (advanceAdoption_state s)

theorem Sound.clearAdoption (hs : Sound W p s) : Sound W p (clearAdoption s) := hs.withStation rfl

theorem Sound.afterAdoption (hs : Sound W p s) : Sound W p (afterAdoption s) := by
  unfold Machine.afterAdoption
  split
  · exact hs.enterState (by decide)
  · exact hs.withStation rfl
  · exact hs

theorem Sound.changeSlot (hs : Sound W p s) (k : Nat) (sl : Slot) (cause : PeerCause) :
    Sound W p (changeSlot k sl cause s) := hs.of_still (changeSlot_frame k sl cause s)

theorem Sound.takeReport (hs : Sound W p s) (rep : LabelReport) : Sound W p (takeReport rep s) := by
  unfold Machine.takeReport
  split
  · exact Sound.afterAdoption (Sound.clearAdoption (hs.foldl fun _ ht _ _ => ht.changeSlot _ _ _))
  · exact hs.clearAdoption
  · exact hs

theorem Sound.beaconWork (hs : Sound W p s) : Sound W p (beaconWork s) :=
  (((((hs.of_still (advanceSilences_frame s)).evaluatePlan).evaluateLabel).evaluateDiscord).advanceListening).of_still
    (offerBeacon_frame _)

theorem aged_frame (s : State) : ChangesOnly [.roster] s { s with roster := s.roster.map Slot.older } := by
  intro p hp; cases p <;> first | rfl | simp at hp

theorem Sound.stationWork (hs : Sound W p s) (rep : LabelReport) : Sound W p (stationWork rep s) := by
  have counted := ((hs.of_still (aged_frame s)).takeReport rep).advanceAdoption
  simp only [Machine.stationWork]
  split
  · exact hs
  · split
    · exact counted.beaconWork
    · exact counted

/-! ### The stages of a boundary -/

theorem Sound.receiveWork (hs : Sound W p s) : Sound W p (receiveWork s) := by
  unfold Machine.receiveWork
  split
  · exact hs
  next c _ =>
    have waited := hs.of_still (withReceiving_frame (some { c with wait := c.wait + 1 }) s)
    simp only
    split
    · split
      · exact waited.failAttempt _
      · split
        · exact waited.of_still (offerRequest_frame _)
        · exact waited
    · exact hs

theorem Sound.runStage (hs : Sound W p s) (rule : WindowRule W) (rep : LabelReport) (st : Stage) :
    Sound W p (runStage rep st s) := by
  cases st with
  | apply => exact hs.applyPass rule
  | expiry => exact hs.expireWindows
  | station => exact hs.stationWork rep
  | retest => exact hs.retestQuorum rule
  | ratifyOffers => exact hs.reofferRatify
  | proposeOffers => exact hs.reofferPropose
  | recitalSend => exact hs.of_still (reofferRecital_frame s)
  | recitalReceive => exact hs.receiveWork

theorem Sound.runStages (hs : Sound W p s) (rule : WindowRule W) (rep : LabelReport) (l : List Stage) :
    Sound W p (l.foldl (fun t st => Machine.runStage rep st t) s) :=
  hs.foldl fun _ ht st _ => ht.runStage rule rep st

/-- The windows of a label's jump keep soundness under a rule that does not read where they lie. -/
theorem Sound.moveWindows (hs : Sound W p s) (moves : ∀ w w' : Nat, W .proposed (some w) → W .proposed (some w'))
    (j : Int) : Sound W p (moveWindows j s) := by
  unfold Machine.moveWindows
  split
  · refine hs.of_map (setEntries_frame _ s) rfl (fun e => ?_) fun e he => ?_
    · unfold Entry.moveWindow; split <;> rfl
    · have sound := hs.entries e he
      unfold Entry.moveWindow
      split
      next proposed =>
        refine ⟨sound.fields, sound.endorsers, sound.quorum, ?_⟩
        have window := sound.window
        cases hw : e.window with
        | none => simpa [hw] using window
        | some w => rw [proposed, hw] at window; simpa [proposed] using moves w _ window
      next => exact sound
  · exact hs

/-! ### The line -/

theorem Sound.setLine (hs : Sound W p s) (l : Line) : Sound W p (s.setLine l) := hs.of_still (setLine_frame l s)

theorem Sound.setQueue (hs : Sound W p s) (q : List Frame) : Sound W p (s.setQueue q) :=
  hs.of_still (setQueue_frame q s)

theorem Sound.frameBegin (hs : Sound W p s) : Sound W p (frameBegin s) := by
  unfold Machine.frameBegin
  split
  · have purged : Sound W p ((s.line.queue.takeWhile s.headPurged).foldl Machine.reportPurged
        (s.setQueue (s.line.queue.dropWhile s.headPurged))) :=
      (hs.setQueue _).foldl fun _ ht f _ => ht.reportPurged f
    unfold beginHead
    split
    · exact purged
    · split
      · exact purged.setLine _
      · exact purged
  · exact hs

theorem Sound.frameSent (hs : Sound W p s) : Sound W p (frameSent s) := by
  unfold Machine.frameSent
  split
  · split
    · unfold unlessSilent
      split
      · exact (hs.setLine _).setQueue _
      · exact ((hs.setLine _).setQueue _).reportSent _
    · exact hs
  · exact hs

theorem Sound.abandonFrame (hs : Sound W p s) (f : Frame) : Sound W p (abandonFrame f s) :=
  (hs.reportAbandoned f).raise _

theorem Sound.clashNow (hs : Sound W p s) : Sound W p (clashNow s) := by
  unfold Machine.clashNow
  split
  · split
    · simp only
      split
      · exact (hs.setLine _).setQueue _
      · exact ((hs.setLine _).setQueue _).reportPurged _
      · split
        · exact ((hs.setLine _).setQueue _).abandonFrame _
        · exact (hs.setLine _).setQueue _
    · exact hs
  · exact hs

theorem Sound.abandonNow (hs : Sound W p s) : Sound W p (abandonNow s) := by
  unfold Machine.abandonNow
  split
  · unfold abandonStanding
    split
    · exact (hs.setQueue _).abandonFrame _
    · exact hs
  · split
    · exact hs.clashNow
    · exact hs

/-! ### The line reset (R41, R122) -/

theorem Sound.keptByLineReset (hs : Sound W p s) {ps : List Part} {t : State} (h : ChangesOnly ps s t)
    (table : t.table = s.table.lineReset) (started : p → t.started) (scales : Part.scales ∉ ps := by decide)
    (plan : Part.plan ∉ ps := by decide) (quorum : Part.quorum ∉ ps := by decide) : Sound W p t := by
  have eq : t.table.entries = Machine.keptByLineReset s.table.entries := by rw [table]; rfl
  refine hs.of_entries h ?_ (fun e he => ?_) started scales plan quorum
  · have ids : (Machine.keptByLineReset s.table.entries).map (fun e => e.id) =
        (s.table.entries.filter Entry.settled).map fun e => e.id := by
      rw [Machine.keptByLineReset, List.map_map]
      exact List.map_congr_left fun e _ => by dsimp only [Function.comp]; split <;> rfl
    rw [eq, ids]
    exact hs.ids.sublist (List.filter_sublist.map _)
  · rw [eq] at he
    obtain ⟨x, hx, rfl⟩ := List.mem_map.1 he
    have sound := hs.entries x (List.mem_filter.1 hx).1
    split
    · exact sound.of_mark _
    · exact sound

theorem Sound.joinAfterReset (hs : Sound W p s) : Sound W p (joinAfterReset s) := by
  unfold Machine.joinAfterReset
  split
  · exact hs
  · exact Sound.withStation (hs.enterState (new := .joining) (by decide)) rfl

theorem Sound.lineReset (hs : Sound W p s) (source : ResetSource) : Sound W p (lineReset source s) := by
  unfold Machine.lineReset
  split
  · exact hs
  next started =>
    refine Sound.raise (Sound.joinAfterReset
      (hs.keptByLineReset (ps := [.table, .line, .sending, .receiving, .roster, .station]) ?_ ?_ ?_)) _
    · intro p hp; cases p <;> first | rfl | simp at hp
    · rfl
    · exact fun _ => started

/-! ### Frames and verdicts -/

theorem Sound.storeProposal (hs : Sound W p s) (adm : Allows W s.clock.label) {r : Record} {flags : List CfgRule}
    (free : s.find r.id = none) (fields : r.fieldsOk s.plan.n = true) (proposer : r.id.proposer < s.plan.n)
    (own : s.pins.stn < s.plan.n) (n16 : s.plan.n ≤ 16) : Sound W p (storeProposal r flags s) := by
  have endorsers : endorsersOk s.plan.n r.id.proposer (receivedEndorsers s r.id.proposer) = true := by
    unfold receivedEndorsers
    have alone := endorsersOk_proposer proposer n16
    split
    · exact endorsersOk_addStation alone own n16
    · exact alone
  have stored : Sound W p (Machine.storeEntry r .proposed (receivedEndorsers s r.id.proposer) flags
      (some (s.clock.label + s.plan.e + 2)) .none .line s) :=
    hs.storeEntry free ⟨fields, endorsers, by simp [Entry.settled], adm.stored _ (by omega)⟩
  unfold Machine.storeProposal
  simp only
  split
  · exact Sound.offer (stored.of_still (raiseFlagged_frame _ _ _)) _
  · exact stored.of_still (raiseFlagged_frame _ _ _)

theorem storeRefusal_none {r : Record} (h : s.storeRefusal r = none) : s.find r.id = none := by
  unfold State.storeRefusal at h
  split at h
  · simp at h
  next free => exact holds_eq_false_iff.1 (by simpa using free)

/-- This station is one of a shelf of at most 16 with its quorum, as it is from START on (R81, R185, R187). -/
structure OnShelf (s : State) : Prop where
  own : s.pins.stn < s.plan.n
  n16 : s.plan.n ≤ 16
  quorum : s.quorum = s.plan.n / 2 + 1

theorem OnShelf.of_frame {ps : List Part} {t : State} (hs : OnShelf s) (h : ChangesOnly ps s t)
    (pins : Part.pins ∉ ps := by decide) (plan : Part.plan ∉ ps := by decide)
    (quorum : Part.quorum ∉ ps := by decide) : OnShelf t := by
  refine ⟨?_, ?_, ?_⟩
  · rw [h.pins pins, h.plan plan]; exact hs.own
  · rw [h.plan plan]; exact hs.n16
  · rw [h.quorum quorum, h.plan plan]; exact hs.quorum

theorem Sound.takeVerdict (hs : Sound W p s) (adm : Allows W s.clock.label) (shelf : OnShelf s) {r : Record}
    (v : Verdict) (fields : r.fieldsOk s.plan.n = true) (proposer : r.id.proposer < s.plan.n) :
    Sound W p (takeVerdict r v s) := by
  unfold Machine.takeVerdict
  split
  · exact hs
  · split
    · exact hs.of_still (rejectProposal_frame _ _ s)
    · split
      · exact hs.of_still (rejectProposal_frame _ _ s)
      next free => exact hs.storeProposal adm (storeRefusal_none free) fields proposer shelf.own shelf.n16

theorem proposeRecord_proposer {sender : Nat} {body : List Byte} {r : Record}
    (h : proposeRecord sender body = some r) : r.id.proposer = sender := by
  unfold proposeRecord at h
  simp only at h
  split at h
  all_goals first
    | (injection h with h; subst h; rfl)
    | simp at h

theorem Sound.takePropose (hs : Sound W p s) (adm : Allows W s.clock.label) (shelf : OnShelf s) (w : VerdictTime)
    {sender : Nat} (body : List Byte) (member : sender < s.plan.n) : Sound W p (takePropose w sender body s) := by
  unfold Machine.takePropose
  split
  · exact hs
  · split
    · exact hs.raise _
    next r hr =>
      split
      next fields =>
        have proposer : r.id.proposer < s.plan.n := proposeRecord_proposer hr ▸ member
        cases w with
        | atOnce => exact hs.takeVerdict adm shelf _ fields proposer
        | stored => exact hs.takeVerdict adm shelf _ fields proposer
        | later => exact hs.of_still (awaiting_frame _ s)
      next => exact hs.raise _

theorem Sound.takeEndorse (hs : Sound W p s) (rule : WindowRule W) {sender : Nat} (body : List Byte)
    (member : sender < s.plan.n) (n16 : s.plan.n ≤ 16) : Sound W p (takeEndorse sender body s) := by
  unfold Machine.takeEndorse
  split
  · exact hs
  · split
    · split
      · exact hs.addEndorsers rule _ (endorsersOk_iff.1 (endorsersOk_proposer member n16)).1
      · exact hs
    · exact hs

theorem Sound.takeObject (hs : Sound W p s) (sender : Nat) (body : List Byte) :
    Sound W p (takeObject sender body s) := by
  unfold Machine.takeObject
  split
  · exact hs
  · split
    · exact hs.raise _
    · split
      · exact hs
      · split
        · exact hs.freeEntry _ _
        · exact hs.raise _

/-- A RATIFY that passes the tests of R94 carries an endorser set of the shelf, of Q stations, with the proposer. -/
theorem ratifyFault_none {sender : Nat} {id : Ident} {set : StationSet} (h : ratifyFault s sender id set = none) :
    endorsersOk s.plan.n id.proposer set = true ∧ s.quorum ≤ countStations set := by
  unfold ratifyFault at h
  split at h
  · simp at h
  · split at h
    · simp at h
    next below =>
      split at h
      · simp at h
      next many =>
        split at h
        · simp at h
        next has => exact ⟨endorsersOk_iff.2 ⟨by simpa using below, by simpa using has⟩, Nat.not_lt.1 many⟩

theorem Sound.takeRatify (hs : Sound W p s) (rule : WindowRule W) (sender : Nat) (body : List Byte) :
    Sound W p (takeRatify sender body s) := by
  unfold Machine.takeRatify
  split
  · exact hs
  · simp only
    split
    · exact hs.raise _
    next passes =>
      obtain ⟨set, many⟩ := ratifyFault_none passes
      split
      · exact hs.of_still (missEntry_frame _ _ s)
      next e he =>
        split
        · exact hs.ratifyClaim rule ((find_id he).symm ▸ he) ((find_id he).symm ▸ set) fun _ => many
        · exact hs

theorem Sound.takeBeacon (hs : Sound W p s) (sender : Nat) (body : List Byte) :
    Sound W p (takeBeacon sender body s) := by
  unfold Machine.takeBeacon
  split
  · exact hs.raise _
  · exact (hs.changeSlot _ _ _).of_state (meetBeacon_frame _ _ _) (meetBeacon_state _ _ _)

theorem Sound.deliver (hs : Sound W p s) (adm : Allows W s.clock.label) (shelf : OnShelf s) (w : VerdictTime)
    (k : FrameKind) {sender : Nat} (body : List Byte) (member : sender < s.plan.n) :
    Sound W p (deliver w k sender body s) := by
  cases k with
  | beacon => exact hs.takeBeacon sender body
  | propose => exact hs.takePropose adm shelf w body member
  | endorse => exact hs.takeEndorse adm.toWindowRule body member shelf.n16
  | object => exact hs.takeObject sender body
  | ratify => exact hs.takeRatify adm.toWindowRule sender body
  | reciteReq => exact hs.of_still (takeReciteReq_frame sender body s)
  | recital => exact hs.takeRecitalFrame adm _ _ _
  | scaleState => exact hs.takeRecitalFrame adm _ _ _

theorem Sound.handOn (hs : Sound W p s) (adm : Allows W s.clock.label) (shelf : OnShelf s) (w : VerdictTime)
    (k : FrameKind) {sender : Nat} (body : List Byte) (member : sender < s.plan.n) :
    Sound W p (handOn w k sender body s) := by
  have frame : ChangesOnly [.line, .roster, .notices] s (reportSender sender (s.setLine (s.line.toIdle 0))) :=
    (setLine_frame _ s).then (reportSender_frame sender _)
  exact (hs.of_still frame).deliver (frame.clock ▸ adm) (shelf.of_frame frame) w k body (frame.plan ▸ member)

theorem senderFault_none {sender : Nat} (h : senderFault s sender = none) :
    sender ≠ s.pins.stn ∧ sender < s.plan.n := by
  unfold senderFault at h
  split at h
  · simp at h
  next other =>
    split at h
    · simp at h
    next member => exact ⟨other, Nat.not_le.1 member⟩

theorem typedFault_none {k : FrameKind} {sender : Nat} {body : List Byte} (h : typedFault s k sender body = none) :
    sender < s.plan.n := by
  unfold typedFault at h
  split at h
  · simp at h
  · split at h
    · simp at h
    next ok => exact (senderFault_none ok).2

theorem rawFault_ok {f : RawFrame} {k : FrameKind} (h : rawFault s f = .ok k) : f.sender.toNat < s.plan.n := by
  unfold rawFault at h
  split at h
  · simp at h
  · split at h
    · simp at h
    · split at h
      · simp at h
      · split at h
        · simp at h
        next ok => exact (senderFault_none ok).2

/-- A frame is heard only where the line is IDLE or TAKING (R65). -/
theorem hears_attached {f : RawFrame} (h : s.hears f = true) : s.line.state ≠ .detached := by
  intro detached; simp [State.hears, detached] at h

theorem Sound.receiveTyped (hs : Sound W p s) (adm : Allows W s.clock.label)
    (shelf : s.line.state ≠ .detached → OnShelf s) (w : VerdictTime) (k : FrameKind) (sender : Nat)
    (body : List Byte) : Sound W p (receiveTyped w k sender body s) := by
  unfold Machine.receiveTyped
  split
  next heard =>
    split
    · exact hs.of_still (discardFrame_frame _ _ _ _ _ s)
    next passes => exact hs.handOn adm (shelf (hears_attached heard)) w k body (typedFault_none passes)
  next => exact hs

theorem Sound.receiveRaw (hs : Sound W p s) (adm : Allows W s.clock.label)
    (shelf : s.line.state ≠ .detached → OnShelf s) (f : RawFrame) : Sound W p (receiveRaw f s) := by
  unfold Machine.receiveRaw
  split
  next heard =>
    split
    · exact hs.of_still (discardFrame_frame _ _ _ _ _ s)
    next passes => exact hs.handOn adm (shelf (hears_attached heard)) _ _ _ (rawFault_ok passes)
  next => exact hs

/-! ### Local proposals -/

theorem Sound.setSeq (hs : Sound W p s) (q : Word) : Sound W p (s.setSeq q) :=
  hs.of_sublist (setSeq_frame q s) (List.Sublist.refl _) (hs.started_of (setSeq_frame q s))

theorem Sound.respond (hs : Sound W p s) (code : Byte) (st : Status) (r : Nat) (d : Data) :
    Sound W p (respond code st r d s) := hs.of_still (respond_frame code st r d s)

theorem Sound.storeOwn (hs : Sound W p s) (adm : Allows W s.clock.label) (shelf : OnShelf s) (e2 : 2 ≤ s.plan.e)
    {r : Record} (flags : List CfgRule) (free : s.find r.id = none) (fields : r.fieldsOk s.plan.n = true)
    (own : r.id.proposer = s.pins.stn) : Sound W p (storeOwn r flags s) := by
  have stored : Sound W p (Machine.storeEntry r .proposed (addStation noStations s.pins.stn) flags
      (some (s.clock.label + s.plan.e)) .none .ownPort s) :=
    hs.storeEntry free ⟨fields, own ▸ endorsersOk_proposer (own ▸ shelf.own) shelf.n16, by simp [Entry.settled],
      adm.stored _ (by omega)⟩
  exact Sound.of_still (stored.setSeq _) (raiseFlagged_frame _ _ _)

/-- On a shelf of one station every sound entry has its quorum (R81). -/
theorem quorum_alone (hs : Sound W p s) (shelf : OnShelf s) (alone : s.plan.n ≤ 1) {id : Ident} {e : Entry}
    (he : s.find id = some e) : s.quorum ≤ countStations e.endorsers := by
  have := countStations_pos (endorsersOk_iff.1 (hs.of_find he).endorsers).2
  have := shelf.quorum
  omega

theorem Sound.ratifyAlone (hs : Sound W p s) (rule : WindowRule W) (shelf : OnShelf s) (alone : s.plan.n ≤ 1)
    (id : Ident) : Sound W p (Machine.ratifyOwn id s) :=
  hs.ratifyOwn rule fun _ he _ => quorum_alone hs shelf alone he

theorem Sound.ratifyStored (hs : Sound W p s) (rule : WindowRule W) (shelf : OnShelf s) (alone : s.plan.n ≤ 1)
    (id : Ident) : Sound W p (ratifyStored id s) := by
  unfold Machine.ratifyStored
  split
  · split
    · exact hs.ratifyAlone rule shelf alone id
    · exact hs
  · exact hs

theorem Sound.announce (hs : Sound W p s) (rule : WindowRule W) (shelf : OnShelf s) (whole : Bool) (code : Byte)
    (r : Record) (flags : List CfgRule) : Sound W p (announce whole code r flags s) := by
  unfold Machine.announce
  split
  next alone =>
    split
    · exact (hs.ratifyAlone rule shelf alone _).respond _ _ _ _
    · exact Sound.respond (hs.of_still (claiming_frame _ s)) _ _ _ _
  · exact (hs.offerPropose r).respond _ _ _ _

theorem Sound.refuseProposal (hs : Sound W p s) (code : Byte) (r : Reason) : Sound W p (refuseProposal code r s) :=
  hs.of_still (refuseProposal_frame code r s)

theorem Sound.takeOwnVerdict (hs : Sound W p s) (adm : Allows W s.clock.label) (shelf : s.started → OnShelf s)
    (e2 : 2 ≤ s.plan.e) (whole : Bool) (code : Byte) {r : Record} (v : Verdict)
    (fields : r.fieldsOk s.plan.n = true) (own : r.id.proposer = s.pins.stn) :
    Sound W p (takeOwnVerdict whole code r v s) := by
  unfold Machine.takeOwnVerdict
  split
  · exact hs.respond _ _ _ _
  next active =>
    have shelf := shelf (by simp [State.started, Decidable.not_not.1 active])
    split
    · exact hs.refuseProposal _ _
    next flags =>
      split
      · exact hs.refuseProposal _ _
      next free =>
        have frame := storeOwn_frame r flags s
        exact (hs.storeOwn adm shelf e2 flags (storeRefusal_none free) fields own).announce adm.toWindowRule
          (shelf.of_frame frame) _ _ _ _

/-- Whether the fields of a record suit its kind does not depend on its sequence (R23). -/
def FormsOwn (stn n : Nat) (f : Word → Record) : Prop :=
  ∀ q, (f q).id.proposer = stn ∧ ((f 0).fieldsOk n = true → (f q).fieldsOk n = true)

theorem emptied_frame (s : State) : ChangesOnly [.port] s { s with port := { held := none, reading := [] } } := by
  intro p hp; cases p <;> first | rfl | simp at hp

theorem Sound.proposeOwn (hs : Sound W p s) (adm : Allows W s.clock.label) (shelf : s.started → OnShelf s)
    (e2 : 2 ≤ s.plan.e) (w : VerdictTime) (code : Byte) {mk : Option (Word → Record)}
    (forms : ∀ f ∈ mk, FormsOwn s.pins.stn s.plan.n f) : Sound W p (proposeOwn w code mk s) := by
  unfold Machine.proposeOwn
  split
  · exact hs.respond _ _ _ _
  · split
    · exact hs.respond _ _ _ _
    next f =>
      split
      next fields =>
        obtain ⟨own, same⟩ := forms f rfl (freeSequence s s.held s.table.nextSeq)
        have frame := setSeq_frame (freeSequence s s.held s.table.nextSeq) s
        have judged (whole : Bool) (v : Verdict) :=
          (hs.setSeq (freeSequence s s.held s.table.nextSeq)).takeOwnVerdict adm
            (fun h => (shelf h).of_frame frame) e2 whole code v (same fields) own
        unfold judgeOwn
        simp only
        split
        · exact judged _ _
        · exact judged _ _
        · exact Sound.of_still ((hs.setSeq _).of_still (emptied_frame _)) (awaiting_frame _ _)
      next => exact hs.respond _ _ _ _

end

end Sys2Proof.Machine
end

section
/-! SUPPORT. The stages of a boundary, each made once, and the windows of entries at a boundary (R29, R97). -/

namespace Sys2Proof.Machine

set_option Elab.async false

/-! ### The order of the stages -/

/-- Items taken in order, each at its first place. -/
theorem firstPlaces_spec {α : Type} [BEq α] [LawfulBEq α] (l acc : List α) (h : acc.Nodup) :
    (l.foldl (fun acc x => if acc.contains x then acc else acc ++ [x]) acc).Nodup ∧
    ∀ x, x ∈ l.foldl (fun acc x => if acc.contains x then acc else acc ++ [x]) acc ↔ x ∈ acc ∨ x ∈ l := by
  induction l generalizing acc with
  | nil => simpa using h
  | cons y l ih =>
    rw [List.foldl_cons]
    split
    next held =>
      obtain ⟨nodup, mem⟩ := ih acc h
      refine ⟨nodup, fun x => (mem x).trans ?_⟩
      have hy : y ∈ acc := by simpa using held
      simp only [List.mem_cons]
      constructor
      · rintro (hx | hx)
        · exact .inl hx
        · exact .inr (.inr hx)
      · rintro (hx | rfl | hx)
        · exact .inl hx
        · exact .inl hy
        · exact .inr hx
    next fresh =>
      have hy : y ∉ acc := by simpa using fresh
      obtain ⟨nodup, mem⟩ := ih (acc ++ [y]) (List.nodup_append.2 ⟨h, by simp, by
        rintro a ha b hb rfl; exact hy (by simp_all)⟩)
      refine ⟨nodup, fun x => (mem x).trans ?_⟩
      simp only [List.mem_append, List.mem_cons, List.not_mem_nil, or_false, or_assoc]

theorem completeOrder_nodup (l : List Stage) : (completeOrder l).Nodup := (firstPlaces_spec _ [] List.nodup_nil).1

theorem mem_completeOrder (l : List Stage) (st : Stage) : st ∈ completeOrder l := by
  refine ((firstPlaces_spec _ [] List.nodup_nil).2 st).2 (.inr (List.mem_append_right _ ?_))
  cases st <;> decide

/-- The stages run from a state in the order of a list. -/
abbrev stagesFrom (rep : LabelReport) (l : List Stage) (s : State) : State :=
  l.foldl (fun t st => runStage rep st t) s

/-- A boundary makes a stage once: the others stand before it and after it. -/
theorem runStages_split (ord : BoundaryOrder) (rep : LabelReport) (st : Stage) (s : State) :
    ∃ before after, st ∉ before ∧ st ∉ after ∧
      runStages ord rep s = stagesFrom rep after (runStage rep st (stagesFrom rep before s)) := by
  obtain ⟨before, after, eq⟩ := List.append_of_mem (mem_completeOrder ord.stages st)
  have nodup := eq ▸ completeOrder_nodup ord.stages
  obtain ⟨-, once, apart⟩ := List.nodup_append.1 nodup
  refine ⟨before, after, fun h => apart st h st (by simp) rfl, (List.nodup_cons.1 once).1, ?_⟩
  rw [runStages, eq, List.foldl_append, List.foldl_cons]

theorem stagesFrom_asks (rep : LabelReport) (l : List Stage) (s : State) : asksOnly s (stagesFrom rep l s) :=
  .foldl (fun t st => runStage_asks rep st t) l s

/-! ### Rules on windows -/

/-- No rule on windows. -/
def anyWindow (_ : EntryState) (_ : Option Nat) : Prop := True

/-- A window stands exactly while an entry is PROPOSED (R22). -/
def shaped (st : EntryState) (w : Option Nat) : Prop := w.isSome = true ↔ st = .proposed

/-- A window stands exactly while an entry is PROPOSED, and is ahead of the label (R22, R29). -/
def ahead (label : Nat) (st : EntryState) (w : Option Nat) : Prop := shaped st w ∧ ∀ x ∈ w, label < x

theorem anyWindow_allows (label : Nat) : Allows anyWindow label where
  settled _ _ := trivial
  applying _ _ := trivial
  stored _ _ := trivial

theorem shaped_rule : WindowRule shaped where
  settled st h := by simpa [shaped] using h
  applying w h := by simpa [shaped] using h

theorem ahead_allows (label : Nat) : Allows (ahead label) label where
  settled st h := ⟨shaped_rule.settled st h, by simp⟩
  applying w h := ⟨shaped_rule.applying w h.1, h.2⟩
  stored w h := ⟨by simp [shaped], by simpa using h⟩

theorem shaped_moves (w w' : Nat) (_ : shaped .proposed (some w)) : shaped .proposed (some w') := by simp [shaped]

theorem windowAhead_iff {label : Nat} {e : Entry} : windowAhead label e = true ↔ ahead label e.state e.window := by
  unfold windowAhead ahead shaped Entry.settled
  cases e.window <;> simp

theorem Sound.mono {W V : EntryState → Option Nat → Prop} {p : Prop} {s : State} (hs : Sound W p s)
    (h : ∀ e ∈ s.table.entries, W e.state e.window → V e.state e.window) : Sound V p s :=
  ⟨hs.started, hs.ids, fun e he => ⟨(hs.entries e he).fields, (hs.entries e he).endorsers, (hs.entries e he).quorum,
    h e he (hs.entries e he).window⟩, hs.scales⟩

/-! ### The expiry of windows -/

theorem expireEntry_entries {s : State} (ids : (s.table.entries.map fun e => e.id).Nodup) (id : Ident) :
    (expireEntry id s).table.entries.Sublist s.table.entries ∧
    ∀ e ∈ (expireEntry id s).table.entries, e.id = id → e.expired s.clock.label = false := by
  unfold expireEntry
  split
  next x hx =>
    split
    · refine ⟨List.filter_sublist, fun e he hid => ?_⟩
      simp [freeEntry, eraseEntry, hid] at he
    next stands =>
      refine ⟨List.Sublist.refl _, fun e he hid => ?_⟩
      obtain rfl : x = e := Option.some.inj (hx.symm.trans (hid ▸ find_of_mem ids he))
      simpa [Entry.expired] using stands
  next none =>
    refine ⟨List.Sublist.refl _, fun e he hid => ?_⟩
    exact absurd hid (lookup_none_iff.1 (find_eq_lookup s id ▸ none) e he)

theorem expireFold_entries (l : List Ident) {s : State} (ids : (s.table.entries.map fun e => e.id).Nodup) :
    (l.foldl (fun t id => expireEntry id t) s).table.entries.Sublist s.table.entries ∧
    ∀ e ∈ (l.foldl (fun t id => expireEntry id t) s).table.entries, e.id ∈ l → e.expired s.clock.label = false := by
  induction l generalizing s with
  | nil => exact ⟨List.Sublist.refl _, by simp⟩
  | cons id l ih =>
    obtain ⟨sub, expired⟩ := expireEntry_entries ids id
    obtain ⟨subs, later⟩ := ih (ids.sublist (sub.map _))
    refine ⟨subs.trans sub, fun e he hid => ?_⟩
    obtain hid | hid := List.mem_cons.1 hid
    · exact expired e (subs.subset he) hid
    · rw [← (expireEntry_frame id s).clock]
      exact later e he hid

/-- The expiry leaves no PROPOSED entry whose window is at or below the label (R97). -/
theorem expireWindows_expired {s : State} (ids : (s.table.entries.map fun e => e.id).Nodup) :
    ∀ e ∈ (expireWindows s).table.entries, e.expired s.clock.label = false := by
  intro e he
  obtain ⟨sub, expired⟩ := expireFold_entries (s.idsWhere fun e => e.state == .proposed) ids
  by_cases proposed : e.state = .proposed
  · exact expired e he (List.mem_map.2 ⟨e, List.mem_filter.2 ⟨sub.subset he, by simp [proposed]⟩, rfl⟩)
  · simp [Entry.expired, proposed]

section
variable {p : Prop} {s : State}

theorem Sound.ahead_of_expired (hs : Sound shaped p s) {label : Nat}
    (h : ∀ e ∈ s.table.entries, e.expired label = false) : Sound (ahead label) p s := by
  refine hs.mono fun e he window => ⟨window, fun x hx => ?_⟩
  have hx : e.window = some x := hx
  have proposed : e.state = .proposed := window.1 (by simp [hx])
  simpa [Entry.expired, proposed, hx] using h e he

/-- The stages of a boundary leave every window ahead of the label, since one of them is the expiry (R97). -/
theorem Sound.stages_ahead (hs : Sound shaped p s) (ord : BoundaryOrder) (rep : LabelReport) :
    Sound (ahead s.clock.label) p (Machine.runStages ord rep s) := by
  obtain ⟨before, after, -, -, eq⟩ := runStages_split ord rep .expiry s
  have first := hs.runStages shaped_rule rep before
  have label := (stagesFrom_asks rep before s).label
  have expired : Sound (ahead s.clock.label) p (Machine.runStage rep .expiry (stagesFrom rep before s)) :=
    (first.runStage shaped_rule rep .expiry).ahead_of_expired (label ▸ expireWindows_expired first.ids)
  exact eq ▸ expired.runStages (ahead_allows _).toWindowRule rep after

/-! ### The boundary -/

theorem Sound.takeLabel {W : EntryState → Option Nat → Prop} (hs : Sound W p s) (b : Bool) :
    Sound W p (takeLabel b s).2 := hs.of_still (takeLabel_frame b s)

theorem Sound.afterStages {W : EntryState → Option Nat → Prop} (hs : Sound W p s) (rep : LabelReport) :
    Sound W p (outputsBoundary (realignIfAdopted rep s)) :=
  (hs.of_still (realignIfAdopted_frame rep s)).of_still (outputsBoundary_frame _)

theorem Sound.boundary (hs : Sound anyWindow p s) (ord : BoundaryOrder) : Sound anyWindow p (boundary ord s) :=
  Sound.afterStages (Sound.runStages ((hs.takeLabel _).moveWindows (fun _ _ _ => trivial) _)
    (anyWindow_allows 0).toWindowRule _ _) _

theorem Sound.boundary_ahead (hs : Sound shaped p s) (ord : BoundaryOrder) :
    Sound (ahead (Machine.boundary ord s).clock.label) p (Machine.boundary ord s) := by
  have moved := (hs.takeLabel ord.passBeforeTest).moveWindows shaped_moves
    (Machine.takeLabel ord.passBeforeTest s).1.jump
  have label : (Machine.boundary ord s).clock.label =
      (Machine.moveWindows (Machine.takeLabel ord.passBeforeTest s).1.jump
        (Machine.takeLabel ord.passBeforeTest s).2).clock.label := by
    rw [(boundary_asks ord s).label, (moveWindows_frame _ _).clock]
  rw [label]
  exact (moved.stages_ahead ord _).afterStages _

/-- Where a boundary is made, entries and scales stay sound, and windows of the right shape end ahead of the label. -/
structure BoundarySound (p : Prop) (s t : State) : Prop where
  sound : Sound anyWindow p s → Sound anyWindow p t
  windows : Sound (ahead s.clock.label) p s → Sound (ahead t.clock.label) p t

theorem Sound.shaped {l : Nat} (hs : Sound (ahead l) p s) : Sound Machine.shaped p s := hs.mono fun _ _ h => h.1

theorem boundarySound_after (c : Clock) (ord : BoundaryOrder) : BoundarySound p s (boundary ord (s.setClock c)) where
  sound hs := Sound.boundary (hs.of_still (setClock_frame c s)) ord
  windows hs := Sound.boundary_ahead (hs.shaped.of_still (setClock_frame c s)) ord

theorem BoundarySound.raise {t : State} (h : BoundarySound p s t) (n : Notice) : BoundarySound p s (raise n t) where
  sound hs := (h.sound hs).raise n
  windows hs := (h.windows hs).raise n

theorem boundarySound_of_frame {ps : List Part} {t : State} (h : ChangesOnly ps s t)
    (label : t.clock.label = s.clock.label) (station : Part.station ∉ ps := by decide)
    (table : Part.table ∉ ps := by decide) (scales : Part.scales ∉ ps := by decide)
    (plan : Part.plan ∉ ps := by decide) (quorum : Part.quorum ∉ ps := by decide) : BoundarySound p s t where
  sound hs := hs.of_still h station table scales plan quorum
  windows hs := label ▸ hs.of_still h station table scales plan quorum

theorem secinEdge_sound (ord : BoundaryOrder) : BoundarySound p s (secinEdge ord s) := by
  unfold secinEdge
  split
  · split
    · unfold spuriousEdge
      dsimp only
      split
      · exact boundarySound_of_frame (raise_frame _ s) rfl
      · split
        · exact (boundarySound_after _ ord).raise _
        · exact boundarySound_of_frame ((setClock_frame _ s).then (rs := [.clock, .notices]) (raise_frame _ _)) rfl
    · exact boundarySound_after _ ord
  · exact boundarySound_after _ ord

theorem substitutedBoundary_sound (ord : BoundaryOrder) : BoundarySound p s (substitutedBoundary ord s) := by
  unfold substitutedBoundary
  split
  · exact (boundarySound_after _ ord).raise _
  · exact ⟨id, id⟩

end

end Sys2Proof.Machine
end

section
/-! SUPPORT. What each command does to the soundness of entries and scales, to the start of the part and to the verdicts
on their way, and the invariant of steps that this gives (R13, R22, R29, R88, R94, R97). -/

namespace Sys2Proof.Machine

set_option Elab.async false

section
variable {W : EntryState → Option Nat → Prop} {p : Prop} {s t : State}

/-- The commands that load the plan or the scales, start the part, or reset it. -/
def loads : Instr → Bool
  | .setPlan _ | .defineScale .. | .start | .reset .. => true
  | _ => false

/-- The commands that may end the base second. -/
def endsSecond : Instr → Bool
  | .secinEdge _ | .substitutedBoundary _ => true
  | _ => false

/-! ### Entries and scales -/

theorem Sound.attChange (hs : Sound W p s) (high : Bool) (h : execAttChange high s = .next t) : Sound W p t := by
  have level : Sound W p { s with pins := { s.pins with att := high } } :=
    ⟨hs.started, hs.ids, hs.entries, hs.scales⟩
  unfold execAttChange at h
  dsimp only at h
  split at h
  · exact of_next h hs
  · split at h
    · exact of_next h (level.enterState (by decide))
    · refine of_next h (level.enterState ?_)
      unfold riseTarget; split <;> decide
    · exact of_next h level

/-- A command that neither loads nor ends the second keeps entries and scales sound under every rule on windows that a
store meets. -/
theorem Sound.exec {c : Instr} (hs : Sound W p s) (adm : Allows W s.clock.label)
    (shelf : s.started → OnShelf s) (e2 : 2 ≤ s.plan.e) (attached : s.line.state ≠ .detached → s.started)
    (load : loads c = false) (ends : endsSecond c = false) (h : exec c s = .next t) : Sound W p t := by
  have typed (w : VerdictTime) (k : FrameKind) (sender : Nat) (body : List Byte) :=
    hs.receiveTyped adm (fun d => shelf (attached d)) w k sender body
  cases c with
  | proposeLeap scale kind turn =>
    refine of_next h (hs.proposeOwn adm shelf e2 _ _ fun f hf q => ?_)
    obtain ⟨k, -, rfl⟩ := Option.map_eq_some_iff.1 hf
    exact ⟨rfl, id⟩
  | proposeOffset scale turn offset =>
    refine of_next h (hs.proposeOwn adm shelf e2 _ _ fun f hf q => ?_)
    obtain rfl := Option.some.inj hf
    exact ⟨rfl, id⟩
  | proposeCustody scale custodian =>
    refine of_next h (hs.proposeOwn adm shelf e2 _ _ fun f hf q => ?_)
    obtain rfl := Option.some.inj hf
    exact ⟨rfl, id⟩
  | proposeWithdraw proposer seq =>
    refine of_next h (hs.proposeOwn adm shelf e2 _ _ fun f hf q => ?_)
    split at hf
    · exact absurd hf (by simp)
    · obtain rfl := Option.some.inj hf
      exact ⟨rfl, id⟩
  | rejoin =>
    rw [show Machine.exec .rejoin s = execRejoin s from rfl, execRejoin] at h
    split at h
    · exact of_next h (hs.respond _ _ _ _)
    · exact of_next h ((hs.lineReset _).respond _ _ _ _)
  | lreset => exact of_next h (hs.lineReset _)
  | attChange high => exact hs.attChange high h
  | windowExpiry id => exact of_next h (hs.expireEntry id)
  | endOfListening => exact of_next h hs.endListeningIfDue
  | adoptionRequest => exact of_next h (hs.of_state (requestIfDue_frame s) (requestIfDue_state s))
  | recitalTimeout =>
    refine of_next h ?_
    unfold timeoutIfDue
    split
    · split
      · exact hs.failAttempt _
      · exact hs
    · exact hs
  | frameBegin => exact of_next h hs.frameBegin
  | frameSent => exact of_next h hs.frameSent
  | clash => exact of_next h hs.clashNow
  | frameAbandoned => exact of_next h hs.abandonNow
  | rxFrameInvalid f => exact of_next h (hs.receiveRaw adm (fun d => shelf (attached d)) f)
  | beacon sender body => exact of_next h (typed _ _ _ _)
  | propose sender body => exact of_next h (typed _ _ _ _)
  | endorse sender body => exact of_next h (typed _ _ _ _)
  | object sender body => exact of_next h (typed _ _ _ _)
  | ratify sender body => exact of_next h (typed _ _ _ _)
  | reciteReq sender body => exact of_next h (typed _ _ _ _)
  | recital sender body => exact of_next h (typed _ _ _ _)
  | scaleState sender body => exact of_next h (typed _ _ _ _)
  | setPlan a => exact absurd (show true = false from load) (by decide)
  | defineScale k kind p v c => exact absurd (show true = false from load) (by decide)
  | start => exact absurd (show true = false from load) (by decide)
  | reset stn lrate => exact absurd (show true = false from load) (by decide)
  | secinEdge ord => exact absurd (show true = false from ends) (by decide)
  | substitutedBoundary ord => exact absurd (show true = false from ends) (by decide)
  | _ =>
    exact hs.of_still (exec_frame _ h) (by simp [touches]) (by simp [touches]) (by simp [touches]) (by simp [touches])
      (by simp [touches])

/-! ### The part before START -/

theorem runStage_unconfigured (rep : LabelReport) (st : Stage) (h : s.station.state = .unconfigured) :
    (runStage rep st s).station.state = .unconfigured := by
  cases st with
  | apply => exact (applyPass_frame s).station ▸ h
  | expiry => exact (expireWindows_frame s).station ▸ h
  | station => simp [runStage, stationWork, h]
  | retest => exact (retestQuorum_frame s).station ▸ h
  | ratifyOffers => exact (reofferRatify_frame s).station ▸ h
  | proposeOffers => exact (reofferPropose_frame s).station ▸ h
  | recitalSend => exact (reofferRecital_frame s).station ▸ h
  | recitalReceive =>
    have waits : receiveWork s = s := by
      unfold receiveWork
      split
      · rfl
      · rw [if_neg (by simp [h])]
    simpa [runStage, waits] using h

theorem boundary_unconfigured (ord : BoundaryOrder) (h : s.station.state = .unconfigured) :
    (boundary ord s).station.state = .unconfigured := by
  have first : (moveWindows (takeLabel ord.passBeforeTest s).1.jump
      (takeLabel ord.passBeforeTest s).2).station.state = .unconfigured := by
    rw [(moveWindows_frame _ _).station, (takeLabel_frame _ _).station, h]
  have staged := List.foldlRecOn (motive := fun t : State => t.station.state = .unconfigured)
    (completeOrder ord.stages) (fun t st => runStage (takeLabel ord.passBeforeTest s).1 st t) first
    fun t ht st _ => runStage_unconfigured _ st ht
  rw [boundary, (outputsBoundary_frame _).station, (realignIfAdopted_frame _ _).station]
  exact staged

theorem boundary_setClock_unconfigured (ord : BoundaryOrder) (c : Clock) (h : s.station.state = .unconfigured) :
    (boundary ord (s.setClock c)).station.state = .unconfigured :=
  boundary_unconfigured ord (by rw [setClock_station, h])

theorem secinEdge_unconfigured (ord : BoundaryOrder) (h : s.station.state = .unconfigured) :
    (secinEdge ord s).station.state = .unconfigured := by
  unfold secinEdge
  split
  · split
    · unfold spuriousEdge
      dsimp only
      split
      · rw [raise_station, h]
      · split
        · rw [raise_station, boundary_setClock_unconfigured ord _ h]
        · rw [raise_station, setClock_station, h]
    · exact boundary_setClock_unconfigured ord _ h
  · exact boundary_setClock_unconfigured ord _ h

theorem substitutedBoundary_unconfigured (ord : BoundaryOrder) (h : s.station.state = .unconfigured) :
    (substitutedBoundary ord s).station.state = .unconfigured := by
  unfold substitutedBoundary
  split
  · exact (congrArg Station.state (raise_station _ _)).trans (boundary_setClock_unconfigured ord _ h)
  · exact h

theorem attChange_unconfigured {high : Bool} (un : s.station.state = .unconfigured)
    (h : execAttChange high s = .next t) : t.station.state = .unconfigured := by
  unfold execAttChange at h
  dsimp only at h
  split at h
  · exact of_next h (P := fun t => t.station.state = _) un
  · split at h
    next active _ => simp [un] at active
    next listening _ => simp [un] at listening
    next => exact of_next h (P := fun t => t.station.state = _) un

theorem receiveTyped_deaf (h : s.line.state = .detached) (w : VerdictTime) (k : FrameKind) (sender : Nat)
    (body : List Byte) : receiveTyped w k sender body s = s := by
  simp [receiveTyped, State.hears, h]

theorem receiveRaw_deaf (h : s.line.state = .detached) (f : RawFrame) : receiveRaw f s = s := by
  simp [receiveRaw, State.hears, h]

/-- Before START no command but START itself leaves UNCONFIGURED. -/
theorem exec_unconfigured {c : Instr} (quiet : Quiescent s) (placed : ContextsPlaced s)
    (un : s.station.state = .unconfigured) (load : loads c = false) (h : exec c s = .next t) :
    t.station.state = .unconfigured := by
  have detached := quiet.1.2 un
  have typed (w : VerdictTime) (k : FrameKind) (sender : Nat) (body : List Byte) :
      (receiveTyped w k sender body s).station.state = .unconfigured := by
    rw [receiveTyped_deaf detached, un]
  cases c with
  | rejoin =>
    rw [show exec .rejoin s = execRejoin s from rfl, execRejoin, if_pos un] at h
    exact of_next h (P := fun t => t.station.state = _) un
  | lreset => exact of_next h (P := fun t => t.station.state = _) (by rw [lineReset, if_pos un, un])
  | attChange high => exact attChange_unconfigured un h
  | secinEdge ord => exact of_next h (P := fun t => t.station.state = _) (secinEdge_unconfigured ord un)
  | substitutedBoundary ord =>
    exact of_next h (P := fun t => t.station.state = _) (substitutedBoundary_unconfigured ord un)
  | endOfListening =>
    exact of_next h (P := fun t => t.station.state = _) (by simp [endListeningIfDue, un])
  | adoptionRequest => exact of_next h (P := fun t => t.station.state = _) (by rw [requestIfDue_state, un])
  | recitalTimeout =>
    refine of_next h (P := fun t => t.station.state = _) ?_
    unfold timeoutIfDue
    split
    next c hc => obtain ⟨state, -⟩ | ⟨state, -⟩ := placed.2 c hc <;> simp [un] at state
    next => exact un
  | rxFrameInvalid f => exact of_next h (P := fun t => t.station.state = _) (by rw [receiveRaw_deaf detached, un])
  | beacon sender body => exact of_next h (P := fun t => t.station.state = _) (typed _ _ _ _)
  | propose sender body => exact of_next h (P := fun t => t.station.state = _) (typed _ _ _ _)
  | endorse sender body => exact of_next h (P := fun t => t.station.state = _) (typed _ _ _ _)
  | object sender body => exact of_next h (P := fun t => t.station.state = _) (typed _ _ _ _)
  | ratify sender body => exact of_next h (P := fun t => t.station.state = _) (typed _ _ _ _)
  | reciteReq sender body => exact of_next h (P := fun t => t.station.state = _) (typed _ _ _ _)
  | recital sender body => exact of_next h (P := fun t => t.station.state = _) (typed _ _ _ _)
  | scaleState sender body => exact of_next h (P := fun t => t.station.state = _) (typed _ _ _ _)
  | setPlan a => exact absurd (show true = false from load) (by decide)
  | defineScale k kind p v c => exact absurd (show true = false from load) (by decide)
  | start => exact absurd (show true = false from load) (by decide)
  | reset stn lrate => exact absurd (show true = false from load) (by decide)
  | _ => rw [(exec_frame _ h).station (by simp [touches]), un]

/-! ### The verdicts on their way -/

/-- From `s` to `t` every verdict that is added is sound, and is added after START (R83, R86, R88). -/
def addsSound (s t : State) : Prop :=
  ∀ v ∈ t.verdicts, v ∈ s.verdicts ∨ (s.started ∧ v.sound s.pins.stn s.plan.n = true)

theorem addsSound.of_frame {ps : List Part} (h : ChangesOnly ps s t) (hp : Part.verdicts ∉ ps := by decide) :
    addsSound s t := fun _ hv => .inl (h.verdicts hp ▸ hv)

theorem addsSound.refl (s : State) : addsSound s s := fun _ hv => .inl hv

theorem addsSound.awaiting {v : PendingVerdict} (started : s.started) (sound : v.sound s.pins.stn s.plan.n = true) :
    addsSound s (s.awaiting v) := fun x hx => by
  obtain hx | hx := List.mem_append.1 (by simpa using hx : x ∈ s.verdicts ++ [v])
  · exact .inl hx
  · obtain rfl := List.mem_singleton.1 hx
    exact .inr ⟨started, sound⟩

/-- Verdicts added from a state that agrees with an earlier one in what soundness reads. -/
theorem addsSound.of_agrees {ps : List Part} {u : State} (k : addsSound t u) (h : ChangesOnly ps s t)
    (pins : Part.pins ∉ ps := by decide) (plan : Part.plan ∉ ps := by decide) (station : Part.station ∉ ps := by decide)
    (verdicts : Part.verdicts ∉ ps := by decide) : addsSound s u := fun _ hv => by
  have := k _ hv
  rwa [h.verdicts verdicts, State.started, h.station station, h.pins pins, h.plan plan] at this

theorem started_of_screens (h : s.station.state.screens = true) : s.started := by
  intro un; simp [un, StationState.screens] at h

theorem takePropose_addsSound (w : VerdictTime) {sender : Nat} (body : List Byte) (member : sender < s.plan.n) :
    addsSound s (takePropose w sender body s) := by
  unfold takePropose
  split
  · exact .refl s
  next screened =>
    have screens : s.station.state.screens = true := by
      cases h : s.station.state.screens <;> simp [h] at screened ⊢
    split
    · exact .of_frame (raise_frame _ s)
    next r hr =>
      split
      next fields =>
        cases w with
        | atOnce => exact .of_frame (takeVerdict_frame _ _ s)
        | stored => exact .of_frame (takeVerdict_frame _ _ s)
        | later =>
          exact .awaiting (started_of_screens screens)
            (by simp [PendingVerdict.sound, fields, proposeRecord_proposer hr, member])
      next => exact .of_frame (raise_frame _ s)

theorem handOn_addsSound (w : VerdictTime) (k : FrameKind) {sender : Nat} (body : List Byte)
    (member : sender < s.plan.n) : addsSound s (handOn w k sender body s) := by
  have frame : ChangesOnly [.line, .roster, .notices] s (reportSender sender (s.setLine (s.line.toIdle 0))) :=
    (setLine_frame _ s).then (reportSender_frame sender _)
  refine addsSound.of_agrees ?_ frame
  cases k with
  | propose => exact takePropose_addsSound w body (frame.plan ▸ member)
  | beacon => exact .of_frame (takeBeacon_frame sender body _)
  | endorse => exact .of_frame (takeEndorse_frame sender body _)
  | object => exact .of_frame (takeObject_frame sender body _)
  | ratify => exact .of_frame (takeRatify_frame sender body _)
  | reciteReq => exact .of_frame (takeReciteReq_frame sender body _)
  | recital => exact .of_frame (takeRecitalFrame_frame .recital sender body _)
  | scaleState => exact .of_frame (takeRecitalFrame_frame .scaleState sender body _)

theorem receiveTyped_addsSound (w : VerdictTime) (k : FrameKind) (sender : Nat) (body : List Byte) :
    addsSound s (receiveTyped w k sender body s) := by
  unfold receiveTyped
  split
  · split
    · exact .of_frame (discardFrame_frame _ _ _ _ _ s)
    next passes => exact handOn_addsSound w k body (typedFault_none passes)
  · exact .refl s

theorem receiveRaw_addsSound (f : RawFrame) : addsSound s (receiveRaw f s) := by
  unfold receiveRaw
  split
  · split
    · exact .of_frame (discardFrame_frame _ _ _ _ _ s)
    next passes => exact handOn_addsSound _ _ _ (rawFault_ok passes)
  · exact .refl s

theorem announce_verdicts (whole : Bool) (code : Byte) (r : Record) (flags : List CfgRule) {v : PendingVerdict}
    (hv : v ∈ (announce whole code r flags s).verdicts) : v ∈ s.verdicts ∨ (v = .ratify r.id ∧ s.plan.n ≤ 1) := by
  unfold announce at hv
  split at hv
  next alone =>
    split at hv
    · exact .inl ((ratifyOwn_frame r.id s).verdicts ▸ hv)
    · obtain rfl | hv := mem_claimNext.1 hv
      · exact .inr ⟨rfl, alone⟩
      · exact .inl hv
  · exact .inl ((offerPropose_frame r s).verdicts ▸ hv)

theorem takeOwnVerdict_addsSound (whole : Bool) (code : Byte) {r : Record} (v : Verdict)
    (own : r.id.proposer = s.pins.stn) : addsSound s (takeOwnVerdict whole code r v s) := by
  unfold takeOwnVerdict
  split
  · exact .of_frame (respond_frame _ _ _ _ s)
  next active =>
    split
    · exact .of_frame (refuseProposal_frame _ _ s)
    next flags =>
      split
      · exact .of_frame (refuseProposal_frame _ _ s)
      · intro x hx
        have frame := storeOwn_frame r flags s
        obtain hx | ⟨rfl, alone⟩ := announce_verdicts _ _ _ _ hx
        · exact .inl (frame.verdicts ▸ hx)
        · rw [frame.plan] at alone
          exact .inr ⟨by simp [State.started, Decidable.not_not.1 active], by simp [PendingVerdict.sound, own, alone]⟩

theorem proposeOwn_addsSound (w : VerdictTime) (code : Byte) {mk : Option (Word → Record)}
    (forms : ∀ f ∈ mk, FormsOwn s.pins.stn s.plan.n f) : addsSound s (proposeOwn w code mk s) := by
  unfold proposeOwn
  split
  · exact .of_frame (respond_frame _ _ _ _ s)
  next active =>
    have started : s.started := by simp [State.started, Decidable.not_not.1 active]
    split
    · exact .of_frame (respond_frame _ _ _ _ s)
    next f =>
      split
      next fields =>
        obtain ⟨own, same⟩ := forms f rfl (freeSequence s s.held s.table.nextSeq)
        have frame := setSeq_frame (freeSequence s s.held s.table.nextSeq) s
        refine addsSound.of_agrees ?_ frame
        unfold judgeOwn
        split
        · exact takeOwnVerdict_addsSound _ _ _ own
        · exact takeOwnVerdict_addsSound _ _ _ own
        · refine addsSound.of_agrees (addsSound.awaiting ?_ ?_) (emptied_frame _)
          · exact started
          · simp [PendingVerdict.sound, own, same fields]
      next => exact .of_frame (respond_frame _ _ _ _ s)

theorem exec_addsSound {c : Instr} (load : loads c = false) (h : exec c s = .next t) : addsSound s t := by
  cases c with
  | proposeLeap scale kind turn =>
    refine of_next h (proposeOwn_addsSound _ _ fun f hf q => ?_)
    obtain ⟨k, -, rfl⟩ := Option.map_eq_some_iff.1 hf
    exact ⟨rfl, id⟩
  | proposeOffset scale turn offset =>
    refine of_next h (proposeOwn_addsSound _ _ fun f hf q => ?_)
    obtain rfl := Option.some.inj hf
    exact ⟨rfl, id⟩
  | proposeCustody scale custodian =>
    refine of_next h (proposeOwn_addsSound _ _ fun f hf q => ?_)
    obtain rfl := Option.some.inj hf
    exact ⟨rfl, id⟩
  | proposeWithdraw proposer seq =>
    refine of_next h (proposeOwn_addsSound _ _ fun f hf q => ?_)
    split at hf
    · exact absurd hf (by simp)
    · obtain rfl := Option.some.inj hf
      exact ⟨rfl, id⟩
  | rxFrameInvalid f => exact of_next h (receiveRaw_addsSound f)
  | beacon sender body => exact of_next h (receiveTyped_addsSound _ _ _ _)
  | propose sender body => exact of_next h (receiveTyped_addsSound _ _ _ _)
  | endorse sender body => exact of_next h (receiveTyped_addsSound _ _ _ _)
  | object sender body => exact of_next h (receiveTyped_addsSound _ _ _ _)
  | ratify sender body => exact of_next h (receiveTyped_addsSound _ _ _ _)
  | reciteReq sender body => exact of_next h (receiveTyped_addsSound _ _ _ _)
  | recital sender body => exact of_next h (receiveTyped_addsSound _ _ _ _)
  | scaleState sender body => exact of_next h (receiveTyped_addsSound _ _ _ _)
  | reset stn lrate => exact absurd (show true = false from load) (by decide)
  | _ => exact .of_frame (exec_frame _ h) (by simp [touches])

end

end Sys2Proof.Machine
end

section
/-! SUPPORT. Entries, scales, verdicts and windows stay sound along every step (R13, R14, R22, R23, R29, R88, R94,
R97). -/

namespace Sys2Proof.Machine

set_option Elab.async false

/-- The invariants from which a step keeps entries and scales sound. -/
structure Fit (s : State) : Prop where
  quiescent : Quiescent s
  placed : ContextsPlaced s
  shelf : ShelfFixed s
  table : TableBounded s
  entries : EntriesSound s
  scales : ScalesSound s
  verdicts : VerdictsSound s

/-- What a step from `s` to `t` keeps. -/
def KeepsSound (s t : State) : Prop :=
  ShelfFixed t ∧ EntriesSound t ∧ ScalesSound t ∧ VerdictsSound t ∧ (WindowsAhead s → WindowsAhead t)

section
variable {p : Prop} {s t : State}

theorem Fit.sound (fit : Fit s) : Sound anyWindow s.started s where
  started := id
  ids := fit.table.1
  entries e he := by
    obtain ⟨fields, endorsers, quorum⟩ := fit.entries e he
    exact ⟨fields, endorsers, quorum, trivial⟩
  scales := fit.scales

theorem Fit.ahead (fit : Fit s) (windows : WindowsAhead s) : Sound (ahead s.clock.label) s.started s :=
  fit.sound.mono fun e he _ => windowAhead_iff.1 (windows e he)

theorem Fit.onShelf (fit : Fit s) (started : s.started) : OnShelf s := by
  obtain ⟨n16, -, own⟩ := fit.shelf
  exact ⟨(own started).1, n16, (own started).2⟩

theorem Fit.own {t : State} (h : ChangesOnly [.pending, .free] s t) (fit : Fit s) : Fit t := by
  obtain ⟨quiescent, placed, shelf, table, entries, scales, verdicts⟩ := fit
  refine ⟨?_, ?_, ?_, ?_, ?_, ?_, ?_⟩
  · simpa only [Quiescent, State.started, h.line, h.station, h.table] using quiescent
  · simpa only [ContextsPlaced, h.sending, h.receiving, h.station] using placed
  · simpa only [ShelfFixed, State.started, h.plan, h.station, h.pins, h.quorum] using shelf
  · simpa only [TableBounded, h.table, h.plan] using table
  · simpa only [EntriesSound, h.table, h.plan, h.quorum] using entries
  · simpa only [ScalesSound, State.started, h.scales, h.plan, h.station] using scales
  · simpa only [VerdictsSound, State.started, h.verdicts, h.plan, h.station, h.pins] using verdicts

theorem Sound.entriesSound {W : EntryState → Option Nat → Prop} (hs : Sound W p s) : EntriesSound s := fun e he =>
  ⟨(hs.entries e he).fields, (hs.entries e he).endorsers, (hs.entries e he).quorum⟩

theorem Sound.windowsAhead (hs : Sound (Machine.ahead s.clock.label) p s) : WindowsAhead s := fun e he =>
  windowAhead_iff.2 (hs.entries e he).window

/-- A step that leaves the plan, the number and the quorum of this station, and the start of the part, keeps what
soundness of entries and scales and of the verdicts added gives. -/
theorem keepsSound_of (fit : Fit s) (sound : Sound anyWindow s.started t)
    (unstarted : s.station.state = .unconfigured → t.station.state = .unconfigured) (plan : t.plan = s.plan)
    (stn : t.pins.stn = s.pins.stn) (quorum : t.quorum = s.quorum) (adds : addsSound s t)
    (windows : WindowsAhead s → WindowsAhead t) : KeepsSound s t := by
  have started : t.started ↔ s.started := ⟨fun h un => h (unstarted un), sound.started⟩
  obtain ⟨n16, e2, own⟩ := fit.shelf
  obtain ⟨waiting, sounds⟩ := fit.verdicts
  refine ⟨⟨?_, ?_, ?_⟩, sound.entriesSound, ?_, ⟨?_, ?_⟩, windows⟩
  · rw [plan]; exact n16
  · rw [plan]; exact e2
  · rw [started, plan, stn, quorum]; exact own
  · intro sc hsc
    obtain ⟨lag, offset, custodian⟩ := sound.scales sc hsc
    exact ⟨lag, offset, fun h => custodian (started.1 h)⟩
  · by_cases h : s.started
    · exact .inl (started.2 h)
    · refine .inr (List.eq_nil_iff_forall_not_mem.2 fun v hv => ?_)
      obtain hv | ⟨h', -⟩ := adds v hv
      · simp [waiting.resolve_left h] at hv
      · exact h h'
  · intro v hv
    rw [plan, stn]
    obtain hv | ⟨-, ok⟩ := adds v hv
    · exact sounds v hv
    · exact ok

/-! ### The commands that load nothing -/

theorem plan_not_touched {c : Instr} (load : loads c = false) : Part.plan ∉ touches c := by
  cases c <;> first | exact absurd (show true = false from load) (by decide) | simp [touches]

theorem quorum_not_touched {c : Instr} (load : loads c = false) : Part.quorum ∉ touches c := by
  cases c <;> first | exact absurd (show true = false from load) (by decide) | simp [touches]

theorem driveQuench_stn (g : Group) (active : Bool) (s : State) : (driveQuench g active s).pins.stn = s.pins.stn := by
  have level (high : Bool) : (s.setQuenchLevel g high).pins.stn = s.pins.stn := by cases g <;> rfl
  unfold driveQuench
  dsimp only
  split
  · rw [quenchGroup, (quenchWhere_frame _ _ _).pins, level]
  · exact level _

theorem attChange_stn {high : Bool} (h : execAttChange high s = .next t) : t.pins.stn = s.pins.stn := by
  unfold execAttChange at h
  dsimp only at h
  split at h
  · exact of_next h (P := fun t => t.pins.stn = _) rfl
  · split at h
    · exact of_next h (P := fun t => t.pins.stn = _) (by rw [(enterState_frame _ _).pins])
    · exact of_next h (P := fun t => t.pins.stn = _) (by rw [(enterState_frame _ _).pins])
    · exact of_next h (P := fun t => t.pins.stn = _) rfl

theorem exec_stn {c : Instr} (load : loads c = false) (h : exec c s = .next t) : t.pins.stn = s.pins.stn := by
  cases c with
  | attChange high => exact attChange_stn h
  | quenchAssertion g => exact of_next h (P := fun t => t.pins.stn = _) (driveQuench_stn g true s)
  | quenchInputInactive g => exact of_next h (P := fun t => t.pins.stn = _) (driveQuench_stn g false s)
  | reset stn lrate => exact absurd (show true = false from load) (by decide)
  | _ => rw [(exec_frame _ h).pins (by simp [touches])]

/-- A command that neither loads nor ends the second leaves the label (R8). -/
theorem exec_label {c : Instr} (load : loads c = false) (ends : endsSecond c = false) (h : exec c s = .next t) :
    t.clock.label = s.clock.label := by
  by_cases setting : ∃ v, c = .setBaseLabel v
  · obtain ⟨v, rfl⟩ := setting
    refine of_next h (P := fun t => t.clock.label = _) ?_
    unfold configure
    split <;> rfl
  · refine (exec_asks h (fun v hv => setting ⟨v, hv⟩) ?_ ?_ ?_).label
    · rintro x y rfl; exact absurd (show true = false from load) (by decide)
    · rintro ord rfl; exact absurd (show true = false from ends) (by decide)
    · rintro ord rfl; exact absurd (show true = false from ends) (by decide)

theorem Fit.exec_plain {c : Instr} (fit : Fit s) (load : loads c = false) (h : exec c s = .next t) :
    KeepsSound s t := by
  have attached : s.line.state ≠ .detached → s.started := fun d un => d (fit.quiescent.1.2 un)
  have frame := exec_frame c h
  have kept : Sound anyWindow s.started t ∧ (WindowsAhead s → WindowsAhead t) := by
    by_cases ends : endsSecond c = false
    · have sound {W} (adm : Allows W s.clock.label) (hs : Sound W s.started s) : Sound W s.started t :=
        hs.exec adm fit.onShelf fit.shelf.2.1 attached load ends h
      refine ⟨sound (anyWindow_allows _) fit.sound, fun windows => Sound.windowsAhead (p := s.started) ?_⟩
      rw [exec_label load ends h]
      exact sound (ahead_allows _) (fit.ahead windows)
    · have boundary : BoundarySound s.started s t := by
        cases c with
        | secinEdge ord => exact of_next h (secinEdge_sound ord)
        | substitutedBoundary ord => exact of_next h (substitutedBoundary_sound ord)
        | _ => exact absurd rfl ends
      exact ⟨boundary.sound fit.sound, fun windows => (boundary.windows (fit.ahead windows)).windowsAhead⟩
  exact keepsSound_of fit kept.1 (fun un => exec_unconfigured fit.quiescent fit.placed un load h)
    (frame.plan (plan_not_touched load)) (exec_stn load h) (frame.quorum (quorum_not_touched load))
    (exec_addsSound load h) kept.2

/-! ### The commands that load the plan or the scales, start the part, or reset it -/

/-- A configuration request that is turned away keeps everything; one that is taken is taken before START. -/
theorem Fit.configure {code : Byte} {change : Option (State → State)} (fit : Fit s)
    (taken : ∀ f ∈ change, s.station.state = .unconfigured → KeepsSound s (f s)) :
    KeepsSound s (configure code change s) := by
  have same : KeepsSound s s := keepsSound_of fit fit.sound id rfl rfl rfl (.refl s) id
  unfold Machine.configure
  split
  · exact same
  next un =>
    split
    · exact same
    next f => exact taken f rfl (Decidable.not_not.1 un)

theorem planOf_range {a : PlanArgs} {plan : Plan} (h : planOf a = some plan) : plan.n ≤ 16 ∧ 2 ≤ plan.e := by
  unfold planOf at h
  split at h
  · split at h
    next range =>
      obtain ⟨⟨-, n16⟩, -, ⟨e2, -⟩, -⟩ := range
      obtain rfl := Option.some.inj h
      exact ⟨n16, e2⟩
    · simp at h
  · simp at h

/-- Before START no entry is held and no verdict is on its way. -/
theorem Fit.empty (fit : Fit s) (un : s.station.state = .unconfigured) :
    s.table.entries = [] ∧ s.verdicts = [] :=
  ⟨fit.quiescent.2.resolve_left (fun h => h un), fit.verdicts.1.resolve_left fun h => h un⟩

theorem Fit.setPlan {a : PlanArgs} (fit : Fit s) (h : exec (.setPlan a) s = .next t) : KeepsSound s t := by
  refine of_next h (fit.configure fun f hf un => ?_)
  obtain ⟨plan, hp, rfl⟩ := Option.map_eq_some_iff.1 hf
  obtain ⟨n16, e2⟩ := planOf_range hp
  obtain ⟨entries, verdicts⟩ := fit.empty un
  refine ⟨⟨n16, e2, fun h => absurd un h⟩, ?_, fun sc hsc => ?_, ⟨.inr verdicts, ?_⟩, ?_⟩
  · simp [EntriesSound, entries]
  · obtain ⟨lag, offset, -⟩ := fit.scales sc hsc
    exact ⟨lag, offset, fun h => absurd un h⟩
  · simp [verdicts]
  · simp [WindowsAhead, entries]

theorem definedScale_sound {n k kind parent custodian : Nat} {v : Int} {sc : Scale}
    (h : definedScale k kind parent v custodian = some sc) : scaleSound False n sc := by
  unfold definedScale at h
  split at h
  · simp at h
  · split at h
    · simp at h
    · obtain rfl := Option.some.inj h
      exact scaleSound_undefined _ _
    · split at h
      next range =>
        obtain rfl := Option.some.inj h
        exact ⟨fun _ => ⟨range.1, range.2.1⟩, by simp, False.elim⟩
      next => simp at h
    · split at h
      next range =>
        obtain rfl := Option.some.inj h
        exact ⟨by simp, fun _ => ⟨range.1, range.2.1⟩, False.elim⟩
      next => simp at h

theorem Fit.defineScale {k kind parent : Byte} {v : BitVec 24} {c : Byte} (fit : Fit s)
    (h : exec (.defineScale k kind parent v c) s = .next t) : KeepsSound s t := by
  refine of_next h (fit.configure fun f hf un => ?_)
  obtain ⟨sc, hsc, rfl⟩ := Option.map_eq_some_iff.1 hf
  have frame := setScale_frame k.toNat sc s
  obtain ⟨lag, offset, -⟩ := definedScale_sound (n := s.plan.n) hsc
  refine keepsSound_of fit (fit.sound.setScale _ ⟨lag, offset, fun h => absurd un h⟩) (fun un => ?_) frame.plan ?_
    frame.quorum (.of_frame frame) fun windows => ?_
  · rw [frame.station, un]
  · rw [frame.pins]
  · rw [WindowsAhead, frame.table, frame.clock]; exact windows

theorem Fit.start (fit : Fit s) (h : exec .start s = .next t) : KeepsSound s t := by
  have same : KeepsSound s s := keepsSound_of fit fit.sound id rfl rfl rfl (.refl s) id
  rw [show exec .start s = execStart s from rfl, execStart] at h
  split at h
  · exact of_next h same
  next un =>
    split at h
    · exact of_next h same
    next passes =>
      obtain ⟨entries, verdicts⟩ := fit.empty (Decidable.not_not.1 un)
      have checks := (startFault_none s).1 passes
      have frame := startUp_frame s
      have table : (startUp s).table.entries = [] := by
        rw [startUp, ((quenchAtStart_frame .qa _).trans (quenchAtStart_frame .qb _)).table]; exact entries
      have quorum : (startUp s).quorum = s.plan.n / 2 + 1 := by
        rw [startUp, ((quenchAtStart_frame .qa _).trans (quenchAtStart_frame .qb _)).quorum]
      have own : s.pins.stn < s.plan.n := Nat.not_le.1 fun h => checks 1 _ (.inl ⟨rfl, rfl, h⟩)
      refine of_next h ⟨⟨?_, ?_, fun _ => ⟨?_, ?_⟩⟩, ?_, fun sc hsc => ?_, ⟨.inr ?_, ?_⟩, fun _ => ?_⟩
      · exact frame.plan ▸ fit.shelf.1
      · exact frame.plan ▸ fit.shelf.2.1
      · exact frame.pins ▸ frame.plan ▸ own
      · exact frame.plan ▸ quorum
      · intro e he; simp [answerOk, table] at he
      · have hsc : sc ∈ s.scales.toList := frame.scales ▸ hsc
        obtain ⟨lag, offset, -⟩ := fit.scales sc hsc
        refine ⟨lag, offset, fun _ c hc => ?_⟩
        obtain ⟨i, hi, rfl⟩ := List.getElem_of_mem hsc
        have hi : i < 5 := by simpa using hi
        have plan : (answerOk 7 .none (startUp s)).plan = s.plan := frame.plan
        rw [plan]
        refine Nat.not_le.1 fun hle => checks 3 (i + 1) (.inr (.inr (.inl ⟨rfl, by omega, by omega, c, ?_, hle⟩)))
        simpa [State.scale, show i + 1 ≤ 5 by omega] using hc
      · exact frame.verdicts.trans verdicts
      · intro v hv; simp [answerOk, frame.verdicts, verdicts] at hv
      · intro e he; simp [answerOk, table] at he

theorem keepsSound_reset {stn : BitVec 4} {lrate : BitVec 2} (h : exec (.reset stn lrate) s = .next t) :
    KeepsSound s t := by
  refine of_next h ⟨⟨(by decide : Plan.reset.n ≤ 16), (by decide : 2 ≤ Plan.reset.e), fun h => absurd rfl h⟩,
    by simp [EntriesSound, State.reset, Table.reset],
    fun sc hsc => ?_, ⟨.inr rfl, by simp [State.reset]⟩, fun _ => by simp [WindowsAhead, State.reset, Table.reset]⟩
  have hsc : sc ∈ (Vector.replicate 5 Scale.undefined).toList := hsc
  obtain rfl : sc = Scale.undefined := by simpa using hsc
  exact scaleSound_undefined _ _

theorem Fit.exec {c : Instr} (fit : Fit s) (h : exec c s = .next t) : KeepsSound s t := by
  by_cases load : loads c = false
  · exact fit.exec_plain load h
  · cases c with
    | setPlan a => exact fit.setPlan h
    | defineScale k kind p v c => exact fit.defineScale h
    | start => exact fit.start h
    | reset stn lrate => exact keepsSound_reset h
    | _ => exact absurd rfl load

/-! ### The claims on their way -/

theorem Sound.take {W : EntryState → Option Nat → Prop} (hs : Sound W p s) (adm : Allows W s.clock.label)
    (shelf : OnShelf s) (e2 : 2 ≤ s.plan.e) {v : PendingVerdict} (sound : v.sound s.pins.stn s.plan.n = true) :
    Sound W p (v.take s) := by
  cases v with
  | line r v =>
    obtain ⟨fields, proposer⟩ : r.fieldsOk s.plan.n = true ∧ r.id.proposer < s.plan.n := by
      simpa [PendingVerdict.sound] using sound
    exact hs.takeVerdict adm shelf v fields proposer
  | port code r v =>
    obtain ⟨fields, own⟩ : r.fieldsOk s.plan.n = true ∧ r.id.proposer = s.pins.stn := by
      simpa [PendingVerdict.sound] using sound
    exact hs.takeOwnVerdict adm (fun _ => shelf) e2 false code v fields own
  | ratify id =>
    obtain ⟨-, alone⟩ : id.proposer = s.pins.stn ∧ s.plan.n ≤ 1 := by simpa [PendingVerdict.sound] using sound
    exact hs.ratifyStored adm.toWindowRule shelf alone id

theorem take_addsSound {v : PendingVerdict} (sound : v.sound s.pins.stn s.plan.n = true) : addsSound s (v.take s) := by
  cases v with
  | line r v => exact .of_frame (takeVerdict_frame r v s)
  | port code r v =>
    obtain ⟨-, own⟩ : r.fieldsOk s.plan.n = true ∧ r.id.proposer = s.pins.stn := by
      simpa [PendingVerdict.sound] using sound
    exact takeOwnVerdict_addsSound false code v own
  | ratify id => exact .of_frame (ratifyStored_frame id s)

theorem Fit.take {v : PendingVerdict} {vs : List PendingVerdict} (fit : Fit s) (hv : s.verdicts = v :: vs) :
    KeepsSound s (v.take { s with verdicts := vs }) := by
  have started : s.started := fit.verdicts.1.resolve_right (by simp [hv])
  have ok : v.sound s.pins.stn s.plan.n = true := fit.verdicts.2 v (by simp [hv])
  have first := withVerdicts_frame vs s
  have frame : ChangesOnly [.scales, .table, .line, .verdicts, .port, .notices] s (v.take { s with verdicts := vs }) :=
    first.then (take_frame v _)
  have sound {W} (adm : Allows W s.clock.label) (hs : Sound W s.started s) :
      Sound W s.started (v.take { s with verdicts := vs }) :=
    Sound.take (hs.of_still first) adm ((fit.onShelf started).of_frame first) fit.shelf.2.1 ok
  refine keepsSound_of fit (sound (anyWindow_allows _) fit.sound) (fun un => absurd un started) frame.plan ?_
    frame.quorum (fun x hx => ?_) fun windows => Sound.windowsAhead (p := s.started) ?_
  · rw [frame.pins]
  · obtain hx | hx := take_addsSound (s := { s with verdicts := vs }) ok x hx
    · exact .inl (hv ▸ List.mem_cons_of_mem v hx)
    · exact .inr hx
  · rw [frame.clock]
    exact sound (ahead_allows _) (fit.ahead windows)

theorem Fit.tick (fit : Fit s) : KeepsSound s (tick s) := by
  have frame := tick_frame s
  exact keepsSound_of fit (fit.sound.of_still frame) id rfl rfl rfl (.of_frame frame) id

end

/-- Settles O59: each command, each claim and each tick keeps entries, scales, verdicts and windows sound. -/
theorem stepsKeepEntriesAndScalesSound : Obligations.StepsKeepEntriesAndScalesSound := by
  intro s t quiescent placed shelf table entries scales verdicts h
  have fit : Fit s := ⟨quiescent, placed, shelf, table, entries, scales, verdicts⟩
  obtain ⟨c, rest, -, hc⟩ | ⟨v, vs, hv, rfl⟩ | ⟨c, -, hc⟩ | ⟨-, rfl⟩ := step_cases h
  · exact (fit.own ((withPending_frame rest s).mono (by decide))).exec hc
  · exact fit.take hv
  · exact (fit.own ((drawn_frame s).mono (by decide))).exec hc
  · exact fit.tick

end Sys2Proof.Machine
end

section
/-! SUPPORT. The part right after a full reset (R1, R21, R41, R60, R105, R125, R155, R191). -/

namespace Sys2Proof.Machine

set_option Elab.async false

/-! ### The reset values of the units that are held in vectors -/

theorem reset_scale (k : Fin 5) : State.reset.scales[k] = Scale.undefined := by simp [State.reset]

theorem reset_slot (p : Fin 16) : State.reset.roster[p] = Slot.absent := by simp [State.reset]

theorem reset_output (n : Fin 8) : State.reset.outputs[n] = Output.reset := by simp [State.reset]

theorem reset_report (k : Fin 5) :
    State.reset.report.applying[k] = none ∧ State.reset.report.change[k] = none := by
  simp [State.reset, Report.empty]

theorem reset_level (k : Fin 23) : State.reset.notices.levels[k] = 4 := by simp [State.reset, Notices.reset]

/-- Settles O20: each unit takes the reset state that its chapter gives, and the straps are those of the command. -/
theorem resetGivesEveryUnitItsResetState : Obligations.ResetGivesEveryUnitItsResetState := by
  intro s stn lrate
  have scales (k : Fin 5) : State.reset.scales[k].kind = .undefined ∧ State.reset.scales[k].parent = none ∧
      State.reset.scales[k].inserted = false ∧ State.reset.scales[k].insertRefused = false := by
    rw [reset_scale]; exact ⟨rfl, rfl, rfl, rfl⟩
  refine ⟨_, rfl, rfl, rfl, rfl, rfl, rfl, rfl, rfl, rfl, ?plan, rfl, scales, rfl, rfl, rfl, rfl, rfl, rfl, rfl, rfl,
    rfl, reset_slot, rfl, rfl, reset_report, ?outputs, rfl, rfl, rfl, rfl, rfl, rfl, reset_level, rfl⟩
  case plan => exact ⟨rfl, rfl, rfl, rfl, rfl, rfl, rfl, rfl, rfl, rfl, rfl, rfl, rfl, rfl, rfl, rfl⟩
  case outputs =>
    intro n
    dsimp only
    rw [reset_output]
    exact ⟨rfl, rfl, rfl, rfl, rfl, rfl, rfl, rfl, rfl, rfl, rfl, rfl, rfl, rfl, rfl, rfl, rfl⟩

/-! ### The invariants -/

theorem reset_scalesSound : ScalesSound State.reset := by
  intro sc hsc
  obtain rfl : sc = Scale.undefined := by simpa [State.reset] using hsc
  exact scaleSound_undefined _ _

theorem reset_rosterSound : RosterSound State.reset := by
  have absent (p : Nat) : State.reset.slot p = Slot.absent := by
    unfold State.slot State.reset
    by_cases h : p < 16 <;> simp [h]
  exact ⟨by rw [absent]; rfl, fun p _ => by rw [absent]; rfl⟩

theorem reset_outputsQuenched : OutputsQuenched State.reset := by
  intro n
  rw [reset_output]
  exact ⟨fun h => absurd h (by decide), fun h => absurd h (by decide)⟩

/-- Settles O54: an empty table and queue, no context and no verdict meet what speaks of their items, and the clock, the
plan, the scales, the roster and the outputs meet their ranges. -/
theorem resetKeepsEveryInvariant : Obligations.ResetKeepsEveryInvariant := by
  have clock : ClockBounded State.reset := by decide
  have quiescent : Quiescent State.reset := by decide
  have placed : ContextsPlaced State.reset := ⟨fun _ h => absurd h (by simp [State.reset]),
    fun _ h => absurd h (by simp [State.reset])⟩
  have queue : QueueBounded State.reset := by decide
  have alone : OneInTransmission State.reset := by decide
  have shelf : ShelfFixed State.reset := by decide
  have table : TableBounded State.reset := by decide
  have notices : NoticesBounded State.reset := by decide
  have station : StationBounded State.reset := by decide
  have verdicts : VerdictsSound State.reset := by decide
  exact ⟨clock, quiescent, placed, reset_rosterSound, queue, alone, shelf, table, List.Pairwise.nil,
    fun e he => absurd he (by simp [State.reset, Table.reset]), reset_scalesSound, reset_outputsQuenched, notices,
    station,
    verdicts, fun e he => absurd he (by simp [State.reset, Table.reset])⟩

end Sys2Proof.Machine
end

section
/-! SUPPORT. The configuration requests: turned away after START, out of range, or taken (R9, R11, R13, R165, R185,
R186, R189). -/

namespace Sys2Proof.Machine

set_option Elab.async false

section
variable {s : State} {code : Byte}

/-! ### The three answers of a configuration request -/

theorem configure_started (h : s.started) (change : Option (State → State)) :
    configure code change s = { s with port := refusedPort code .state } := by
  unfold configure; rw [if_pos h]; rfl

theorem configure_range (h : s.station.state = .unconfigured) :
    configure code none s = { s with port := refusedPort code .range } := by
  simp [configure, h]; rfl

theorem configure_taken (h : s.station.state = .unconfigured) (f : State → State) :
    configure code (some f) s = { f s with port := okPort code } := by
  rw [configure, if_neg (by simp [h])]; rfl

/-! ### Codes -/

theorem bitOf_toNat (b : Bool) : bitOf b.toNat = some b := by cases b <;> rfl

theorem bitOf_eq_none {n : Nat} (h : 1 < n) : bitOf n = none := by
  match n, h with
  | n + 2, _ => rfl

theorem scaleKind_ofCode_eq_none {n : Nat} (h : 2 < n) : ScaleKind.ofCode n = none := by
  match n, h with
  | n + 3, _ => rfl

theorem custodianCodeOk_iff {c : Nat} : custodianCodeOk c = true ↔ c ≤ 15 ∨ c = 255 := by simp [custodianCodeOk]

/-! ### Settings -/

/-- SET_QUENCH with its three codes read (R165). -/
theorem setQuench_bits (h : s.station.state = .unconfigured) {g t p : Byte} {group e l : Bool}
    (hg : g.toNat = group.toNat) (ht : t.toNat = e.toNat) (hp : p.toNat = l.toNat) :
    exec (.setQuench g t p) s = .next
      { s.setQuenchCfg (if group then .qb else .qa) { edge := e, activeLow := l } with port := okPort 4 } := by
  rw [show exec (.setQuench g t p) s = execSetQuench g t p s from rfl, execSetQuench, hg, ht, hp]
  simp only [bitOf_toNat]
  rw [configure_taken h]

theorem setQuench_range (h : s.station.state = .unconfigured) {g t p : Byte}
    (out : 1 < g.toNat ∨ 1 < t.toNat ∨ 1 < p.toNat) :
    exec (.setQuench g t p) s = .next { s with port := refusedPort 4 .range } := by
  rw [show exec (.setQuench g t p) s = execSetQuench g t p s from rfl, execSetQuench]
  split
  next hg ht hp =>
    obtain h | h | h := out
    · rw [bitOf_eq_none h] at hg; simp at hg
    · rw [bitOf_eq_none h] at ht; simp at ht
    · rw [bitOf_eq_none h] at hp; simp at hp
  next => rw [configure_range h]

theorem setNoticeLevels_threshold (h : s.station.state = .unconfigured) {k l : Byte} (hl : l.toNat ≤ 7)
    (hk : k.toNat = 0) :
    exec (.setNoticeLevels k l) s = .next
      { s with notices := { s.notices with threshold := l.toNat }, port := okPort 6 } := by
  have hk : k = 0 := BitVec.eq_of_toNat_eq hk
  rw [show exec (.setNoticeLevels k l) s = execSetNoticeLevels k l s from rfl, execSetNoticeLevels,
    if_neg (by subst hk; simp; omega), if_pos hk, configure_taken h]

theorem setNoticeLevels_level (h : s.station.state = .unconfigured) {k l : Byte} (hl : l.toNat ≤ 7)
    (hk : 1 ≤ k.toNat) (hk' : k.toNat ≤ 23) :
    exec (.setNoticeLevels k l) s = .next
      { s with notices := { s.notices with levels := s.notices.levels.setIfInBounds (k.toNat - 1) l.toNat }
               port := okPort 6 } := by
  have hne : ¬ k = 0 := by rintro rfl; simp at hk
  rw [show exec (.setNoticeLevels k l) s = execSetNoticeLevels k l s from rfl, execSetNoticeLevels,
    if_neg (by omega), if_neg hne, configure_taken h]

theorem setNoticeLevels_range (h : s.station.state = .unconfigured) {k l : Byte}
    (out : 23 < k.toNat ∨ 7 < l.toNat) :
    exec (.setNoticeLevels k l) s = .next { s with port := refusedPort 6 .range } := by
  rw [show exec (.setNoticeLevels k l) s = execSetNoticeLevels k l s from rfl, execSetNoticeLevels, if_pos out,
    configure_range h]

/-! ### DEFINE_SCALE -/

theorem defineScale_taken (h : s.station.state = .unconfigured) {k kind parent c : Byte} {v : BitVec 24} {sc : Scale}
    (hk : 1 ≤ k.toNat) (hsc : definedScale k.toNat kind.toNat parent.toNat v.toInt c.toNat = some sc) :
    exec (.defineScale k kind parent v c) s = .next
      { s with scales := s.scales.setIfInBounds (k.toNat - 1) sc, port := okPort 2 } := by
  rw [show exec (.defineScale k kind parent v c) s = execDefineScale k kind parent v c s from rfl, execDefineScale, hsc,
    Option.map_some, configure_taken h, State.setScale, if_pos hk]

theorem defineScale_refused (h : s.station.state = .unconfigured) {k kind parent c : Byte} {v : BitVec 24}
    (hsc : definedScale k.toNat kind.toNat parent.toNat v.toInt c.toNat = none) :
    exec (.defineScale k kind parent v c) s = .next { s with port := refusedPort 2 .range } := by
  rw [show exec (.defineScale k kind parent v c) s = execDefineScale k kind parent v c s from rfl, execDefineScale, hsc,
    Option.map_none, configure_range h]

end

/-! ### The scale that DEFINE_SCALE makes (R11, R13) -/

section
variable {k kind parent custodian : Nat} {v : Int}

theorem definedScale_number (h : k = 0 ∨ 5 < k) : definedScale k kind parent v custodian = none := by
  rw [definedScale, if_pos h]

theorem definedScale_kind (h : 2 < kind) : definedScale k kind parent v custodian = none := by
  rw [definedScale, scaleKind_ofCode_eq_none h]; split <;> rfl

theorem definedScale_undefined (hk : 1 ≤ k ∧ k ≤ 5) :
    definedScale k 0 parent v custodian = some Scale.undefined := by
  rw [definedScale, if_neg (by omega)]; rfl

theorem definedScale_civil (hk : 1 ≤ k ∧ k ≤ 5) :
    definedScale k 1 parent v custodian =
      if -255 ≤ v ∧ v ≤ 255 ∧ custodianCodeOk custodian = true then
        some { Scale.undefined with kind := .civil, value := v, custodian := custodianOf custodian }
      else none := by
  rw [definedScale, if_neg (by omega)]; rfl

theorem definedScale_local (hk : 1 ≤ k ∧ k ≤ 5) :
    definedScale k 2 parent v custodian =
      if -86400 ≤ v ∧ v ≤ 86400 ∧ custodianCodeOk custodian = true ∧ 1 ≤ parent ∧ parent ≤ 5 ∧ parent ≠ k then
        some { Scale.undefined with
          kind := .localScale, parent := some parent, value := v, custodian := custodianOf custodian }
      else none := by
  rw [definedScale, if_neg (by omega)]; rfl

/-- A scale that is defined needs a custodian code in its range (R189). -/
theorem definedScale_custodian (hkind : kind ≠ 0) (h : ¬ (custodian ≤ 15 ∨ custodian = 255)) :
    definedScale k kind parent v custodian = none := by
  by_cases hk : k = 0 ∨ 5 < k
  · exact definedScale_number hk
  have hk : 1 ≤ k ∧ k ≤ 5 := by omega
  rw [← custodianCodeOk_iff] at h
  match kind, hkind with
  | 1, _ => rw [definedScale_civil hk, if_neg fun hc => h hc.2.2]
  | 2, _ => rw [definedScale_local hk, if_neg fun hc => h hc.2.2.1]
  | kind + 3, _ => exact definedScale_kind (by omega)

end

/-- Settles O5: after START each configuration request is answered STATE; before it each setting is loaded or answered
RANGE. -/
theorem settingsAreLoadedOnlyUnconfigured : Obligations.SettingsAreLoadedOnlyUnconfigured := by
  refine ⟨fun s started => ?_, fun s un => ⟨?quench, ?quenchRange, ?label, ?levels, ?levelsRange⟩⟩
  · have turned (code : Byte) (change : Option (State → State)) :
        Host.Outcome.next (φ := Fault) (ρ := Refusal) (configure code change s) =
          .next { s with port := refusedPort code .state } := by rw [configure_started started]
    exact ⟨fun _ => turned 1 _, fun _ _ _ _ _ => turned 2 _, fun _ _ _ _ _ _ => turned 3 _, fun _ _ _ => turned 4 _,
      fun _ => turned 5 _, fun _ _ => turned 6 _⟩
  case quench =>
    intro g t p e l ht hp
    exact ⟨fun hg => setQuench_bits (group := false) un hg ht hp, fun hg => setQuench_bits (group := true) un hg ht hp⟩
  case quenchRange => exact fun g t p out => setQuench_range un out
  case label =>
    intro v
    exact congrArg Host.Outcome.next (configure_taken un _)
  case levels =>
    exact fun k l hl => ⟨fun hk => setNoticeLevels_threshold un hl hk,
      fun hk hk' => setNoticeLevels_level un hl hk hk'⟩
  case levelsRange => exact fun k l out => setNoticeLevels_range un out

/-- Settles O7: DEFINE_SCALE by its kind code, and its refusals argument by argument. -/
theorem defineScaleLoadsTheScale : Obligations.DefineScaleLoadsTheScale := by
  intro s k kind parent v c un loaded custodian custodianIn refused
  have refuse (h : definedScale k.toNat kind.toNat parent.toNat v.toInt c.toNat = none) : refused :=
    defineScale_refused un h
  refine ⟨fun hk hk' => ⟨fun h0 => ?undefined, fun h1 lo hi hc => ?civil, fun h2 lo hi hc plo phi hne => ?loc,
    fun h => refuse (definedScale_kind h), fun hkind hc => refuse (definedScale_custodian hkind hc),
    fun h1 out => refuse ?civilRange, fun h2 out => refuse ?localRange⟩, fun h => refuse (definedScale_number h)⟩
  case undefined => exact defineScale_taken un hk (h0 ▸ definedScale_undefined ⟨hk, hk'⟩)
  case civil =>
    refine defineScale_taken un hk ?_
    rw [h1, definedScale_civil ⟨hk, hk'⟩, if_pos ⟨lo, hi, custodianCodeOk_iff.2 hc⟩]
    rfl
  case loc =>
    have hne : parent.toNat ≠ k.toNat := fun h => hne (BitVec.eq_of_toNat_eq h)
    refine defineScale_taken un hk ?_
    rw [h2, definedScale_local ⟨hk, hk'⟩, if_pos ⟨lo, hi, custodianCodeOk_iff.2 hc, plo, phi, hne⟩]
    rfl
  case civilRange => rw [h1, definedScale_civil ⟨hk, hk'⟩, if_neg (by omega)]
  case localRange =>
    rw [h2, definedScale_local ⟨hk, hk'⟩, if_neg]
    rintro ⟨lo, hi, -, plo, phi, hne⟩
    obtain h | h | h | h | rfl := out
    · omega
    · omega
    · omega
    · omega
    · exact hne rfl

end Sys2Proof.Machine
end

section
/-! SUPPORT. Edges and substituted boundaries: which clock each gives to the boundary that it makes (R2 to R7). -/

namespace Sys2Proof.Machine

set_option Elab.async false

/-! ### Notices -/

theorem raise_noticed (n : Notice) (s : State) : noticed (raise n s) n.kind :=
  exists_kind_addNotice n _ _

/-! ### The clock that an edge gives to its boundary -/

section
variable {s : State} (ord : BoundaryOrder)

theorem secinEdge_phase (h : s.clock.phased = false) :
    secinEdge ord s = boundary ord (s.setClock s.clock.phase) := by simp [secinEdge, h]

theorem secinEdge_accept (h : s.clock.phased = true) (due : Config.acceptFrom ≤ s.clock.tick) :
    secinEdge ord s = boundary ord (s.setClock s.clock.accept) := by
  simp [secinEdge, h, Nat.not_lt.2 due]

theorem secinEdge_spurious (h : s.clock.phased = true) (early : s.clock.tick < Config.acceptFrom) :
    secinEdge ord s = spuriousEdge ord s := by simp [secinEdge, h, early]

theorem spuriousEdge_locked (h : s.clock.lock = .locked) :
    spuriousEdge ord s = raise (.secinSpurious s.clock.label s.clock.tick false) s := by simp [spuriousEdge, h]

theorem spuriousEdge_captured (h : s.clock.lock = .free) (few : s.clock.nextCapRun < 4) :
    spuriousEdge ord s =
      raise (.secinSpurious s.clock.label s.clock.tick false) (s.setClock s.clock.capture) := by
  simp [spuriousEdge, h, Nat.not_le.2 few]

theorem spuriousEdge_recaptured (h : s.clock.lock = .free) (four : 4 ≤ s.clock.nextCapRun) :
    spuriousEdge ord s =
      raise (.secinSpurious s.clock.label s.clock.tick true) (boundary ord (s.setClock s.clock.recapture)) := by
  simp [spuriousEdge, h, four]

theorem substitutedBoundary_due (h : Config.substituteAt ≤ s.clock.tick) :
    substitutedBoundary ord s =
      raise (.secinLost (boundary ord (s.setClock s.clock.substitute)).clock.label)
        (boundary ord (s.setClock s.clock.substitute)) := by simp [substitutedBoundary, h]

theorem substitutedBoundary_stands (h : s.clock.tick < Config.substituteAt) : substitutedBoundary ord s = s := by
  simp [substitutedBoundary, Nat.not_le.2 h]

theorem steady_iff {c : Clock} : c.steady = true ↔ 9999900 ≤ c.capElapsed ∧ c.capElapsed ≤ 10000100 := by
  simp [Clock.steady, Config.acceptFrom, Config.substituteAt]

/-- A capture run goes on where it stands and its edges come steadily (R7). -/
theorem nextCapRun_steady {c : Clock} (run : 1 ≤ c.capRun) (steady : c.steady = true) :
    c.nextCapRun = c.capRun + 1 := by
  rw [Clock.nextCapRun, if_pos ⟨by omega, steady⟩]

theorem nextCapRun_anew {c : Clock} (h : c.capRun = 0 ∨ ¬ c.steady = true) : c.nextCapRun = 1 := by
  rw [Clock.nextCapRun, if_neg]
  rintro ⟨run, steady⟩
  obtain h | h := h
  · exact run h
  · exact h steady

end

/-! ### A command that makes a boundary -/

/-- From `s` a boundary is made, on a clock with the label and the pending label of `s`, and at most one notice is
raised after it. -/
def boundaryMade (s t : State) : Prop :=
  ∃ (ord : BoundaryOrder) (k : Clock), k.label = s.clock.label ∧ k.pendingLabel = s.clock.pendingLabel ∧
    (t = boundary ord (s.setClock k) ∨ ∃ n, t = raise n (boundary ord (s.setClock k)))

theorem secinEdge_makes {s : State} {ord : BoundaryOrder} (h : makesBoundary s (.secinEdge ord)) :
    boundaryMade s (secinEdge ord s) := by
  by_cases phased : s.clock.phased = true
  · by_cases due : Config.acceptFrom ≤ s.clock.tick
    · exact ⟨ord, s.clock.accept, rfl, rfl, .inl (secinEdge_accept ord phased due)⟩
    · obtain h | h | ⟨-, free, run, steady⟩ := h
      · exact absurd phased (by simp [h])
      · exact absurd h.1 due
      · have four : 4 ≤ s.clock.nextCapRun := by rw [nextCapRun_steady (by omega) (steady_iff.2 steady)]; omega
        rw [secinEdge_spurious ord phased (by omega), spuriousEdge_recaptured ord free four]
        exact ⟨ord, s.clock.recapture, rfl, rfl, .inr ⟨_, rfl⟩⟩
  · exact ⟨ord, s.clock.phase, rfl, rfl, .inl (secinEdge_phase ord (by simpa using phased))⟩

theorem exec_makesBoundary {s : State} {c : Instr} (h : makesBoundary s c) :
    ∃ t, exec c s = .next t ∧ boundaryMade s t := by
  cases c with
  | secinEdge ord => exact ⟨_, rfl, secinEdge_makes h⟩
  | substitutedBoundary ord =>
    exact ⟨_, rfl, ord, s.clock.substitute, rfl, rfl, .inr ⟨_, substitutedBoundary_due ord h⟩⟩
  | _ => exact h.elim

/-! ### The obligations -/

/-- Settles O23: the clocks of an accepted edge, of a first edge and of a substituted boundary, each carried through
the boundary. -/
theorem edgesAndSubstitutedBoundariesEndTheSecond : Obligations.EdgesAndSubstitutedBoundariesEndTheSecond := by
  intro s ord
  refine ⟨fun phased late _ => ⟨_, rfl, ?accepted⟩, fun unphased => ⟨_, rfl, ?first⟩,
    fun due => ⟨_, rfl, ?substituted⟩, fun early => ?early⟩
  case accepted =>
    have frame := secinEdge_frame ord s
    rw [secinEdge_accept ord phased late] at frame ⊢
    obtain ⟨tick, run, lock, phase, cap, -⟩ := boundary_clock ord (s.setClock s.clock.accept)
    have plain := boundary_plain_label (s := s.setClock s.clock.accept) (ord := ord)
    have setting (v : Nat) := boundary_setting_label (s := s.setClock s.clock.accept) (v := v) (ord := ord)
    refine ⟨plain, setting, tick, run, cap, phase.trans phased, lock.trans ?_, frame⟩
    simp only [setClock_clock, Clock.accept]
    by_cases few : s.clock.run + 1 < 4
    · rw [if_pos few, if_neg (by omega)]
    · rw [if_neg few, if_pos (by omega)]
  case first =>
    have frame := secinEdge_frame ord s
    rw [secinEdge_phase ord unphased] at frame ⊢
    obtain ⟨tick, run, lock, phase, -, -⟩ := boundary_clock ord (s.setClock s.clock.phase)
    have plain := boundary_plain_label (s := s.setClock s.clock.phase) (ord := ord)
    exact ⟨plain, tick, run, phase, lock, frame⟩
  case substituted =>
    have frame := substitutedBoundary_frame ord s
    rw [substitutedBoundary_due ord due] at frame ⊢
    have plain := boundary_plain_label (s := s.setClock s.clock.substitute) (ord := ord)
    have setting (v : Nat) := boundary_setting_label (s := s.setClock s.clock.substitute) (v := v) (ord := ord)
    obtain ⟨tick, run, lock, phase, cap, elapsed⟩ := boundary_clock ord (s.setClock s.clock.substitute)
    rw [raise_clock]
    exact ⟨plain, setting, tick, run, lock, phase, cap, elapsed, raise_noticed _ _, frame⟩
  case early => exact congrArg Host.Outcome.next (substitutedBoundary_stands ord early)

/-- Settles O24: the capture run after a spurious edge, by the lock state and the steadiness of the edges. -/
theorem spuriousEdgeFeedsRecapture : Obligations.SpuriousEdgeFeedsRecapture := by
  intro s ord phased early c steady spurious
  have edge : exec (.secinEdge ord) s = .next (spuriousEdge ord s) :=
    congrArg Host.Outcome.next (secinEdge_spurious ord phased early)
  have captured {n : Nat} (free : c.lock = .free) (next : c.nextCapRun = n) (few : n < 4) :
      exec (.secinEdge ord) s = .next (spurious { c with run := 0, capRun := n, capElapsed := 0 }) := by
    subst next
    rw [edge, spuriousEdge_captured ord free few]
    rfl
  refine ⟨fun locked => ?_, fun free h => ?_, fun free run few h => ?_, fun free run h => ?_⟩
  · rw [edge, spuriousEdge_locked ord locked]
    rfl
  · exact captured free (nextCapRun_anew (h.imp id (mt steady_iff.1))) (by decide)
  · exact captured free (nextCapRun_steady run (steady_iff.2 h)) (by omega)
  · have four : 4 ≤ c.nextCapRun := by rw [nextCapRun_steady (by omega) (steady_iff.2 h)]; omega
    rw [edge, spuriousEdge_recaptured ord free four]
    obtain ⟨tick, runs, lock, -, cap, -⟩ := boundary_clock ord (s.setClock s.clock.recapture)
    have plain := boundary_plain_label (s := s.setClock s.clock.recapture) (ord := ord)
    refine ⟨_, rfl, ?_⟩
    rw [raise_clock]
    exact ⟨plain, tick, runs, cap, lock.trans free, raise_noticed _ _⟩

end Sys2Proof.Machine
end

section
/-! SUPPORT. What a boundary takes from nobody: pending notices, RUNNING outputs and pending realignments (R157, R163,
R191). -/

namespace Sys2Proof.Machine

set_option Elab.async false

/-! ### The relation -/

/-- An output stays RUNNING, and a realignment that is pending stays pending. -/
structure Output.Remains (o p : Output) : Prop where
  running : o.running = true → p.running = true
  realign : o.realign = true → p.realign = true

theorem Output.Remains.refl (o : Output) : o.Remains o := ⟨id, id⟩

theorem Output.Remains.trans {o p q : Output} (h : o.Remains p) (k : p.Remains q) : o.Remains q :=
  ⟨k.running ∘ h.running, k.realign ∘ h.realign⟩

/-- From `s` to `t` no kind of notice leaves the pending set, and what an output needs for its realignment stays. -/
structure Remains (s t : State) : Prop where
  noticed : ∀ k, noticed s k → noticed t k
  outputs : ∀ n : Fin 8, s.outputs[n].Remains t.outputs[n]

theorem Remains.trans {s t u : State} (h : Remains s t) (k : Remains t u) : Remains s u :=
  ⟨fun n hn => k.noticed n (h.noticed n hn), fun n => (h.outputs n).trans (k.outputs n)⟩

theorem Remains.of_eq {s t : State} (notices : t.notices = s.notices) (outputs : t.outputs = s.outputs) :
    Remains s t where
  noticed k h := by rwa [Machine.noticed, notices]
  outputs n := by rw [outputs]; exact .refl _

theorem Remains.after {s t u : State} (h : Remains t u) (notices : t.notices = s.notices)
    (outputs : t.outputs = s.outputs) : Remains s u := (of_eq notices outputs).trans h

theorem Remains.refl (s : State) : Remains s s := .of_eq rfl rfl

theorem Remains.of_frame {ps : List Part} {s t : State} (h : ChangesOnly ps s t)
    (notices : Part.notices ∉ ps := by decide) (outputs : Part.outputs ∉ ps := by decide) : Remains s t :=
  .of_eq (h.notices notices) (h.outputs outputs)

theorem Remains.ite {c : Prop} [Decidable c] {s t u : State} (h : Remains s t) (k : Remains s u) :
    Remains s (if c then t else u) := by split <;> assumption

theorem Remains.foldl {α : Type} {g : State → α → State} (h : ∀ t x, Remains t (g t x)) (l : List α) (s : State) :
    Remains s (l.foldl g s) := by
  induction l generalizing s with
  | nil => exact .refl _
  | cons x l ih => exact (h s x).trans (ih _)

/-! ### Notices and frames to the line -/

theorem raise_remains (n : Notice) (s : State) : Remains s (raise n s) where
  noticed k h := kind_stays n _ _ k h
  outputs _ := .refl _

theorem offer_remains (f : Frame) (s : State) : Remains s (offer f s) := by
  obtain ⟨-, h⟩ | ⟨-, h⟩ | ⟨-, h⟩ := offer_cases f s
  · rw [h]; exact .of_frame (setQueue_frame _ s)
  · rw [h]; exact raise_remains _ s
  · rw [h]; exact .refl s

theorem freeEntry_remains (id : Ident) (n : Notice) (s : State) : Remains s (freeEntry id n s) :=
  ((Remains.of_frame (setEntries_frame _ s)).trans (raise_remains n _)).trans (.of_frame (setQueue_frame _ _))

theorem freeExecuted_remains (id : Ident) (e : StationSet) (s : State) : Remains s (freeExecuted id e s) :=
  (Remains.of_frame (setEntries_frame _ s)).trans (raise_remains _ _)

/-! ### Outputs -/

theorem setOutput_remains {n : Fin 8} {o : Output} {s : State} (h : s.outputs[n].Remains o) :
    Remains s (s.setOutput n o) where
  noticed _ h := h
  outputs m := by
    rw [setOutput_get]
    split
    next same => exact same ▸ h
    next => exact .refl _

theorem quenched_remains (c : QuenchDetail) (o : Output) : o.Remains (o.quenched c) := ⟨id, id⟩

theorem release_remains (o : Output) : o.Remains o.release := by
  unfold Output.release
  split
  · exact ⟨id, id⟩
  · exact .refl o

theorem load_remains (o : Output) : o.Remains o.load := ⟨id, id⟩

theorem drive_remains (bytes : List Byte) (o : Output) : o.Remains (o.drive bytes) := by
  unfold Output.drive
  split <;> exact ⟨id, id⟩

theorem present_remains (s : State) (b : Binding) (atBoundary : Bool) (o : Output) :
    o.Remains (present s b atBoundary o).1 := by
  unfold present
  split
  case h_1 => exact ⟨id, id⟩
  case h_2 => split <;> exact ⟨id, id⟩
  case h_3 =>
    dsimp only
    split
    · exact ⟨id, id⟩
    · exact ⟨id, id⟩
    · split <;> exact ⟨id, id⟩

theorem closeWindow_remains (label : Nat) (o : Output) : o.Remains (o.closeWindow label) := by
  unfold Output.closeWindow
  split
  · split
    · split <;> exact ⟨id, id⟩
    · exact .refl o
  · exact .refl o

theorem quenchOutput_remains (c : QuenchDetail) (n : Fin 8) (s : State) : Remains s (quenchOutput c s n) := by
  have quenched := setOutput_remains (quenched_remains c s.outputs[n])
  exact .ite (.ite quenched (quenched.trans (raise_remains _ _))) (.refl s)

theorem quenchOnState_remains (st : StationState) (s : State) : Remains s (quenchOnState st s) := by
  have picked (p : Fin 8 → Output → Bool) (c : QuenchDetail) : Remains s (quenchWhere p c s) :=
    .foldl (fun t n => .ite (quenchOutput_remains c n t) (.refl t)) _ s
  unfold quenchOnState
  split
  · exact picked _ _
  · exact picked _ _
  · exact .refl s

theorem startSecond_remains (n : Fin 8) (b : Bool) (s : State) : Remains s (startSecond n b s) := by
  simp only [startSecond]
  split
  · exact .refl s
  next bd _ =>
    have raised (m : Notice) : Remains s (if s.outputs[n].releasePending then raise m s else s) :=
      .ite (raise_remains m s) (.refl s)
    have driven (bytes : List Byte) :
        s.outputs[n].Remains ((present s bd b s.outputs[n].release.load).1.drive bytes) :=
      (((release_remains _).trans (load_remains _)).trans (present_remains s bd b _)).trans (drive_remains bytes _)
    refine (raised _).trans (setOutput_remains ?_)
    split <;> exact driven _

theorem outputBoundary_remains (n : Fin 8) (s : State) : Remains s (outputBoundary s n) := by
  have closed := setOutput_remains (closeWindow_remains s.clock.label s.outputs[n])
  exact .ite (.refl s) (.ite (closed.trans (startSecond_remains n true _)) closed)

theorem outputsBoundary_remains (s : State) : Remains s (outputsBoundary s) :=
  .foldl (fun t n => outputBoundary_remains n t) _ s

/-! ### States of the station and recitals -/

theorem entered_remains (st : StationState) (s : State) : Remains s (entered st s) := by
  have dropped := dropContexts_frame s.station.state { s with station := s.station.entered st }
  have purged := purgeForbidden_frame (dropContexts s.station.state { s with station := s.station.entered st })
  exact .after ((Remains.of_frame dropped).trans (.of_frame purged)) rfl rfl

theorem enterState_remains (st : StationState) (s : State) : Remains s (enterState st s) := by
  by_cases same : s.station.state = st
  · rw [enterState_same same]; exact .refl s
  · rw [enterState_other same]
    exact (entered_remains st s).trans (quenchOnState_remains st _)

theorem offerRequest_remains (s : State) : Remains s (offerRequest s) := by
  unfold offerRequest
  split
  · exact .refl s
  · exact (offer_remains _ s).trans (.of_frame (withReceiving_frame _ _))

theorem askRecital_remains (o : RecvOrigin) (k : Nat) (s : State) : Remains s (askRecital o k s) := by
  unfold askRecital
  split
  · exact .refl s
  · exact .after (offerRequest_remains _) rfl rfl

theorem roundFailed_remains (o : RecvOrigin) (s : State) : Remains s (roundFailed o s) := by
  cases o with
  | joining => exact enterState_remains _ s
  | missedEntry => exact .refl s
  | discord => exact .refl s

theorem failAttempt_remains (c : AttemptCause) (s : State) : Remains s (failAttempt c s) := by
  simp only [failAttempt]
  split
  · exact .refl s
  · split
    · exact .after (offerRequest_remains _) rfl rfl
    · exact .after ((raise_remains _ _).trans (roundFailed_remains _ _)) rfl rfl

theorem offerRecitalFrame_remains (s : State) : Remains s (offerRecitalFrame s) := by
  unfold offerRecitalFrame
  split
  · exact .refl s
  · exact .ite ((offer_remains _ s).trans (.of_frame (withSending_frame _ _)))
      ((offer_remains _ s).trans (.of_frame (recitalOfferFailed_frame _)))

/-! ### Entries -/

theorem lapseOvertaken_remains (id : Ident) (s : State) : Remains s (lapseOvertaken id s) :=
  .foldl (fun t w => freeEntry_remains w _ t) _ s

theorem withdrawTarget_remains (a b : Ident) (s : State) : Remains s (withdrawTarget a b s) := by
  unfold withdrawTarget
  split
  · exact .refl s
  · exact .ite (raise_remains _ s) (freeEntry_remains _ _ s)

theorem ratifyClaim_remains (e : Entry) (x : StationSet) (s : State) : Remains s (ratifyClaim e x s) := by
  unfold ratifyClaim
  split
  · exact (Remains.of_frame (setScale_frame _ _ s)).trans (freeExecuted_remains _ _ _)
  · exact (withdrawTarget_remains _ _ s).trans (freeExecuted_remains _ _ _)
  · exact .ite ((Remains.of_frame (modify_frame _ _ s)).trans (raise_remains _ _)) (freeEntry_remains _ _ s)

theorem offerRatify_remains (id : Ident) (x : StationSet) (s : State) : Remains s (offerRatify id x s) :=
  (offer_remains _ s).trans (.of_frame (setMark_frame _ _ _))

theorem ratifyOwn_remains (id : Ident) (s : State) : Remains s (ratifyOwn id s) := by
  unfold ratifyOwn
  split
  · exact .refl s
  next e _ =>
    have claimed := ratifyClaim_remains e e.endorsers s
    exact .ite (.ite claimed (.ite (.ite (claimed.trans (offerRatify_remains _ _ _))
      (claimed.trans (.of_frame (setMark_frame _ _ _)))) claimed))
      (.ite ((Remains.ite (.refl s) (offer_remains _ s)).trans (ratifyClaim_remains _ _ _)) (.refl s))

theorem retestQuorum_remains (s : State) : Remains s (retestQuorum s) :=
  .ite (.foldl (fun t id => ratifyOwn_remains id t) _ s) (.refl s)

theorem reofferRatify_remains (s : State) : Remains s (reofferRatify s) := by
  refine .ite (.foldl (fun t id => ?_) _ s) (.refl s)
  split
  · exact offerRatify_remains _ _ t
  · exact .refl t

theorem reofferPropose_remains (s : State) : Remains s (reofferPropose s) := by
  refine .ite (.foldl (fun t id => ?_) _ s) (.refl s)
  split
  · exact (offer_remains _ t).trans (.of_frame (setMark_frame _ _ _))
  · exact .refl t

theorem expireWindows_remains (s : State) : Remains s (expireWindows s) := by
  refine .foldl (fun t id => ?_) _ s
  unfold expireEntry
  split
  · exact .ite (freeEntry_remains _ _ t) (.refl t)
  · exact .refl t

/-! ### The Apply Unit -/

theorem completeEntry_remains (c : ScaleChange) (e : Entry) (s : State) : Remains s (completeEntry c e s) :=
  (Remains.of_frame (handChange_frame _ _ _ _ s)).trans (freeEntry_remains _ _ _)

theorem enterApplying_remains (id : Ident) (s : State) : Remains s (enterApplying id s) :=
  (Remains.of_frame (modify_frame _ _ s)).trans (lapseOvertaken_remains _ _)

theorem actWhenDue_remains (e : Entry) (n : Nat) (s : State) : Remains s (actWhenDue e n s) := by
  unfold actWhenDue
  split
  · exact .ite (.of_frame (handChange_frame _ _ _ _ s)) (.ite (completeEntry_remains _ _ s) (.refl s))
  · exact .ite (completeEntry_remains _ _ s) (.refl s)
  · exact .ite (completeEntry_remains _ _ s) (.refl s)
  · exact .refl s

theorem applyEntry_remains (id : Ident) (s : State) : Remains s (applyEntry id s) := by
  unfold applyEntry
  split
  · exact .refl s
  · split
    · exact .refl s
    · split
      · exact .refl s
      · exact .ite ((enterApplying_remains _ s).trans (actWhenDue_remains _ _ _)) (.refl s)
      · exact actWhenDue_remains _ _ s

theorem applyPass_remains (s : State) : Remains s (applyPass s) :=
  .ite (.refl s) (((Remains.of_frame (clearChanges_frame s)).trans
    (.foldl (fun t id => applyEntry_remains id t) _ _)).trans (.of_frame (formReport_frame _)))

/-! ### The Station Controller -/

theorem changeSlot_remains (p : Nat) (sl : Slot) (c : PeerCause) (s : State) : Remains s (changeSlot p sl c s) :=
  .ite (.of_frame (setSlot_frame p sl s)) ((Remains.of_frame (setSlot_frame p sl s)).trans (raise_remains _ _))

theorem advanceSilences_remains (s : State) : Remains s (advanceSilences s) :=
  .foldl (fun t p => .ite ((Remains.of_frame (setSlot_frame _ _ t)).trans (changeSlot_remains _ _ _ _)) (.refl t)) _ s

theorem evaluatePlan_remains (s : State) : Remains s (evaluatePlan s) :=
  .ite ((raise_remains _ s).trans (enterState_remains _ _)) (.refl s)

theorem evaluateLabel_remains (s : State) : Remains s (evaluateLabel s) := by
  have armed (t : State) : Remains t (armAdoption t) := .of_frame (armAdoption_frame t)
  exact .ite (.ite (((raise_remains _ s).trans (enterState_remains _ _)).trans (armed _))
    (.ite (armed s) (.refl s))) (.ite (enterState_remains _ s) (.refl s))

theorem evaluateDiscord_remains (s : State) : Remains s (evaluateDiscord s) := by
  have counted (x : Station) : Remains s { s with station := x } := .of_frame (withStation_frame x s)
  unfold evaluateDiscord
  dsimp only
  refine .ite ?_ (counted _)
  split
  · exact (counted _).trans ((askRecital_remains _ _ _).trans (.of_frame (withStation_frame _ _)))
  · exact counted _

theorem advanceListening_remains (s : State) : Remains s (advanceListening s) := by
  have ended (t : State) : Remains t (endListening t) := by
    unfold endListening
    split
    · exact (enterState_remains _ t).trans (askRecital_remains _ _ _)
    · exact enterState_remains _ t
  exact .ite (.after (.ite (ended _) (.refl _)) rfl rfl) (.refl s)

theorem offerBeacon_remains (s : State) : Remains s (offerBeacon s) := .ite (offer_remains _ s) (.refl s)

theorem takeReport_remains (rep : LabelReport) (s : State) : Remains s (takeReport rep s) := by
  have cleared (t : State) : Remains t (clearAdoption t) := .of_frame (withStation_frame _ t)
  have joined (t : State) : Remains t (afterAdoption t) := by
    unfold afterAdoption
    split
    · exact enterState_remains _ t
    · exact .of_frame (withStation_frame _ t)
    · exact .refl t
  unfold takeReport
  split
  · exact ((Remains.foldl (fun t p => changeSlot_remains p _ _ t) _ s).trans (cleared _)).trans (joined _)
  · exact cleared s
  · exact .refl s

theorem beaconWork_remains (s : State) : Remains s (beaconWork s) :=
  (((((advanceSilences_remains s).trans (evaluatePlan_remains _)).trans (evaluateLabel_remains _)).trans
    (evaluateDiscord_remains _)).trans (advanceListening_remains _)).trans (offerBeacon_remains _)

theorem stationWork_remains (rep : LabelReport) (s : State) : Remains s (stationWork rep s) := by
  have counted := ((Remains.of_frame (aged_frame s)).trans (takeReport_remains rep _)).trans
    (.of_frame (advanceAdoption_frame _))
  exact .ite (.refl s) (.ite (counted.trans (beaconWork_remains _)) counted)

/-! ### The boundary -/

theorem reofferRecital_remains (s : State) : Remains s (reofferRecital s) := by
  unfold reofferRecital
  split
  · exact .ite (offerRecitalFrame_remains s) (.refl s)
  · exact .refl s

theorem receiveWork_remains (s : State) : Remains s (receiveWork s) := by
  unfold receiveWork
  split
  · exact .refl s
  · have waited (c : Option RecvCtx) : Remains s { s with receiving := c } := .of_frame (withReceiving_frame c s)
    exact .ite (.ite ((waited _).trans (failAttempt_remains _ _))
      (.ite ((waited _).trans (offerRequest_remains _)) (waited _))) (.refl s)

theorem runStage_remains (rep : LabelReport) (st : Stage) (s : State) : Remains s (runStage rep st s) := by
  cases st with
  | apply => exact applyPass_remains s
  | expiry => exact expireWindows_remains s
  | station => exact stationWork_remains rep s
  | retest => exact retestQuorum_remains s
  | ratifyOffers => exact reofferRatify_remains s
  | proposeOffers => exact reofferPropose_remains s
  | recitalSend => exact reofferRecital_remains s
  | recitalReceive => exact receiveWork_remains s

theorem realignIfAdopted_get (jump : Int) (s : State) (n : Fin 8) :
    (realignIfAdopted (.adopted jump) s).outputs[n] = s.outputs[n].realigned := by
  simp [realignIfAdopted]

theorem realigned_remains (o : Output) : o.Remains o.realigned := by
  unfold Output.realigned
  split
  · exact ⟨id, fun _ => rfl⟩
  · exact .refl o

theorem realignIfAdopted_remains (rep : LabelReport) (s : State) : Remains s (realignIfAdopted rep s) := by
  cases rep with
  | adopted jump => exact ⟨fun _ h => h, fun n => by rw [realignIfAdopted_get]; exact realigned_remains _⟩
  | plain => exact .refl s
  | set jump => exact .refl s
  | blocked => exact .refl s

/-- The windows and the work of the units at a boundary. -/
theorem boundaryWork_remains (ord : BoundaryOrder) (rep : LabelReport) (s : State) :
    Remains s (runStages ord rep (moveWindows rep.jump s)) :=
  (Remains.of_frame (moveWindows_frame _ s)).trans (.foldl (fun t st => runStage_remains rep st t) _ _)

/-- A boundary keeps the notices that it raises with its label. -/
theorem boundary_remains (ord : BoundaryOrder) (s : State) :
    Remains (takeLabel ord.passBeforeTest s).2 (boundary ord s) :=
  ((boundaryWork_remains ord _ _).trans (realignIfAdopted_remains _ _)).trans (outputsBoundary_remains _)

/-- A boundary that adopts a label leaves a realignment pending on every RUNNING output (R163). -/
theorem boundary_adopted_realign {ord : BoundaryOrder} {s t : State} {jump : Int}
    (h : takeLabel ord.passBeforeTest s = (.adopted jump, t)) (n : Fin 8) (running : t.outputs[n].running = true) :
    (boundary ord s).outputs[n].realign = true := by
  have stays := ((boundaryWork_remains ord (.adopted jump) t).outputs n).running running
  simp only [boundary, h]
  refine ((outputsBoundary_remains _).outputs n).realign ?_
  rw [realignIfAdopted_get, Output.realigned, if_pos stays]

end Sys2Proof.Machine
end

section
/-! SUPPORT. A boundary off the beacon times, and adoptions of a label: asked for, blocked and taken (R8, R10, R116). -/

namespace Sys2Proof.Machine

set_option Elab.async false

/-! ### The stages off the beacon times -/

theorem ChangesOnly.beaconTime {ps : List Part} {s t : State} (h : ChangesOnly ps s t)
    (clock : Part.clock ∉ ps := by decide) (plan : Part.plan ∉ ps := by decide) : t.beaconTime = s.beaconTime := by
  rw [State.beaconTime, State.beaconTime, h.clock clock, h.plan plan]

/-- Off the beacon times the receiving context does not wait (R134). -/
theorem receiveWork_offBeat {s : State} (off : s.beaconTime = false) : receiveWork s = s := by
  unfold receiveWork
  split
  · rfl
  · rw [if_neg (by simp [off])]

/-- What the stages but that of the Station Controller touch off the beacon times. -/
abbrev offBeatParts : List Part := [.scales, .table, .line, .sending, .report, .notices]

theorem runStage_offBeat {st : Stage} (other : st ≠ .station) {s : State} (off : s.beaconTime = false)
    (rep : LabelReport) : ChangesOnly offBeatParts s (runStage rep st s) := by
  cases st with
  | station => exact absurd rfl other
  | apply => exact (applyPass_frame s).mono (by decide)
  | expiry => exact (expireWindows_frame s).mono (by decide)
  | retest => exact (retestQuorum_frame s).mono (by decide)
  | ratifyOffers => exact (reofferRatify_frame s).mono (by decide)
  | proposeOffers => exact (reofferPropose_frame s).mono (by decide)
  | recitalSend => exact (reofferRecital_frame s).mono (by decide)
  | recitalReceive =>
    rw [show runStage rep .recitalReceive s = receiveWork s from rfl, receiveWork_offBeat off]
    exact .refl _ s

theorem stagesFrom_offBeat {l : List Stage} (others : Stage.station ∉ l) {s : State} (off : s.beaconTime = false)
    (rep : LabelReport) : ChangesOnly offBeatParts s (stagesFrom rep l s) := by
  induction l generalizing s with
  | nil => exact .refl _ s
  | cons st l ih =>
    have first := runStage_offBeat (List.ne_of_not_mem_cons others).symm off rep
    exact first.trans (ih (List.not_mem_of_not_mem_cons others) (first.beaconTime.trans off))

/-- Off the beacon times the Station Controller takes the report and counts its adoption down (R108, R116). -/
theorem stationWork_offBeat {s : State} (started : s.started) (off : s.beaconTime = false) (rep : LabelReport) :
    stationWork rep s = advanceAdoption (takeReport rep { s with roster := s.roster.map Slot.older }) := by
  have reported : (takeReport rep { s with roster := s.roster.map Slot.older }).beaconTime = false := by
    rw [(takeReport_frame rep _).beaconTime, (aged_frame s).beaconTime, off]
  have counted (t : State) : (advanceAdoption t).beaconTime = t.beaconTime := by
    rw [State.beaconTime, State.beaconTime, (advanceAdoption_asks t).label, (advanceAdoption_frame t).plan]
  simp only [stationWork]
  rw [if_neg started, if_neg (by simp [counted, reported])]

/-- A boundary off the beacon times: the Station Controller's work, on a roster of which the records are older, between
other work that leaves the Base Clock, the station and the roster alone. -/
theorem boundary_offBeat {ord : BoundaryOrder} {s t : State} {rep : LabelReport}
    (taken : takeLabel ord.passBeforeTest s = (rep, t)) (started : t.started) (off : t.beaconTime = false) :
    ∃ u, ChangesOnly (.roster :: offBeatParts) t u ∧ u.roster = t.roster.map Slot.older ∧
      ChangesOnly (.outputs :: offBeatParts) (advanceAdoption (takeReport rep u)) (boundary ord s) := by
  obtain ⟨before, after, none_before, none_after, split⟩ := runStages_split ord rep .station (moveWindows rep.jump t)
  have moved := moveWindows_frame rep.jump t
  have ahead := (moved.mono (by decide)).trans
    (stagesFrom_offBeat none_before (moved.beaconTime.trans off) rep)
  refine ⟨{ stagesFrom rep before (moveWindows rep.jump t) with
    roster := (stagesFrom rep before (moveWindows rep.jump t)).roster.map Slot.older },
    ahead.then (aged_frame _), congrArg (Vector.map Slot.older) ahead.roster, ?_⟩
  generalize stagesFrom rep before (moveWindows rep.jump t) = u at ahead split
  have worked : runStage rep .station u =
      advanceAdoption (takeReport rep { u with roster := u.roster.map Slot.older }) :=
    stationWork_offBeat (by rw [State.started, ahead.station]; exact started) (ahead.beaconTime.trans off) rep
  have quiet : (runStage rep .station u).beaconTime = false := by
    rw [State.beaconTime, (runStage_asks rep .station u).label, (runStage_frame rep .station u).plan]
    exact ahead.beaconTime.trans off
  have behind := (stagesFrom_offBeat none_after quiet rep).mono (qs := .outputs :: offBeatParts) (by decide)
  simp only [boundary, taken, split]
  rw [worked] at behind ⊢
  exact (behind.trans ((realignIfAdopted_frame rep _).mono (by decide))).trans
    ((outputsBoundary_frame _).mono (by decide))

/-! ### The adoption counted down -/

theorem advanceAdoption_counts {s : State} {v k : Nat} (h : s.station.adoption = .counting v (k + 1)) :
    advanceAdoption s = requestIfDue { s with station := { s.station with adoption := .counting v k } } := by
  simp [advanceAdoption, h]

theorem advanceAdoption_stands {s : State} (h : s.station.adoption = .absent) : advanceAdoption s = s := by
  simp [advanceAdoption, h]

section
variable {s : State} {v k : Nat} (h : s.station.adoption = .counting v (k + 1)) (free : s.clock.pendingLabel = none)

include h free in
/-- Counting down to 0 asks the Base Clock for the adoption, and no other number does (R116). -/
theorem advanceAdoption_asked :
    (k ≠ 0 → (advanceAdoption s).station = { s.station with adoption := .counting v k } ∧
      (advanceAdoption s).clock.pendingLabel = none) ∧
    (k = 0 → (advanceAdoption s).station = { s.station with adoption := .requested v } ∧
      (advanceAdoption s).clock.pendingLabel = some { value := v, origin := .adoption }) := by
  rw [advanceAdoption_counts h]
  refine ⟨fun more => ?_, fun zero => ?_⟩
  · rw [requestIfDue_stands (by simp [more])]
    exact ⟨rfl, free⟩
  · subst zero
    rw [requestIfDue_counted rfl]
    exact ⟨rfl, rfl⟩

end

/-- What a command that makes a boundary shares with the boundary, where it raises a notice after it. -/
theorem boundaryMade_cases {s t : State} (h : boundaryMade s t) :
    ∃ (ord : BoundaryOrder) (k : Clock), k.label = s.clock.label ∧ k.pendingLabel = s.clock.pendingLabel ∧
      ChangesOnly [.notices] (boundary ord (s.setClock k)) t ∧ Remains (boundary ord (s.setClock k)) t := by
  obtain ⟨ord, k, label, pending, h⟩ := h
  refine ⟨ord, k, label, pending, ?_⟩
  generalize boundary ord (s.setClock k) = u at h
  obtain rfl | ⟨n, rfl⟩ := h
  · exact ⟨.refl _ t, .refl t⟩
  · exact ⟨raise_frame n u, raise_remains n u⟩

theorem nextLabel_eq {s : State} {k : Clock} (h : k.label = s.clock.label) :
    (s.setClock k).clock.otherwise = nextLabel s := by
  rw [setClock_clock, Clock.otherwise, h]; rfl

/-- Settles O33: the request itself, and a boundary off the beacon times, at which the Station Controller counts down
and nothing else touches the Base Clock or the station. -/
theorem adoptionIsRequestedAtZero : Obligations.AdoptionIsRequestedAtZero := by
  intro s
  refine ⟨fun v h => congrArg Host.Outcome.next (requestIfDue_counted h),
    fun h => congrArg Host.Outcome.next (requestIfDue_stands h), ?_⟩
  intro c v k made started free off counting
  obtain ⟨t, run, made⟩ := exec_makesBoundary made
  obtain ⟨ord, clock, label, pending, raised, -⟩ := boundaryMade_cases made
  have taken := takeLabel_plain (s := s.setClock clock) (pending.trans free) ord.passBeforeTest
  rw [nextLabel_eq label] at taken
  obtain ⟨u, before, -, after⟩ := boundary_offBeat taken started (by
    simpa [State.beaconTime, State.withLabel] using off)
  have station : u.station = s.station := before.station
  have clear : u.clock.pendingLabel = none := by rw [before.clock]; rfl
  have asked := advanceAdoption_asked (by rw [station]; exact counting) clear
  refine ⟨t, run, ?_⟩
  rw [raised.station, raised.clock, after.station, after.clock, ← station]
  exact asked

end Sys2Proof.Machine
end

section
/-! SUPPORT. An adoption tested against the table, and what one that is taken makes of the station and the roster (R10,
R116). -/

namespace Sys2Proof.Machine

set_option Elab.async false

/-! ### The test -/

/-- An entry blocks in either order of the stages where it is APPLYING, or RATIFIED and to be applied by the value. -/
theorem blocks_of {h v o : Nat} {e : Entry}
    (hit : e.state = .applying ∨ (e.state = .ratified ∧ ∃ x, e.turn = some x ∧ x ≤ v + h)) (b : Bool) :
    blocks h v o b e = true := by
  obtain applying | ⟨ratified, x, turn, near⟩ := hit
  · simp [blocks, applying]
  · simp [blocks, ratified, turn, near]

theorem blocks_eq_false {h v o : Nat} {e : Entry} (waiting : e.state ≠ .applying)
    (far : e.state = .ratified → ∀ x, e.turn = some x → v + h < x ∧ o + h < x) (b : Bool) :
    blocks h v o b e = false := by
  by_cases ratified : e.state = .ratified
  · cases turn : e.turn with
    | none => simp [blocks, ratified, turn]
    | some x =>
      obtain ⟨value, other⟩ := far ratified x turn
      simp [blocks, ratified, turn, Nat.not_le.2 value, Nat.not_le.2 other]
  · simp [blocks, waiting, ratified]

theorem idsWhere_eq_nil {s : State} {p : Entry → Bool} (h : ∀ e ∈ s.table.entries, p e = false) :
    s.idsWhere p = [] := by
  simpa [State.idsWhere] using h

theorem idsWhere_ne_nil {s : State} {p : Entry → Bool} {e : Entry} (he : e ∈ s.table.entries) (h : p e = true) :
    s.idsWhere p ≠ [] := by
  simp only [State.idsWhere, ne_eq, List.map_eq_nil_iff, List.filter_eq_nil_iff, not_forall]
  exact ⟨e, he, by simpa using h⟩

/-! ### The roster after an adopted jump -/

theorem setSlot_slot {s : State} {p q : Nat} (hq : q < 16) (sl : Slot) :
    (s.setSlot p sl).slot q = if p = q then sl else s.slot q := by
  simp only [State.slot, State.setSlot, hq, getElem?_pos, Option.getD_some, Vector.getElem_setIfInBounds]

theorem changeSlot_slot {s : State} {p q : Nat} (hq : q < 16) (sl : Slot) (c : PeerCause) :
    (changeSlot p sl c s).slot q = if p = q then sl else s.slot q := by
  rw [← setSlot_slot hq]
  simp only [changeSlot]
  split <;> rfl

theorem jumpFold_slot (jump : Int) {l : List Nat} (nodup : l.Nodup) (s : State) {q : Nat} (hq : q < 16) :
    (l.foldl (fun t p => changeSlot p ((t.slot p).jumped jump) .adoption t) s).slot q =
      if q ∈ l then (s.slot q).jumped jump else s.slot q := by
  induction l generalizing s with
  | nil => simp
  | cons p l ih =>
    obtain ⟨fresh, nodup⟩ := List.nodup_cons.1 nodup
    rw [List.foldl_cons, ih nodup, changeSlot_slot hq]
    by_cases same : p = q
    · subst same; simp [fresh]
    · simp [same, Ne.symm same]

/-- The slots of the roster, each moved by an adopted jump. -/
def jumpSlots (jump : Int) (s : State) : State :=
  (List.range 16).foldl (fun t p => changeSlot p ((t.slot p).jumped jump) .adoption t) s

theorem takeReport_adopted_eq (jump : Int) (s : State) :
    takeReport (.adopted jump) s = afterAdoption (clearAdoption (jumpSlots jump s)) := rfl

theorem clearAdoption_adoption (s : State) : (clearAdoption s).station.adoption = .absent := rfl

theorem clearAdoption_state (s : State) : (clearAdoption s).station.state = s.station.state := rfl

theorem clearAdoption_roster (s : State) : (clearAdoption s).roster = s.roster := rfl

theorem jumpSlots_frame (jump : Int) (s : State) : ChangesOnly [.roster, .notices] s (jumpSlots jump s) :=
  .foldl (fun t p => changeSlot_frame p _ _ t) _ s

theorem jumpSlots_slot (jump : Int) (s : State) {q : Nat} (hq : q < 16) :
    (jumpSlots jump s).slot q = (s.slot q).jumped jump := by
  rw [jumpSlots, jumpFold_slot jump List.nodup_range s hq, if_pos (List.mem_range.2 hq)]

theorem slot_of_roster {s t : State} (h : t.roster = s.roster) (q : Nat) : t.slot q = s.slot q := by
  rw [State.slot, h, State.slot]

theorem older_slot {s t : State} (h : t.roster = s.roster.map Slot.older) {q : Nat} (hq : q < 16) :
    t.slot q = (s.slot q).older := by
  simp [State.slot, h, hq]

theorem older_record (sl : Slot) : sl.older.record = sl.record := by
  unfold Slot.older; split <;> rfl

theorem older_state (sl : Slot) : sl.older.state = sl.state := by
  unfold Slot.older; split <;> rfl

section
variable {sl : Slot} {r : BeaconRecord} (h : sl.record = some r) (jump : Int)
include h

theorem jumped_record : (sl.jumped jump).record = some { r with offset := r.offset - jump } := by
  simp only [Slot.jumped, h]
  split <;> rfl

/-- A slot that the label of its beacon has classed is classed afresh (R116). -/
theorem jumped_state_classed (classed : sl.state = .present ∨ sl.state = .divergent) :
    (sl.jumped jump).state = if r.offset - jump = 0 then .present else .divergent := by
  simp only [Slot.jumped, h, if_pos classed]

theorem jumped_state_other (present : sl.state ≠ .present) (divergent : sl.state ≠ .divergent) :
    (sl.jumped jump).state = sl.state := by
  simp only [Slot.jumped, h]
  rw [if_neg (by simp [present, divergent])]

end

/-! ### The station after an adoption (R116) -/

theorem afterAdoption_adrift {s : State} (h : s.station.state = .adrift) : afterAdoption s = enterState .joining s := by
  simp [afterAdoption, h]

theorem afterAdoption_joining {s : State} (h : s.station.state = .joining) :
    afterAdoption s = { s with station := { s.station with listen := 0 } } := by
  simp [afterAdoption, h]

theorem afterAdoption_other {s : State} (adrift : s.station.state ≠ .adrift) (joining : s.station.state ≠ .joining) :
    afterAdoption s = s := by
  unfold afterAdoption
  split
  next h => exact absurd h adrift
  next h => exact absurd h joining
  next => rfl

theorem afterAdoption_station {s : State} (cleared : s.station.adoption = .absent) :
    (afterAdoption s).station.adoption = .absent ∧
    (afterAdoption s).station.state = (if s.station.state = .adrift then .joining else s.station.state) ∧
    (s.station.state = .adrift ∨ s.station.state = .joining → (afterAdoption s).station.listen = 0) := by
  by_cases adrift : s.station.state = .adrift
  · rw [afterAdoption_adrift adrift, enterState_station (by simp [adrift])]
    simp [Station.entered, cleared, adrift, Adoption.dropped]
  · by_cases joining : s.station.state = .joining
    · rw [afterAdoption_joining joining]
      simp [cleared, joining]
    · rw [afterAdoption_other adrift joining]
      simp [cleared, joining, adrift]

/-- The Station Controller takes the report of an adopted jump: the arrangement is gone, and every slot with a record
has moved by the jump. -/
theorem takeReport_adopted (jump : Int) (s : State) :
    (takeReport (.adopted jump) s).station.adoption = .absent ∧
    (takeReport (.adopted jump) s).station.state =
      (if s.station.state = .adrift then .joining else s.station.state) ∧
    (s.station.state = .adrift ∨ s.station.state = .joining → (takeReport (.adopted jump) s).station.listen = 0) ∧
    ∀ q < 16, (takeReport (.adopted jump) s).slot q = (s.slot q).jumped jump := by
  have jumped := jumpSlots_frame jump s
  obtain ⟨adoption, state, listen⟩ := afterAdoption_station (clearAdoption_adoption (jumpSlots jump s))
  have roster := (afterAdoption_frame (clearAdoption (jumpSlots jump s))).roster
  rw [clearAdoption_state, jumped.station] at state listen
  rw [clearAdoption_roster] at roster
  rw [takeReport_adopted_eq]
  refine ⟨adoption, state, listen, fun q hq => ?_⟩
  rw [slot_of_roster roster, jumpSlots_slot jump s hq]

/-- Settles O25: the table blocks the adoption or lets it through; what the boundary then makes of the label, the
outputs, the station and the roster. -/
theorem adoptionIsTestedAgainstTheTable : Obligations.AdoptionIsTestedAgainstTheTable := by
  intro s c v made small pending
  obtain ⟨t, run, made⟩ := exec_makesBoundary made
  obtain ⟨ord, clock, label, held, raised, remains⟩ := boundaryMade_cases made
  have pending := held.trans pending
  refine ⟨fun ⟨e, he, hit⟩ => ⟨t, run, ?blocked⟩, fun clear => ⟨t, run, ?taken⟩⟩
  case blocked =>
    obtain ⟨id, taken⟩ := takeLabel_blocked (s := s.setClock clock) (b := ord.passBeforeTest) pending
      (idsWhere_ne_nil he (blocks_of hit _))
    have asks := boundary_asks ord (s.setClock clock)
    have stays := boundary_remains ord (s.setClock clock)
    rw [taken] at asks stays
    refine ⟨?_, remains.noticed _ (stays.noticed _ (raise_noticed _ _))⟩
    rw [raised.clock, asks.label]
    exact nextLabel_eq label
  case taken =>
    have taken := takeLabel_adopted (s := s.setClock clock) (b := ord.passBeforeTest) pending
      (idsWhere_eq_nil fun e he => blocks_eq_false (clear e he).1 (fun ratified x turn => by
        obtain ⟨value, other⟩ := (clear e he).2 ratified x turn
        refine ⟨value, Nat.lt_of_le_of_lt (Nat.add_le_add_right ?_ _) other⟩
        rw [nextLabel_eq label]
        exact Nat.mod_le _ _) _)
    rw [nextLabel_eq label, show v % labelSpan = v from Nat.mod_eq_of_lt small] at taken
    have asks := boundary_asks ord (s.setClock clock)
    rw [taken] at asks
    refine ⟨?_, fun n running => ?_, fun started off => ?_⟩
    · rw [raised.clock, asks.label]; rfl
    · exact (remains.outputs n).realign (boundary_adopted_realign taken n running)
    · obtain ⟨u, before, aged, after⟩ := boundary_offBeat taken started (by
        simpa [State.beaconTime, State.withLabel] using off)
      have station : u.station = s.station := before.station
      obtain ⟨adoption, state, listen, slots⟩ := takeReport_adopted ((v : Int) - nextLabel s) u
      rw [advanceAdoption_stands adoption] at after
      rw [station] at state listen
      rw [raised.station, after.station]
      refine ⟨adoption, state, listen, fun p r hr => ?_⟩
      have slot : t.slot p.val = (s.slot p.val).older.jumped ((v : Int) - nextLabel s) := by
        rw [slot_of_roster (raised.roster.trans after.roster), slots p.val p.isLt]
        exact congrArg (Slot.jumped · _) (older_slot (s := s) aged p.isLt)
      rw [slot]
      have hr := (older_record _).trans hr
      have old := older_state (s.slot p.val)
      refine ⟨jumped_record hr _, fun classed => jumped_state_classed hr _ (old ▸ classed), fun hp hd => ?_⟩
      rw [jumped_state_other hr _ (old ▸ hp) (old ▸ hd), old]

end Sys2Proof.Machine
end

section
/-! SUPPORT. What the pass does for one settled entry: an entry that is brought into APPLYING overtakes its withdrawals,
and one that is APPLYING hands its change when its turn has come (R142 to R148, R152). -/

namespace Sys2Proof.Machine

set_option Elab.async false

/-! ### Withdrawals that are overtaken -/

/-- An entry that lapses when the entry under an identifier is brought into APPLYING (R144). -/
abbrev overtakenBy (id : Ident) (x : Entry) : Prop := x.kind = .withdraw ∧ x.state = .proposed ∧ x.target = some id

/-- The identifiers of the entries that lapse. -/
def overtakenIds (id : Ident) (s : State) : List Ident :=
  (s.table.entries.filter fun e => e.kind == .withdraw && e.state == .proposed && e.target == some id).map fun e => e.id

theorem lapseOvertaken_eq (id : Ident) (s : State) :
    lapseOvertaken id s = (overtakenIds id s).foldl (fun t w => freeEntry w (.lapsed w true) t) s := rfl

theorem mem_overtakenIds {id x : Ident} {s : State} :
    x ∈ overtakenIds id s ↔ ∃ y ∈ s.table.entries, overtakenBy id y ∧ y.id = x := by
  simp [overtakenIds, and_assoc]

theorem find_lapseFold (l : List Ident) (s : State) (x : Ident) :
    (l.foldl (fun t w => freeEntry w (.lapsed w true) t) s).find x = if x ∈ l then none else s.find x := by
  induction l generalizing s with
  | nil => simp
  | cons w l ih =>
    rw [List.foldl_cons, ih, find_freeEntry]
    by_cases same : x = w <;> simp [same]

theorem freeEntry_noticed (id : Ident) (n : Notice) (s : State) : noticed (freeEntry id n s) n.kind :=
  raise_noticed n (s.setEntries _)

theorem lapseFold_noticed {l : List Ident} (nonempty : l ≠ []) (s : State) :
    noticed (l.foldl (fun t w => freeEntry w (.lapsed w true) t) s) .lapsed := by
  cases l with
  | nil => exact absurd rfl nonempty
  | cons w l =>
    exact (Remains.foldl (fun t w => freeEntry_remains w _ t) l _).noticed _ (freeEntry_noticed w (.lapsed w true) s)

theorem mem_modify {s : State} {id : Ident} {f : Entry → Entry} {y : Entry} :
    y ∈ (s.modify id f).table.entries ↔ ∃ z ∈ s.table.entries, (if z.id = id then f z else z) = y := List.mem_map

section
variable {s : State} {id : Ident}

/-- An entry that is being brought into APPLYING does not overtake itself. -/
theorem mem_overtakenIds_applying {x : Ident} :
    x ∈ overtakenIds id (s.modify id fun y => { y with state := .applying }) ↔
      x ≠ id ∧ ∃ y ∈ s.table.entries, overtakenBy id y ∧ y.id = x := by
  simp only [mem_overtakenIds, mem_modify]
  constructor
  · rintro ⟨_, ⟨z, hz, rfl⟩, hit, rfl⟩
    by_cases own : z.id = id
    · rw [if_pos own] at hit; exact absurd hit.2.1 (by simp)
    · rw [if_neg own] at hit ⊢; exact ⟨own, z, hz, hit, rfl⟩
  · rintro ⟨other, z, hz, hit, rfl⟩
    exact ⟨z, ⟨z, hz, if_neg other⟩, hit, rfl⟩

theorem find_enterApplying (x : Ident) :
    (enterApplying id s).find x =
      if x ∈ overtakenIds id (s.modify id fun y => { y with state := .applying }) then none
      else if x = id then (s.find x).map fun y => { y with state := .applying } else s.find x := by
  rw [enterApplying, lapseOvertaken_eq, find_lapseFold,
    find_modify s id (fun y => { y with state := .applying }) (by simp)]

theorem enterApplying_own {e : Entry} (h : s.find id = some e) :
    (enterApplying id s).find id = some { e with state := .applying } := by
  rw [find_enterApplying, if_neg (by simp [mem_overtakenIds_applying]), if_pos rfl, h]
  rfl

theorem enterApplying_overtaken {x : Entry} (hx : x ∈ s.table.entries) (other : x.id ≠ id) (hit : overtakenBy id x) :
    (enterApplying id s).find x.id = none ∧ noticed (enterApplying id s) .lapsed := by
  have lapses := mem_overtakenIds_applying.2 ⟨other, x, hx, hit, rfl⟩
  exact ⟨by rw [find_enterApplying, if_pos lapses], lapseFold_noticed (List.ne_nil_of_mem lapses) _⟩

theorem enterApplying_other {x : Ident} (other : x ≠ id)
    (clear : ∀ y ∈ s.table.entries, y.id = x → ¬ overtakenBy id y) :
    (enterApplying id s).find x = s.find x := by
  rw [find_enterApplying, if_neg, if_neg other]
  rintro h
  obtain ⟨-, y, hy, hit, rfl⟩ := mem_overtakenIds_applying.1 h
  exact clear y hy rfl hit

end

/-! ### A change handed to the registry -/

theorem setScale_scale {s : State} {k : Nat} (lo : 1 ≤ k) (hi : k ≤ 5) (sc : Scale) :
    (s.setScale k sc).scale k = sc := by
  simp [State.scale, State.setScale, lo, hi]

theorem scale_of_scales {s t : State} (h : t.scales = s.scales) (k : Nat) : t.scale k = s.scale k := by
  simp only [State.scale, h]

theorem setChange_change (s : State) (cr : ChangeRecord) {x i : Nat} (hi : i < 5) :
    (s.setChange x cr).report.change[i]? = if x = i + 1 then some (some cr) else s.report.change[i]? := by
  cases x with
  | zero => simp [State.setChange]
  | succ x => simp [State.setChange, hi, Vector.getElem_setIfInBounds]; split <;> rfl

theorem setChangeFold_change (cr : ChangeRecord) (l : List Nat) (s : State) {i : Nat} (hi : i < 5) :
    (l.foldl (fun t x => t.setChange x cr) s).report.change[i]? =
      if i + 1 ∈ l then some (some cr) else s.report.change[i]? := by
  induction l generalizing s with
  | nil => simp
  | cons x l ih =>
    rw [List.foldl_cons, ih, setChange_change s cr hi]
    by_cases later : i + 1 ∈ l
    · simp [later]
    · simp [later, eq_comm]

/-- The change record that the scales touched by a change show (R152). -/
def tells (s t : State) (k : Nat) (id : Ident) (c : ScaleChange) (taken : Bool) : Prop :=
  ∀ x, 1 ≤ x → x ≤ 5 → x = k ∨ (c ≠ .offsetTo ∧ s.family x = some k) →
    t.report.change[x - 1]? = some (some { change := c, id := id, taken := taken })

theorem mem_touchedScales {s : State} {c : ScaleChange} {k x : Nat} (lo : 1 ≤ x) (hi : x ≤ 5)
    (h : x = k ∨ (c ≠ .offsetTo ∧ s.family x = some k)) : x ∈ touchedScales s c k := by
  have number : x ∈ scaleNumbers := by simp [scaleNumbers]; omega
  cases c with
  | offsetTo => simpa [touchedScales] using h
  | insertBegin => simpa [touchedScales, number] using h
  | insertEnd => simpa [touchedScales, number] using h
  | lagDown => simpa [touchedScales, number] using h

section
variable {s : State} {k : Nat} {c : ScaleChange} {v : Int} {sc : Scale} {taken : Bool} {id : Ident}

theorem handChange_tells (change : (s.scale k).change c v = (sc, taken)) :
    tells s (handChange c k v id s) k id c taken := by
  intro x lo hi touched
  rw [handChange, setChangeFold_change _ _ _ (by omega), if_pos (by
    rw [Nat.sub_add_cancel lo]; exact mem_touchedScales lo hi touched), changeTaken, change]

theorem setChangeFold_scale (cr : ChangeRecord) (l : List Nat) (s : State) (k : Nat) :
    (l.foldl (fun t x => t.setChange x cr) s).scale k = s.scale k :=
  scale_of_scales (ChangesOnly.foldl (ps := [.report]) (fun t x => setChange_frame x cr t) l s).scales k

theorem handChange_scale (lo : 1 ≤ k) (hi : k ≤ 5) (change : (s.scale k).change c v = (sc, taken)) :
    (handChange c k v id s).scale k = sc := by
  rw [handChange, setChangeFold_scale, change, setScale_scale lo hi]

theorem handChange_spec (lo : 1 ≤ k) (hi : k ≤ 5) (change : (s.scale k).change c v = (sc, taken)) :
    (handChange c k v id s).scale k = sc ∧ (handChange c k v id s).table = s.table ∧
      tells s (handChange c k v id s) k id c taken :=
  ⟨handChange_scale lo hi change, (handChange_frame c k v id s).table, handChange_tells change⟩

theorem freeEntry_raised (n : Notice) (s : State) : raised n s (freeEntry id n s) := rfl

variable {e : Entry}

/-- The change that completes an entry, and the entry freed with LIMIT where the registry refused it (R148). -/
theorem completeEntry_spec (lo : 1 ≤ k) (hi : k ≤ 5) (scale : e.scale = some k) (value : e.value.getD 0 = v)
    (change : (s.scale k).change c v = (sc, taken)) :
    (completeEntry c e s).scale k = sc ∧
      ((completeEntry c e s).find e.id = none ∧
        raised (.applied e.id e.kind e.scale !taken) s (completeEntry c e s)) ∧
      tells s (completeEntry c e s) k e.id c taken := by
  have eq : completeEntry c e s = freeEntry e.id (.applied e.id e.kind e.scale !taken) (handChange c k v e.id s) := by
    simp only [completeEntry, scale, value, Option.getD_some, changeTaken, change]
  have handed := handChange_frame c k v e.id s
  have freed := freeEntry_frame e.id (.applied e.id e.kind e.scale !taken) (handChange c k v e.id s)
  rw [eq]
  refine ⟨?_, ⟨?_, ?_⟩, ?_⟩
  · rw [scale_of_scales freed.scales, handChange_scale lo hi change]
  · rw [find_freeEntry, if_pos rfl]
  · rw [raised, freeEntry_raised, handed.notices, handed.clock]
  · intro x low high touched
    rw [freed.report, handChange_tells change x low high touched]

end

/-! ### The registry's answers (R18) -/

section
variable {sc : Scale} (v : Int)

theorem change_insertBegin_taken (civil : sc.kind = .civil) (below : sc.value < 255) :
    sc.change .insertBegin v = ({ sc with inserted := true }, true) := by
  simp [Scale.change, civil, Int.not_le.2 below]

theorem change_insertBegin_refused (civil : sc.kind = .civil) (limit : 255 ≤ sc.value) :
    sc.change .insertBegin v = ({ sc with insertRefused := true }, false) := by
  simp [Scale.change, civil, limit]

theorem change_insertEnd_taken (civil : sc.kind = .civil) (begun : sc.insertRefused = false) (below : sc.value < 255) :
    sc.change .insertEnd v = ({ sc with inserted := false, value := sc.value + 1 }, true) := by
  simp [Scale.change, civil, begun, Int.not_le.2 below]

theorem change_insertEnd_refused (civil : sc.kind = .civil) (refused : sc.insertRefused = true) :
    sc.change .insertEnd v = ({ sc with inserted := false, insertRefused := false }, false) := by
  simp [Scale.change, civil, refused]

theorem change_lagDown_taken (civil : sc.kind = .civil) (above : -255 < sc.value) :
    sc.change .lagDown v = ({ sc with value := sc.value - 1 }, true) := by
  simp [Scale.change, civil, Int.not_le.2 above]

theorem change_lagDown_refused (civil : sc.kind = .civil) (limit : sc.value ≤ -255) :
    sc.change .lagDown v = (sc, false) := by
  simp [Scale.change, civil, limit]

theorem change_offsetTo_taken (localScale : sc.kind = .localScale) :
    sc.change .offsetTo v = ({ sc with value := v }, true) := by
  simp [Scale.change, localScale]

theorem change_undefined (undefined : sc.kind = .undefined) (c : ScaleChange) : sc.change c v = (sc, false) := by
  cases c <;> simp [Scale.change, undefined]

end

/-! ### The action due for an entry -/

section
variable {s : State} {e : Entry} {turn : Nat}

/-- No change is handed before the turn. -/
theorem actWhenDue_early (early : s.clock.label < turn) : actWhenDue e turn s = s := by
  unfold actWhenDue
  split
  · rw [if_neg (by omega), if_neg (by omega)]
  · rw [if_neg (by omega)]
  · rw [if_neg (by omega)]
  · rfl

theorem actWhenDue_leapAdd_begin (kind : e.kind = .leapAdd) (due : s.clock.label = turn) :
    actWhenDue e turn s = handChange .insertBegin (e.scale.getD 0) 0 e.id s := by
  simp [actWhenDue, kind, due]

theorem actWhenDue_leapAdd_end (kind : e.kind = .leapAdd) (due : turn + 1 ≤ s.clock.label) :
    actWhenDue e turn s = completeEntry .insertEnd e s := by
  simp only [actWhenDue, kind]
  rw [if_neg (by omega), if_pos due]

theorem actWhenDue_leapDrop (kind : e.kind = .leapDrop) (due : turn ≤ s.clock.label) :
    actWhenDue e turn s = completeEntry .lagDown e s := by
  simp [actWhenDue, kind, due]

theorem actWhenDue_offsetSet (kind : e.kind = .offsetSet) (due : turn ≤ s.clock.label) :
    actWhenDue e turn s = completeEntry .offsetTo e s := by
  simp [actWhenDue, kind, due]

/-- An entry of a kind that is scheduled is completed once its turn is past, by one of the changes. -/
theorem actWhenDue_past (scheduled : e.kind.scheduled = true) (past : turn + 1 ≤ s.clock.label) :
    ∃ c, actWhenDue e turn s = completeEntry c e s := by
  cases kind : e.kind with
  | leapAdd => exact ⟨_, actWhenDue_leapAdd_end kind past⟩
  | leapDrop => exact ⟨_, actWhenDue_leapDrop kind (by omega)⟩
  | offsetSet => exact ⟨_, actWhenDue_offsetSet kind (by omega)⟩
  | custody => simp [kind, Kind.scheduled] at scheduled
  | withdraw => simp [kind, Kind.scheduled] at scheduled

variable (found : s.find e.id = some e) (turns : e.turn = some turn)
include found turns

theorem applyEntry_waits (ratified : e.state = .ratified) (far : s.clock.label + s.plan.h < turn) :
    applyEntry e.id s = s := by
  simp only [applyEntry, found, turns, ratified]
  rw [if_neg (by omega)]

theorem applyEntry_enters (ratified : e.state = .ratified) (near : turn ≤ s.clock.label + s.plan.h) :
    applyEntry e.id s = actWhenDue e turn (enterApplying e.id s) := by
  simp only [applyEntry, found, turns, ratified]
  rw [if_pos near]

theorem applyEntry_acts (applying : e.state = .applying) : applyEntry e.id s = actWhenDue e turn s := by
  simp only [applyEntry, found, turns, applying]

end

/-- Settles O28: the horizon and the turn of a RATIFIED entry, and the change of an APPLYING one by its kind and by the
registry's answer. -/
theorem transitionsActAtTheirTurns : Obligations.TransitionsActAtTheirTurns := by
  intro s e turn k found turns scale lo hi t told freed
  refine ⟨fun ratified far => applyEntry_waits found turns ratified far, fun ratified early near => ?enters,
    fun applying kind civil => ?add, fun applying kind civil => ?drop, fun v applying kind value loc => ?offset,
    fun applying past scheduled undefined => ?undefined⟩
  case enters =>
    have eq : t = enterApplying e.id s :=
      (applyEntry_enters found turns ratified near).trans
        (actWhenDue_early (by rw [(enterApplying_frame e.id s).clock]; exact early))
    rw [eq]
    exact ⟨enterApplying_own found, fun x hx other hit => enterApplying_overtaken hx other hit,
      fun id other clear => enterApplying_other other clear, enterApplying_frame e.id s⟩
  all_goals
    have acts : t = actWhenDue e turn s := applyEntry_acts found turns applying
    have completed {c : ScaleChange} {v : Int} {sc : Scale} {taken : Bool} (done : t = completeEntry c e s)
        (value : e.value.getD 0 = v) (change : (s.scale k).change c v = (sc, taken)) :
        t.scale k = sc ∧ freed !taken ∧ told c taken := by
      have spec := completeEntry_spec lo hi scale value change
      rw [← done] at spec
      exact spec
  case add =>
    have begun {sc : Scale} {taken : Bool} (due : s.clock.label = turn)
        (change : (s.scale k).change .insertBegin 0 = (sc, taken)) :
        t.scale k = sc ∧ t.table = s.table ∧ told .insertBegin taken := by
      have spec := handChange_spec (id := e.id) lo hi change
      rw [← show t = handChange .insertBegin k 0 e.id s by
        rw [acts, actWhenDue_leapAdd_begin kind due, scale, Option.getD_some]] at spec
      exact spec
    have ended (past : turn + 1 ≤ s.clock.label) : t = completeEntry .insertEnd e s :=
      acts.trans (actWhenDue_leapAdd_end kind past)
    exact ⟨fun early => acts.trans (actWhenDue_early early),
      fun due below => begun due (change_insertBegin_taken 0 civil below),
      fun due limit => begun due (change_insertBegin_refused 0 civil limit),
      fun past fresh below => completed (ended past) rfl (change_insertEnd_taken _ civil fresh below),
      fun past refused => completed (ended past) rfl (change_insertEnd_refused _ civil refused)⟩
  case drop =>
    have dropped (due : turn ≤ s.clock.label) : t = completeEntry .lagDown e s :=
      acts.trans (actWhenDue_leapDrop kind due)
    exact ⟨fun early => acts.trans (actWhenDue_early early),
      fun due above => completed (dropped due) rfl (change_lagDown_taken _ civil above),
      fun due limit => completed (dropped due) rfl (change_lagDown_refused _ civil limit)⟩
  case offset =>
    exact ⟨fun early => acts.trans (actWhenDue_early early), fun due =>
      completed (acts.trans (actWhenDue_offsetSet kind due)) (by rw [value]; rfl) (change_offsetTo_taken v loc)⟩
  case undefined =>
    obtain ⟨c, completes⟩ := actWhenDue_past (s := s) scheduled past
    obtain ⟨kept, gone, -⟩ := completed (acts.trans completes) rfl (change_undefined _ undefined c)
    exact ⟨kept, gone⟩

end Sys2Proof.Machine
end

section
/-! SUPPORT. A SCALE_STATE frame that comes in order: its delivery, its adoption as a whole, and the attempt that fails
where the registry does not adopt it (R20, R132, R133, R138). -/

namespace Sys2Proof.Machine

set_option Elab.async false

/-! ### States entered without a quench, and with no recital to receive -/

section
variable {st : StationState} {s : State}

theorem entered_outputs : (entered st s).outputs = s.outputs := by
  rw [entered, (purgeForbidden_frame _).outputs, (dropContexts_frame _ _).outputs]

theorem enterState_outputs (adrift : st ≠ .adrift) (isolated : st ≠ .isolated) :
    (enterState st s).outputs = s.outputs := by
  by_cases same : s.station.state = st
  · rw [enterState_same same]
  · rw [enterState_other same, quenchOnState_same adrift isolated, entered_outputs]

theorem setRequest_receiving_none (h : s.receiving = none) (serial : Nat) (req : ReqState) :
    (setRequest serial req s).receiving = none := by
  simp [setRequest, h]

theorem reportPurged_receiving_none (h : s.receiving = none) (f : Frame) : (reportPurged s f).receiving = none := by
  have abandoned : (if ofSending f.serial s then abandonRecital s else s).receiving = none := by
    split <;> exact h
  unfold reportPurged
  split
  · exact h
  · exact h
  · exact setRequest_receiving_none h _ _
  · exact abandoned
  · exact abandoned
  · exact h

theorem purgeForbidden_receiving_none (h : s.receiving = none) : (purgeForbidden s).receiving = none := by
  unfold purgeForbidden
  dsimp only
  generalize (s.line.queue.filter fun f => !kindPermitted s.station.state f.kind && !f.inTx) = gone
  have fold (l : List Frame) : ∀ t : State, t.receiving = none → (l.foldl reportPurged t).receiving = none := by
    induction l with
    | nil => exact fun _ ht => ht
    | cons f l ih => exact fun t ht => ih _ (reportPurged_receiving_none ht f)
  exact fold gone _ h

theorem dropContexts_receiving_none (h : s.receiving = none) (old : StationState) :
    (dropContexts old s).receiving = none := by
  cases old <;> simp [dropContexts, h]

theorem enterState_receiving_none (h : s.receiving = none) : (enterState st s).receiving = none := by
  by_cases same : s.station.state = st
  · rw [enterState_same same, h]
  · have changed : State.receiving { s with station := s.station.entered st } = none := h
    rw [enterState_other same, (quenchOnState_frame _ _).receiving, entered]
    exact purgeForbidden_receiving_none (dropContexts_receiving_none changed _)

/-! ### An attempt that fails (R133) -/

theorem offerRequest_receiving {c : RecvCtx} (h : s.receiving = some c) :
    ∃ req, (offerRequest s).receiving = some { c with req := req } := by
  simp only [offerRequest, h]
  exact ⟨_, rfl⟩

theorem roundFailed_outputs (o : RecvOrigin) : (roundFailed o s).outputs = s.outputs := by
  cases o with
  | joining => exact enterState_outputs (by decide) (by decide)
  | missedEntry => rfl
  | discord => rfl

theorem roundFailed_receiving_none (h : s.receiving = none) (o : RecvOrigin) : (roundFailed o s).receiving = none := by
  cases o with
  | joining => exact enterState_receiving_none h
  | missedEntry => exact h
  | discord => exact h

/-- An attempt that fails is recorded and another peer asked, or the round has failed. -/
theorem failAttempt_cases {c : RecvCtx} (h : s.receiving = some c) (cause : AttemptCause) :
    (∃ d : RecvCtx, d.attempts = c.attempts ++ [(c.source.getD c.target, cause)] ∧
      failAttempt cause s = offerRequest { s with serial := s.serial + 1, receiving := some d }) ∨
    (∃ n : Notice, n.kind = .recitalFailed ∧
      failAttempt cause s = roundFailed c.origin (raise n { s with receiving := none })) := by
  simp only [failAttempt, h]
  split
  · exact .inl ⟨_, rfl, rfl⟩
  · exact .inr ⟨_, rfl, rfl⟩

theorem failAttempt_spec {c : RecvCtx} (h : s.receiving = some c) (cause : AttemptCause) :
    (failAttempt cause s).outputs = s.outputs ∧
    (∀ d, (failAttempt cause s).receiving = some d →
      d.attempts = c.attempts ++ [(c.source.getD c.target, cause)]) ∧
    ((failAttempt cause s).receiving = none → noticed (failAttempt cause s) .recitalFailed) := by
  obtain ⟨d, attempts, eq⟩ | ⟨n, kind, eq⟩ := failAttempt_cases h cause
  · obtain ⟨req, asked⟩ := offerRequest_receiving (s := { s with serial := s.serial + 1, receiving := some d }) rfl
    rw [eq, asked]
    refine ⟨(offerRequest_frame _).outputs, fun x hx => ?_, fun hx => absurd hx (by simp)⟩
    obtain rfl := Option.some.inj hx
    exact attempts
  · have gone := roundFailed_receiving_none (s := raise n { s with receiving := none }) rfl c.origin
    rw [eq]
    refine ⟨roundFailed_outputs _, fun x hx => ?_, fun _ => ?_⟩
    · rw [gone] at hx; exact absurd hx (by simp)
    · exact (roundFailed_remains c.origin _).noticed _ (kind ▸ raise_noticed n _)

/-! ### A recital that is complete (R138) -/

theorem recitalDone_eq {c : RecvCtx} (h : s.receiving = some c) (source : Nat) :
    recitalDone source s =
      if c.origin = .joining then
        enterState s.attState (raise (.recitalDone source c.origin c.tallies) { s with receiving := none })
      else raise (.recitalDone source c.origin c.tallies) { s with receiving := none } := by
  simp only [recitalDone, h]
  cases c.origin <;> rfl

theorem attState_quiet : s.attState ≠ .adrift ∧ s.attState ≠ .isolated := by
  unfold State.attState
  split <;> decide

theorem recitalDone_spec {c : RecvCtx} (h : s.receiving = some c) (source : Nat) :
    (recitalDone source s).outputs = s.outputs ∧ (recitalDone source s).receiving = none ∧
    noticed (recitalDone source s) .recitalDone ∧
    (c.origin = .joining → (recitalDone source s).station.state = s.attState) ∧
    (c.origin ≠ .joining → (recitalDone source s).station = s.station) := by
  have raised := raise_noticed (.recitalDone source c.origin c.tallies) { s with receiving := none }
  rw [recitalDone_eq h]
  by_cases joining : c.origin = .joining
  · rw [if_pos joining]
    exact ⟨enterState_outputs attState_quiet.1 attState_quiet.2, enterState_receiving_none rfl,
      (enterState_remains _ _).noticed _ raised, fun _ => enterState_state _ _, fun no => absurd joining no⟩
  · rw [if_neg joining]
    exact ⟨rfl, rfl, raised, fun yes => absurd yes joining, fun _ => rfl⟩

end

/-! ### The adoption of a scale state (R20) -/

theorem carriedOk_iff {n : Nat} {sc : Scale} {v : Int} {c : Option Nat} :
    carriedOk n sc v c = true ↔
      sc.kind = .undefined ∨
        ((sc.kind = .civil → -255 ≤ v ∧ v ≤ 255) ∧ (sc.kind = .localScale → -86400 ≤ v ∧ v ≤ 86400) ∧
          ∀ k, c = some k → k < n) := by
  unfold carriedOk
  cases sc.kind <;> simp [Option.all_eq_true]

theorem adoptable_iff {s : State} {label : Nat} {body : List Byte} :
    adoptable s label body = true ↔
      label = s.clock.label ∧
        ∀ i : Fin 5, carriedOk s.plan.n s.scales[i] (carriedValue body i.val) (carriedCustodian body i.val) = true := by
  simp [adoptable]

theorem adoptedScales_get (scales : Vector Scale 5) (body : List Byte) (i : Fin 5) :
    (adoptedScales scales body)[i] = scales[i].adopt (carriedValue body i.val) (carriedCustodian body i.val) := by
  match i with
  | 0 => rfl
  | 1 => rfl
  | 2 => rfl
  | 3 => rfl
  | 4 => rfl

theorem adopt_eq (sc : Scale) (v : Int) (c : Option Nat) :
    sc.adopt v c = if sc.kind = .undefined then sc else { sc with value := v, custodian := c } := by
  unfold Scale.adopt
  cases sc.kind <;> rfl

theorem count_of_scales {s t : State} (clock : t.clock = s.clock) (scales : t.scales = s.scales) (k : Nat) :
    t.count k = s.count k := by
  simp only [State.count, clock, scale_of_scales scales]

/-- A RUNNING output is realigned by a change of the count of its scale (R163). -/
theorem countMoved_realign {o : Output} {b : Binding} (bound : o.binding = some b) (running : o.running = true)
    (d : Nat → Int) : (o.countMoved d).realign = (o.realign || decide (d b.scale ≠ 0)) := by
  by_cases moved : d b.scale = 0
  · simp [Output.countMoved, bound, moved]
  · simp [Output.countMoved, bound, running, moved]

theorem adoptScales_scales (body : List Byte) (s : State) :
    (adoptScales body s).scales = adoptedScales s.scales body := rfl

theorem adoptScales_output (body : List Byte) (s : State) (n : Fin 8) :
    (adoptScales body s).outputs[n] =
      s.outputs[n].countMoved fun k => (adoptScales body s).count k - s.count k := by
  have count (k : Nat) : State.count { s with scales := adoptedScales s.scales body } k =
      (adoptScales body s).count k :=
    (count_of_scales rfl rfl k).symm
  simp only [← count]
  simp [adoptScales]

/-! ### The delivery of a frame (R67, R68, R111) -/

section
variable {s : State} {sender : BitVec 4}

theorem senderFault_eq_none (own : sender.toNat ≠ s.pins.stn) (inRange : sender.toNat < s.plan.n) :
    senderFault s sender.toNat = none := by
  simp [senderFault, own, Nat.not_le.2 inRange]

theorem typedFault_eq_none {k : FrameKind} {body : List Byte} (own : sender.toNat ≠ s.pins.stn)
    (inRange : sender.toNat < s.plan.n) (short : body.length ≤ 28) (permitted : lengthPermitted k body = true) :
    typedFault s k sender.toNat body = none := by
  simp [typedFault, Nat.not_lt.2 short, senderFault_eq_none own inRange, permitted]

theorem receiveTyped_audible {k : FrameKind} {body : List Byte} (h : audible s k sender body)
    (short : body.length ≤ 28) (permitted : lengthPermitted k body = true) (w : VerdictTime) :
    receiveTyped w k sender.toNat body s = deliver w k sender.toNat body (afterReport s sender) := by
  obtain ⟨heard, own, inRange⟩ := h
  rw [receiveTyped, if_pos heard, typedFault_eq_none own inRange short permitted]
  rfl

theorem afterReport_frame : ChangesOnly [.line, .roster, .notices] s (afterReport s sender) :=
  (setLine_frame _ s).then (reportSender_frame _ _)

/-- The report of a sender leaves its slot as little in disagreement as it was. -/
theorem afterReport_agreeing (divergent : (s.slot sender.toNat).state ≠ .divergent)
    (mismatched : (s.slot sender.toNat).state ≠ .mismatched) :
    (afterReport s sender).disagreeing sender.toNat = false := by
  have same : (s.setLine (s.line.toIdle 0)).slot sender.toNat = s.slot sender.toNat := slot_of_roster rfl _
  simp only [State.disagreeing, afterReport, reportSender]
  split
  · rw [changeSlot_slot sender.isLt, if_pos rfl]
    rfl
  · rw [same]
    simp [divergent, mismatched]

variable {body : List Byte} {c : RecvCtx}

theorem takeInOrder_scaleState {kind : FrameKind} (isState : kind = .scaleState) {total src : Nat}
    (last : field body 0 1 = total) (agrees : field body 1 1 = total) :
    takeInOrder kind src body c total s =
      handScales src (field body 2 5) body
        { s with receiving := some { c with wait := 0, expected := c.expected + 1 } } := by
  subst isState
  simp [takeInOrder, recitalContent, last, agrees]

theorem takeRecitalFrame_next {kind : FrameKind} {src : Nat} (held : s.receiving = some c)
    (agreeing : s.disagreeing src = false) (source : c.source = some src) (index : field body 0 1 = c.expected)
    {total : Nat} (declared : c.total = some total) :
    takeRecitalFrame kind src body s = takeInOrder kind src body c total s := by
  simp [takeRecitalFrame, held, agreeing, source, index, declared]

theorem takeRecitalFrame_first {kind : FrameKind} {src total : Nat} (held : s.receiving = some c)
    (agreeing : s.disagreeing src = false) (source : c.source = none) (index : field body 0 1 = 1)
    (declared : field body 1 1 = total) :
    takeRecitalFrame kind src body s =
      takeInOrder kind src body { c with source := some src, total := some total } total
        { s with receiving := some { c with source := some src, total := some total } } := by
  simp [takeRecitalFrame, held, agreeing, source, index, declared]

/-- A SCALE_STATE in order, from the source of the attempt or as the first frame of one, is handed to the registry. -/
theorem scaleState_handed (heard : audible s .scaleState sender body) (length : body.length = 27)
    (receiving : s.receiving = some c) (divergent : (s.slot sender.toNat).state ≠ .divergent)
    (mismatched : (s.slot sender.toNat).state ≠ .mismatched)
    (order : (c.source = some sender.toNat ∧ field body 0 1 = c.expected ∧ c.total = some c.expected ∧
        field body 1 1 = c.expected) ∨ (c.source = none ∧ field body 0 1 = 1 ∧ field body 1 1 = 1)) :
    ∃ d : RecvCtx, d.source = some sender.toNat ∧ d.attempts = c.attempts ∧ d.origin = c.origin ∧
      exec (.scaleState sender body) s =
        .next (handScales sender.toNat (field body 2 5) body { afterReport s sender with receiving := some d }) := by
  have run : exec (.scaleState sender body) s =
      .next (takeRecitalFrame .scaleState sender.toNat body (afterReport s sender)) :=
    congrArg Host.Outcome.next (receiveTyped_audible heard (by omega) (by simp [lengthPermitted, length]) _)
  have held : (afterReport s sender).receiving = some c := afterReport_frame.receiving.trans receiving
  have agreeing := afterReport_agreeing divergent mismatched
  rw [run]
  obtain ⟨source, index, total, declared⟩ | ⟨source, index, declared⟩ := order
  · refine ⟨{ c with wait := 0, expected := c.expected + 1 }, source, rfl, rfl, congrArg _ ?_⟩
    rw [takeRecitalFrame_next held agreeing source index total, takeInOrder_scaleState rfl index declared]
  · refine ⟨{ c with source := some sender.toNat, total := some 1, wait := 0, expected := c.expected + 1 }, rfl, rfl,
      rfl, congrArg _ ?_⟩
    rw [takeRecitalFrame_first held agreeing source index declared, takeInOrder_scaleState rfl index declared]

end

/-- Settles O49: the registry adopts the whole frame or nothing of it. -/
theorem scaleStateIsAdoptedWhole : Obligations.ScaleStateIsAdoptedWhole := by
  intro s sender body c heard length receiving divergent mismatched order value custodian fits
  obtain ⟨d, source, attempts, origin, run⟩ := scaleState_handed heard length receiving divergent mismatched order
  have reported : ChangesOnly [.line, .roster, .receiving, .notices] s
      { afterReport s sender with receiving := some d } := afterReport_frame.then (withReceiving_frame _ _)
  have held : State.receiving { afterReport s sender with receiving := some d } = some d := rfl
  generalize State.mk .. = u at run reported held
  have adopts : adoptable u (field body 2 5) body = true ↔ field body 2 5 = s.clock.label ∧ ∀ i, fits i := by
    rw [adoptable_iff, reported.clock, reported.plan, reported.scales]
    exact and_congr_right fun _ => forall_congr' fun _ => carriedOk_iff
  refine ⟨fun label fit => ⟨_, run, ?adopted⟩, fun unfit => ⟨_, run, ?refused⟩⟩
  case refused =>
    obtain ⟨outputs, recorded, failed⟩ := failAttempt_spec held .overtaken
    rw [handScales, if_neg (by rw [adopts]; tauto)]
    refine ⟨(failAttempt_frame _ u).scales.trans reported.scales, outputs.trans reported.outputs, fun x hx => ?_,
      failed⟩
    rw [recorded x hx, attempts, source]
    rfl
  case adopted =>
    rw [handScales, if_pos (adopts.2 ⟨label, fit⟩)]
    have adopted := adoptScales_frame body u
    obtain ⟨outputs, gone, noted, joins, stays⟩ :=
      recitalDone_spec (adopted.receiving.trans held) sender.toNat
    have done := recitalDone_frame sender.toNat (adoptScales body u)
    refine ⟨fun i => ?_, gone, noted, fun joining => ?_, fun other => ?_, fun n b bound running => ?_, ?_⟩
    · rw [done.scales, adoptScales_scales, adoptedScales_get, adopt_eq, reported.scales]
      rfl
    · rw [joins (origin.trans joining), State.attState, adopted.pins, reported.pins]
    · rw [stays (origin ▸ other), adopted.station, reported.station]
    · have count (k : Nat) : (recitalDone sender.toNat (adoptScales body u)).count k = (adoptScales body u).count k :=
        count_of_scales done.clock done.scales k
      have before := count_of_scales reported.clock reported.scales b.scale
      rw [outputs, adoptScales_output, reported.outputs, countMoved_realign bound running, count, before]
      simp only [ne_eq, sub_eq_zero]
    · exact ((reported.mono (by decide)).trans (adopted.mono (by decide))).trans (done.mono (by decide))

end Sys2Proof.Machine
end

section
/-! SUPPORT. What READ_SCALE shows: the warning and the offset pending with the earliest turn, the count with its
calendar form, and the change of the second (R15 to R17, R141, R150, R151). -/

namespace Sys2Proof.Machine

set_option Elab.async false

/-! ### The item with the earliest turn -/

theorem earliest_cons {α : Type} (a : Nat × α) (l : List (Nat × α)) :
    ∃ x, earliest (a :: l) = some x ∧ x.1 ≤ a.1 ∧ ∀ y, earliest l = some y → x.1 ≤ y.1 := by
  simp only [earliest]
  split
  next empty => exact ⟨a, rfl, Nat.le_refl _, by simp [empty]⟩
  next b hb =>
    split
    next less => exact ⟨b, rfl, Nat.le_of_lt less, by simp [hb]⟩
    next more => exact ⟨a, rfl, Nat.le_refl _, by simpa [hb] using more⟩

theorem earliest_le {α : Type} {l : List (Nat × α)} {x : Nat × α} (h : earliest l = some x) :
    ∀ y ∈ l, x.1 ≤ y.1 := by
  induction l generalizing x with
  | nil => simp
  | cons a l ih =>
    obtain ⟨z, eq, first, rest⟩ := earliest_cons a l
    obtain rfl : z = x := Option.some.inj (eq.symm.trans h)
    intro y hy
    obtain rfl | hy := List.mem_cons.1 hy
    · exact first
    · cases l with
      | nil => simp at hy
      | cons b l =>
        obtain ⟨w, hw, -, -⟩ := earliest_cons b l
        exact (rest w hw).trans (ih hw y hy)

theorem earliest_isSome_iff {α : Type} {l : List (Nat × α)} : (earliest l).isSome = true ↔ ∃ x, x ∈ l := by
  cases l with
  | nil => simp [earliest]
  | cons a l =>
    obtain ⟨x, eq, -, -⟩ := earliest_cons a l
    simp [eq]

/-- The earliest of the items that some entries give. -/
abbrev earliestOf {α : Type} (item : Entry → Option (Nat × α)) (es : List Entry) : Option α :=
  (earliest (es.filterMap item)).map Prod.snd

section
variable {α : Type} {item : Entry → Option (Nat × α)} {es : List Entry}

theorem earliestOf_isSome_iff : (earliestOf item es).isSome = true ↔ ∃ e ∈ es, ∃ x w, item e = some (x, w) := by
  rw [Option.isSome_map, earliest_isSome_iff]
  simp only [List.mem_filterMap]
  constructor
  · rintro ⟨⟨x, w⟩, e, he, item⟩
    exact ⟨e, he, x, w, item⟩
  · rintro ⟨e, he, x, w, item⟩
    exact ⟨(x, w), e, he, item⟩

theorem earliestOf_eq_some {w : α} (h : earliestOf item es = some w) :
    ∃ x, (∃ e ∈ es, item e = some (x, w)) ∧ ∀ e ∈ es, ∀ y v, item e = some (y, v) → x ≤ y := by
  obtain ⟨⟨x, w'⟩, first, rfl⟩ := Option.map_eq_some_iff.1 h
  exact ⟨x, List.mem_filterMap.1 (earliest_mem _ _ first),
    fun e he y v hy => earliest_le first (y, v) (List.mem_filterMap.2 ⟨e, he, hy⟩)⟩

end

/-! ### Leap warning and offset pending (R150, R151) -/

section
variable {s : State} {k c : Nat} {e : Entry}

/-- A settled leap of a CIVIL scale that is within its span. -/
def warnsOn (s : State) (c : Nat) (e : Entry) (x : Nat) : Prop :=
  e.settled = true ∧ (e.kind = .leapAdd ∨ e.kind = .leapDrop) ∧ e.turn = some x ∧
    (x ≤ s.clock.label + s.plan.d * 86400 ∧ s.clock.label ≤ x) ∧ e.scale = some c

/-- The warning that an entry gives for a CIVIL scale, with its turn. -/
def leapItem (s : State) (c : Nat) (e : Entry) : Option (Nat × LeapWarning) :=
  e.turn.bind fun t =>
    if e.settled && (e.kind == .leapAdd || e.kind == .leapDrop) && e.scale == some c && inSpan s t then
      some (t, { add := e.kind == .leapAdd, id := e.id, turn := t })
    else none

theorem leapWarning_eq : s.leapWarning c = earliestOf (leapItem s c) s.table.entries := by
  unfold State.leapWarning earliestOf
  congr 3
  funext e
  unfold leapItem
  cases e.turn <;> rfl

theorem leapItem_eq_some {x : Nat} {w : LeapWarning} :
    leapItem s c e = some (x, w) ↔ warnsOn s c e x ∧ w = { add := e.kind == .leapAdd, id := e.id, turn := x } := by
  simp only [leapItem, warnsOn, Option.bind_eq_some_iff, Option.ite_none_right_eq_some, Bool.and_eq_true,
    Bool.or_eq_true, beq_iff_eq, inSpan, decide_eq_true_eq, Option.some.injEq, Prod.mk.injEq]
  constructor
  · rintro ⟨t, turn, ⟨⟨⟨settled, kind⟩, scale⟩, span⟩, rfl, rfl⟩
    exact ⟨⟨settled, kind, turn, span, scale⟩, rfl⟩
  · rintro ⟨⟨settled, kind, turn, span, scale⟩, rfl⟩
    exact ⟨x, turn, ⟨⟨⟨settled, kind⟩, scale⟩, span⟩, rfl, rfl⟩

theorem leapWarning_isSome_iff :
    (s.leapWarning c).isSome = true ↔ ∃ e ∈ s.table.entries, ∃ x, warnsOn s c e x := by
  simp only [leapWarning_eq, earliestOf_isSome_iff, leapItem_eq_some]
  constructor
  · rintro ⟨e, he, x, -, warns, -⟩
    exact ⟨e, he, x, warns⟩
  · rintro ⟨e, he, x, warns⟩
    exact ⟨e, he, x, _, warns, rfl⟩

theorem leapWarning_eq_some {w : LeapWarning} (h : s.leapWarning c = some w) :
    (∃ e ∈ s.table.entries, warnsOn s c e w.turn ∧ w.id = e.id ∧ (w.add = true ↔ e.kind = .leapAdd)) ∧
      ∀ e ∈ s.table.entries, ∀ x, warnsOn s c e x → w.turn ≤ x := by
  obtain ⟨x, ⟨e, he, item⟩, first⟩ := earliestOf_eq_some (leapWarning_eq ▸ h)
  obtain ⟨warns, rfl⟩ := leapItem_eq_some.1 item
  exact ⟨⟨e, he, warns, rfl, by simp⟩, fun e' he' y hy => first e' he' y _ (leapItem_eq_some.2 ⟨hy, rfl⟩)⟩

/-- A settled OFFSET_SET of a LOCAL scale that is within its span. -/
def pendsOn (s : State) (k : Nat) (e : Entry) (x : Nat) : Prop :=
  (s.scale k).kind = .localScale ∧ e.settled = true ∧ e.kind = .offsetSet ∧ e.turn = some x ∧
    (x ≤ s.clock.label + s.plan.d * 86400 ∧ s.clock.label ≤ x) ∧ e.scale = some k

/-- The offset pending that an entry gives for a scale, with its turn. -/
def offsetItem (s : State) (k : Nat) (e : Entry) : Option (Nat × OffsetPending) :=
  e.turn.bind fun t =>
    if e.settled && e.kind == .offsetSet && e.scale == some k && inSpan s t then
      some (t, { id := e.id, turn := t, value := e.value.getD 0 })
    else none

theorem offsetPending_eq :
    s.offsetPending k =
      if (s.scale k).kind = .localScale then earliestOf (offsetItem s k) s.table.entries else none := by
  unfold State.offsetPending earliestOf
  congr 4
  funext e
  unfold offsetItem
  cases e.turn <;> rfl

theorem offsetItem_eq_some (loc : (s.scale k).kind = .localScale) {x : Nat} {w : OffsetPending} :
    offsetItem s k e = some (x, w) ↔
      pendsOn s k e x ∧ w = { id := e.id, turn := x, value := e.value.getD 0 } := by
  simp only [offsetItem, pendsOn, Option.bind_eq_some_iff, Option.ite_none_right_eq_some, Bool.and_eq_true,
    beq_iff_eq, inSpan, decide_eq_true_eq, Option.some.injEq, Prod.mk.injEq]
  constructor
  · rintro ⟨t, turn, ⟨⟨⟨settled, kind⟩, scale⟩, span⟩, rfl, rfl⟩
    exact ⟨⟨loc, settled, kind, turn, span, scale⟩, rfl⟩
  · rintro ⟨⟨-, settled, kind, turn, span, scale⟩, rfl⟩
    exact ⟨x, turn, ⟨⟨⟨settled, kind⟩, scale⟩, span⟩, rfl, rfl⟩

theorem offsetPending_isSome_iff :
    (s.offsetPending k).isSome = true ↔ ∃ e ∈ s.table.entries, ∃ x, pendsOn s k e x := by
  rw [offsetPending_eq]
  split
  next loc =>
    simp only [earliestOf_isSome_iff, offsetItem_eq_some loc]
    constructor
    · rintro ⟨e, he, x, -, pends, -⟩
      exact ⟨e, he, x, pends⟩
    · rintro ⟨e, he, x, pends⟩
      exact ⟨e, he, x, _, pends, rfl⟩
  next other => simp [pendsOn, other]

theorem offsetPending_eq_some {w : OffsetPending} (h : s.offsetPending k = some w) :
    (∃ e ∈ s.table.entries, pendsOn s k e w.turn ∧ w.id = e.id ∧ ∀ y, e.value = some y → w.value = y) ∧
      ∀ e ∈ s.table.entries, ∀ x, pendsOn s k e x → w.turn ≤ x := by
  rw [offsetPending_eq] at h
  split at h
  next loc =>
    obtain ⟨x, ⟨e, he, item⟩, first⟩ := earliestOf_eq_some h
    obtain ⟨pends, rfl⟩ := (offsetItem_eq_some loc).1 item
    exact ⟨⟨e, he, pends, rfl, fun y hy => by simp [hy]⟩,
      fun e' he' y hy => first e' he' y _ ((offsetItem_eq_some loc).2 ⟨hy, rfl⟩)⟩
  next => simp at h

end

/-! ### The warning of a family -/

section
variable {s : State} {k : Nat}

/-- A settled leap of the family of a scale that is within its span. -/
def warnsFor (s : State) (k : Nat) (e : Entry) (x : Nat) : Prop :=
  e.settled = true ∧ (e.kind = .leapAdd ∨ e.kind = .leapDrop) ∧ e.turn = some x ∧
    (x ≤ s.clock.label + s.plan.d * 86400 ∧ s.clock.label ≤ x) ∧ ∃ c, s.family k = some c ∧ e.scale = some c

theorem warnsFor_iff {c : Nat} (family : s.family k = some c) {e : Entry} {x : Nat} :
    warnsFor s k e x ↔ warnsOn s c e x := by
  simp [warnsFor, warnsOn, family]

theorem warningFor_isSome_iff :
    (s.warningFor k).isSome = true ↔ ∃ e ∈ s.table.entries, ∃ x, warnsFor s k e x := by
  cases family : s.family k with
  | none => simp [State.warningFor, warnsFor, family]
  | some c => simp only [State.warningFor, family, Option.bind_some, leapWarning_isSome_iff, warnsFor_iff family]

theorem warningFor_eq_some {w : LeapWarning} (h : s.warningFor k = some w) :
    (∃ e ∈ s.table.entries, warnsFor s k e w.turn ∧ w.id = e.id ∧ (w.add = true ↔ e.kind = .leapAdd)) ∧
      ∀ e ∈ s.table.entries, ∀ x, warnsFor s k e x → w.turn ≤ x := by
  obtain ⟨c, family, warned⟩ := Option.bind_eq_some_iff.1 h
  simpa only [warnsFor_iff family] using leapWarning_eq_some warned

/-! ### The change of the second -/

theorem changeOf_none (h : k = 0 ∨ (s.scale k).kind = .undefined) : s.changeOf k = none := by
  unfold State.changeOf
  rw [if_neg]
  rintro ⟨lo, defined⟩
  obtain rfl | undefined := h
  · exact absurd lo (by decide)
  · exact defined undefined

theorem changeOf_report (i : Fin 5) (h : k = i.val + 1) (defined : (s.scale k).kind ≠ .undefined) :
    s.changeOf k = s.report.change[i] := by
  unfold State.changeOf
  rw [if_pos ⟨by omega, defined⟩]
  simp [h]

/-! ### The count and its calendar form -/

theorem familyInserted_zero : s.familyInserted 0 = false := rfl

theorem familyInserted_civil (civil : (s.scale k).kind = .civil) : s.familyInserted k = (s.scale k).inserted := by
  simp [State.familyInserted, State.family, civil]

theorem familyInserted_local {p : Nat} (loc : (s.scale k).kind = .localScale) (parent : (s.scale k).parent = some p) :
    s.familyInserted k = (s.scale p).inserted := by
  simp [State.familyInserted, State.family, loc, parent]

theorem shownCount_zero : shownCount s 0 = some (s.clock.label : Int) := rfl

theorem countChain_civil (nonzero : k ≠ 0) (civil : (s.scale k).kind = .civil) (fuel : Nat) :
    countChain s (fuel + 1) k = some (civilCount s.clock.label (s.scale k)) := by
  simp [countChain, nonzero, civil]

theorem shownCount_undefined (nonzero : k ≠ 0) (undefined : (s.scale k).kind = .undefined) : shownCount s k = none := by
  simp [shownCount, countChain, nonzero, undefined]

theorem shownCount_civil (nonzero : k ≠ 0) (civil : (s.scale k).kind = .civil) :
    shownCount s k = some (civilCount s.clock.label (s.scale k)) := by
  simp [shownCount, countChain_civil nonzero civil]

theorem shownCount_local {p : Nat} (nonzero : k ≠ 0) (loc : (s.scale k).kind = .localScale)
    (parent : (s.scale k).parent = some p) (lo : 1 ≤ p) (civil : (s.scale p).kind = .civil) :
    shownCount s k = some (civilCount s.clock.label (s.scale p) + (s.scale k).value) := by
  have chain : countChain s 6 k = some (civilCount s.clock.label (s.scale p) + (s.scale k).value) := by
    rw [countChain, if_neg nonzero]
    simp only [loc, parent, Option.getD_some, countChain_civil (by omega : p ≠ 0) civil, Option.map_some]
  simp [shownCount, chain]

theorem calendarMarked_inside {x : Int} (lo : 0 ≤ x) (hi : x < 6311433600) (inserted : Bool) :
    ∃ f, dated x f ∧ calendarMarked x inserted = some (if inserted then { f with second := 60 } else f) := by
  obtain ⟨f, hf⟩ := Option.isSome_iff_exists.1 ((calendar_isSome_iff x).2 ⟨lo, hi⟩)
  exact ⟨f, (calendar_eq_some_iff x f).1 hf, by rw [calendarMarked, hf, Option.map_some]⟩

theorem calendarMarked_outside {x : Int} (out : x < 0 ∨ 6311433600 ≤ x) (inserted : Bool) :
    calendarMarked x inserted = none := by
  rw [calendarMarked, Option.map_eq_none_iff, ← Option.not_isSome_iff_eq_none, calendar_isSome_iff]
  omega

end

/-- Settles O15: the items of READ_SCALE, each by the fact about its part of the view. -/
theorem readScaleShowsTheCountOfTheScale : Obligations.ReadScaleShowsTheCountOfTheScale := by
  intro s k
  have read : exec (.readScale k) s = execReadScale k s := rfl
  refine ⟨fun out => by rw [read, execReadScale, if_pos out]; rfl, fun inside => ⟨s.scaleView k.toNat, _,
    by rw [read, execReadScale, if_neg (by omega), answerOk], rfl, (drawn_frame s).then (respond_frame _ _ _ _ _), ?_⟩⟩
  generalize k.toNat = k
  intro spans warns pends
  refine ⟨warningFor_isSome_iff (s := s) (k := k), fun w => warningFor_eq_some (s := s) (k := k),
    offsetPending_isSome_iff (s := s) (k := k), fun w => offsetPending_eq_some (s := s) (k := k),
    changeOf_none, changeOf_report, fun empty => if_pos empty,
    fun nonzero defined => if_neg (by simp [nonzero, defined]), rfl, ?marker, ?noCount,
    ?calendar, rfl, rfl, rfl, ?base, ?scales⟩
  case marker => rintro rfl; exact familyInserted_zero (s := s)
  case noCount => exact fun empty => congrArg (Option.bind · _) empty
  case calendar =>
    intro x shown
    have form : (s.scaleView k).calendar = calendarMarked x (s.familyInserted k) :=
      congrArg (Option.bind · fun c => calendarMarked c (s.familyInserted k)) shown
    rw [form]
    exact ⟨fun lo hi => calendarMarked_inside lo hi _, fun out => calendarMarked_outside out _⟩
  case base => rintro rfl; exact ⟨rfl, shownCount_zero (s := s)⟩
  case scales =>
    refine fun nonzero => ⟨by simpa [State.scaleView] using nonzero, shownCount_undefined nonzero, fun civil =>
      ⟨familyInserted_civil civil, shownCount_civil nonzero civil⟩, fun p loc parent lo _ civil =>
      ⟨familyInserted_local loc parent, shownCount_local nonzero loc parent lo civil⟩⟩

end Sys2Proof.Machine
end

section
/-! SUPPORT. The part by itself: a claim, an event that is due, or a tick (R2, R59, R60, R65, R155, R164; log
entry 1). -/

namespace Sys2Proof.Machine

set_option Elab.async false

section
variable {s : State}

/-! ### The three kinds of an idle step -/

theorem step_claims (idle : s.pending = []) {v : PendingVerdict} {vs : List PendingVerdict}
    (h : s.verdicts = v :: vs) : step s = .next (v.take { s with verdicts := vs }) := by
  simp [step, idle, idleStep, State.verdictArrives, h]

theorem step_due (idle : s.pending = []) (unclaimed : s.verdicts = []) {c : Instr} (due : s.dueEvents = [c]) :
    step s = exec c s.drawn := by
  simp [step, idle, idleStep, State.verdictArrives, unclaimed, State.nextDue, due, choose]

theorem step_ticks (idle : s.pending = []) (unclaimed : s.verdicts = []) (quiet : s.dueEvents = []) :
    step s = .next (tick s) := by
  simp [step, idle, idleStep, State.verdictArrives, unclaimed, State.nextDue, quiet, choose]

/-! ### The line at a tick -/

/-- The bit times of the four rates halve from 80 ticks on (R59). -/
theorem bitTicks_eq (lrate : BitVec 2) : bitTicks lrate = 80 / 2 ^ lrate.toNat := by
  revert lrate
  decide

theorem frameRead_none (quiet : s.dueEvents = []) : s.frameRead = none := by
  cases read : s.frameRead with
  | none => rfl
  | some f =>
    have due : Instr.rxFrameInvalid f ∈ s.dueEvents := by simp [State.dueEvents, State.lineDue, read]
    simp [quiet] at due

/-- In TAKING a tick with no event due has read no frame to its end. -/
theorem readFrame_none (quiet : s.dueEvents = []) (taking : s.line.state = .taking) : readFrame s.line.bits = none := by
  simpa [State.frameRead, taking] using frameRead_none quiet

variable {l : Line} {lrate : BitVec 2} (recessive : Bool)

theorem line_tick_detached (h : l.state = .detached) : l.tick lrate recessive = l := by
  simp [Line.tick, h]

theorem line_tick_within (attached : l.state ≠ .detached) (h : l.phase + 1 < bitTicks lrate) :
    l.tick lrate recessive = { l with phase := l.phase + 1 } := by
  rw [Line.tick, if_neg attached, if_neg (by omega)]

theorem line_tick_end (attached : l.state ≠ .detached) (h : bitTicks lrate ≤ l.phase + 1) :
    l.tick lrate recessive = { l with phase := 0 }.bitEnd recessive := by
  rw [Line.tick, if_neg attached, if_pos h]

theorem bitEnd_idle (h : l.state = .idle) : l.bitEnd recessive = { l with idle := l.idle + 1 } := by
  simp [Line.bitEnd, h]

theorem bitEnd_sending (h : l.state = .sending) : l.bitEnd recessive = { l with bitPos := l.bitPos + 1 } := by
  simp [Line.bitEnd, h]

theorem bitEnd_hunting (h : l.state = .hunting) :
    l.bitEnd recessive = { l with quiet := if recessive then l.quiet + 1 else 0 } := by
  simp [Line.bitEnd, h]

theorem bitEnd_taking (h : l.state = .taking) (unread : readFrame l.bits = none) :
    l.bitEnd recessive = { l with bits := l.bits ++ [recessive] } := by
  simp [Line.bitEnd, h, unread]

end

/-- A tick clocks one byte into the port, and the held response stands. -/
theorem tick_held (s : State) : (tick s).port.held = s.port.held := by
  simp only [tick, Port.clocked]
  split <;> rfl

theorem tick_output (s : State) (n : Fin 8) : (tick s).outputs[n] = s.outputs[n].advance := by simp [tick]

/-- Settles O3: the three kinds of an idle step, and the parts that a tick moves. -/
theorem idlePartLetsATickPass : Obligations.IdlePartLetsATickPass := by
  intro s idle bitTime
  refine ⟨fun v vs h => step_claims idle h, fun unclaimed quiet => ?ticks,
    fun c unclaimed due => step_due idle unclaimed due⟩
  have time : bitTicks s.pins.lrate = bitTime := bitTicks_eq _
  refine ⟨tick s, step_ticks idle unclaimed quiet, rfl, tick_held s, fun n => tick_output s n,
    fun detached => line_tick_detached _ detached, fun attached within => line_tick_within _ attached (time ▸ within),
    fun ended => ?_, tick_frame s⟩
  have ends (attached : s.line.state ≠ .detached) :
      (tick s).line = { s.line with phase := 0 }.bitEnd (Config.lineLevel s.free) :=
    line_tick_end _ attached (time ▸ ended)
  refine ⟨fun h => ?_, fun h => ?_, fun h => ⟨Config.lineLevel s.free, ?_⟩, fun h => ⟨Config.lineLevel s.free, ?_⟩⟩
  · exact (ends (by simp [h])).trans (bitEnd_idle _ h)
  · exact (ends (by simp [h])).trans (bitEnd_sending _ h)
  · exact (ends (by simp [h])).trans (bitEnd_hunting _ h)
  · exact (ends (by simp [h])).trans (bitEnd_taking _ h (readFrame_none quiet h))

end Sys2Proof.Machine
end

section
/-! SUPPORT. The table kept within its bounds and its settled entries apart, as one invariant, and the operations on the
table and on the scales that keep it (R18, R25, R27, R32, R37). -/

namespace Sys2Proof.Machine

set_option Elab.async false

/-! ### The invariant -/

/-- The table is within its capacity and in order, and its settled entries are apart (R25, R27, R32, R37). -/
structure Tidy (s : State) : Prop where
  bounded : TableBounded s
  apart : SettledApart s

/-- An entry that holds a transition, settled or not, and nothing else. -/
def Record.entry (r : Record) (settled : Bool) : Entry :=
  { r with
    state := if settled then .ratified else .proposed
    endorsers := noStations, flags := [], window := none, stamp := 0, mark := .none }

/-- What the bounds, the order and the spacing of the table read of an entry. -/
def Entry.bare (e : Entry) : Entry := e.toRecord.entry e.settled

theorem bare_settled (e : Entry) : e.bare.settled = e.settled := by
  unfold Entry.bare Record.entry
  cases e.settled <;> rfl

/-- The rules by which the table is kept: the plan and the families of the scales (R11, R27, R32). -/
structure SameRules (s t : State) : Prop where
  plan : t.plan = s.plan
  family : t.family = s.family

section
variable {s t : State} {ps : List Part}

theorem SameRules.of_frame (h : ChangesOnly ps s t) (plan : Part.plan ∉ ps := by decide)
    (scales : Part.scales ∉ ps := by decide) : SameRules s t where
  plan := h.plan plan
  family := funext fun k => by simp only [State.family, scale_of_scales (h.scales scales)]

theorem SameRules.conflicts (h : SameRules s t) (a b : Record) : t.conflicts a b = s.conflicts a b := by
  simp only [State.conflicts, State.sameFamily, State.familyOf, h.plan, h.family]

theorem conflicts_comm (s : State) (a b : Record) : s.conflicts a b = s.conflicts b a := by
  have family : s.sameFamily a b = s.sameFamily b a := by
    unfold State.sameFamily
    cases s.familyOf a <;> cases s.familyOf b <;> simp [Bool.beq_comm]
  unfold State.conflicts
  cases a.turn <;> cases b.turn <;> simp [family, turnsConflict, and_comm]

theorem Tidy.of_empty (h : s.table.entries = []) : Tidy s := by
  constructor <;> simp [TableBounded, SettledApart, otherCount, h]

/-- The bounds and the order of the table read the transitions that are held alone. -/
theorem bounded_of_records (hs : TableBounded s) (plan : t.plan = s.plan)
    (sub : (t.table.entries.map Entry.toRecord).Sublist (s.table.entries.map Entry.toRecord)) : TableBounded t := by
  obtain ⟨ids, held, others, order⟩ := hs
  refine ⟨?_, ?_, ?_, ?_⟩
  · have sub := sub.map Record.id
    simp only [List.map_map] at sub
    exact ids.sublist sub
  · simpa using sub.length_le.trans (by simpa using held)
  · have fewer := sub.countP_le (p := fun r => decide (r.kind ≠ .withdraw))
    simp only [List.countP_map] at fewer
    rw [plan]
    exact fewer.trans others
  · have order : (s.table.entries.map Entry.toRecord).Pairwise fun a b =>
        turnOrdered (a.entry true) (b.entry true) = true := List.pairwise_map.2 order
    exact List.pairwise_map.1 (order.sublist sub)

/-- A part of the entries, as far as the rules read them, is kept under the same rules. -/
theorem Tidy.of_bare (hs : Tidy s) (rules : SameRules s t)
    (sub : (t.table.entries.map Entry.bare).Sublist (s.table.entries.map Entry.bare)) : Tidy t := by
  refine ⟨bounded_of_records hs.bounded rules.plan ?_, ?_⟩
  · have sub := sub.map Entry.toRecord
    simp only [List.map_map] at sub
    exact sub
  · have apart : (s.table.entries.map Entry.bare).Pairwise fun a b =>
        a.settled = true → b.settled = true → s.conflicts a.toRecord b.toRecord = false := by
      rw [List.pairwise_map]
      simp only [bare_settled]
      exact hs.apart
    have apart := List.pairwise_map.1 (apart.sublist sub)
    simp only [bare_settled] at apart
    simp only [SettledApart, rules.conflicts]
    exact apart

/-- What changes neither table nor plan nor scales keeps the table tidy. -/
theorem Tidy.of_frame (hs : Tidy s) (h : ChangesOnly ps s t) (table : Part.table ∉ ps := by decide)
    (plan : Part.plan ∉ ps := by decide) (scales : Part.scales ∉ ps := by decide) : Tidy t :=
  hs.of_bare (.of_frame h plan scales) (by rw [h.table table])

/-- A part of the entries, in their order. -/
theorem Tidy.of_sublist (hs : Tidy s) (h : ChangesOnly ps s t) (sub : t.table.entries.Sublist s.table.entries)
    (plan : Part.plan ∉ ps := by decide) (scales : Part.scales ∉ ps := by decide) : Tidy t :=
  hs.of_bare (.of_frame h plan scales) (sub.map _)

/-- Entries each in their place, of the same transitions, and as settled as they were. -/
theorem Tidy.of_map (hs : Tidy s) (h : ChangesOnly ps s t) {g : Entry → Entry}
    (eq : t.table.entries = s.table.entries.map g) (same : ∀ e ∈ s.table.entries, (g e).bare = e.bare)
    (plan : Part.plan ∉ ps := by decide) (scales : Part.scales ∉ ps := by decide) : Tidy t := by
  refine hs.of_bare (.of_frame h plan scales) ?_
  rw [eq, List.map_map, List.map_congr_left (f := Entry.bare ∘ g) same]

/-- Announcement marks are no matter of the table's rules (R81). -/
theorem Tidy.of_marks (hs : Tidy s) (h : ChangesOnly ps s t) (marks : sameButMarks s t)
    (plan : Part.plan ∉ ps := by decide) (scales : Part.scales ∉ ps := by decide) : Tidy t := by
  refine hs.of_bare (.of_frame h plan scales) ?_
  have bare := congrArg (List.map Entry.bare) marks.1
  simp only [List.map_map] at bare
  exact bare ▸ List.Sublist.refl _

theorem Tidy.foldl {α : Type} {g : State → α → State} {l : List α} (hs : Tidy s)
    (h : ∀ t, Tidy t → ∀ a ∈ l, Tidy (g t a)) : Tidy (l.foldl g s) := List.foldlRecOn l g hs h

/-! ### The operations on the table -/

theorem Tidy.raise (hs : Tidy s) (n : Notice) : Tidy (raise n s) := hs.of_frame (raise_frame n s)

theorem Tidy.offer (hs : Tidy s) (f : Frame) : Tidy (offer f s) := hs.of_frame (offer_frame f s)

theorem Tidy.freeEntry (hs : Tidy s) (id : Ident) (n : Notice) : Tidy (freeEntry id n s) :=
  hs.of_sublist (freeEntry_frame id n s) List.filter_sublist

theorem Tidy.freeExecuted (hs : Tidy s) (id : Ident) (set : StationSet) : Tidy (freeExecuted id set s) :=
  hs.of_sublist (freeExecuted_frame id set s) List.filter_sublist

theorem Tidy.setSeq (hs : Tidy s) (q : Word) : Tidy (s.setSeq q) :=
  hs.of_sublist (setSeq_frame q s) (List.Sublist.refl _)

theorem Tidy.setMark (hs : Tidy s) (id : Ident) (m : Mark) : Tidy (s.setMark id m) :=
  hs.of_map (setMark_frame id m s) rfl fun e _ => by split <;> rfl

theorem Tidy.moveMark (hs : Tidy s) (id : Ident) (a b : Mark) : Tidy (s.moveMark id a b) :=
  hs.of_marks (moveMark_frame id a b s) (moveMark_sameButMarks s id a b)

theorem settledConflicts_nil {r : Record} :
    s.settledConflicts r = [] ↔ ∀ e ∈ s.table.entries, e.settled = true → e.id ≠ r.id →
      s.conflicts r e.toRecord = false := by
  simp only [State.settledConflicts, List.map_eq_nil_iff, List.filter_eq_nil_iff, Bool.and_eq_true, decide_eq_true_eq,
    not_and, Bool.not_eq_true, and_imp]

/-- A held entry changed in what is no part of its transition: it stays as settled as it was, or is settled where it
conflicts with no other settled entry (R31, R135). -/
theorem Tidy.modify (hs : Tidy s) {id : Ident} {f : Entry → Entry} (record : ∀ e, (f e).toRecord = e.toRecord)
    (settles : ∀ e, s.find id = some e → (f e).settled = true →
      e.settled = true ∨ s.settledConflicts e.toRecord = []) : Tidy (s.modify id f) := by
  have rules := SameRules.of_frame (modify_frame id f s)
  have same (e : Entry) : (if e.id = id then f e else e).toRecord = e.toRecord := by split <;> simp [record]
  refine ⟨bounded_of_records hs.bounded rules.plan ?_, ?_⟩
  · have eq : (s.modify id f).table.entries = s.table.entries.map fun e => if e.id = id then f e else e := rfl
    rw [eq, List.map_map, List.map_congr_left (f := Entry.toRecord ∘ _) fun e _ => same e]
  · obtain ⟨ids, -⟩ := hs.bounded
    refine List.pairwise_map.2 (List.Pairwise.imp_of_mem (fun {a b} ha hb h ka kb => ?_)
      (hs.apart.and (List.pairwise_map.1 ids)))
    obtain ⟨apart, other⟩ := h
    rw [rules.conflicts, same, same]
    by_cases hia : a.id = id
    · have hib : b.id ≠ id := fun h => other (hia.trans h.symm)
      rw [if_pos hia] at ka
      rw [if_neg hib] at kb
      obtain old | free := settles a (hia ▸ find_of_mem ids ha) ka
      · exact apart old kb
      · exact settledConflicts_nil.1 free b hb kb (Ne.symm other)
    · rw [if_neg hia] at ka
      by_cases hib : b.id = id
      · rw [if_pos hib] at kb
        obtain old | free := settles b (hib ▸ find_of_mem ids hb) kb
        · exact apart ka old
        · rw [conflicts_comm]
          exact settledConflicts_nil.1 free a ha ka other
      · rw [if_neg hib] at kb
        exact apart ka kb

theorem hasRoom_iff {k : Kind} :
    s.hasRoom k = true ↔ s.held < 16 ∧ (k = .withdraw ∨ otherCount s.table.entries < 16 - s.plan.u) := by
  simp [State.hasRoom]

/-- A record is stored where it is not held, there is room for it, and it comes PROPOSED or free of conflicts (R25,
R27, R136). -/
theorem Tidy.storeEntry (hs : Tidy s) {r : Record} {st : EntryState} {set : StationSet} {flags : List CfgRule}
    {w : Option Nat} {m : Mark} {o : StoreOrigin} (free : s.find r.id = none) (room : s.hasRoom r.kind = true)
    (spaced : st = .proposed ∨ s.settledConflicts r = []) : Tidy (storeEntry r st set flags w m o s) := by
  obtain ⟨ids, -, others, order⟩ := hs.bounded
  obtain ⟨held, other⟩ := hasRoom_iff.1 room
  have rules := SameRules.of_frame (storeEntry_frame r st set flags w m o s)
  have fresh : ∀ x ∈ s.table.entries, x.id ≠ r.id := lookup_none_iff.1 (find_eq_lookup s r.id ▸ free)
  let e : Entry :=
    { r with state := st, endorsers := set, flags := flags, window := w, stamp := s.table.nextStamp, mark := m }
  have perm := insertEntry_perm e s.table.entries
  refine ⟨⟨?_, ?_, ?_, insertEntry_ordered e _ order⟩, ?_⟩
  · refine (perm.map _).nodup_iff.2 (List.nodup_cons.2 ⟨fun hmem => ?_, ids⟩)
    obtain ⟨x, hx, hid⟩ := List.mem_map.1 hmem
    exact fresh x hx hid
  · exact (length_insertEntry e _).trans_le held
  · rw [rules.plan]
    refine (perm.countP_eq _).trans_le ?_
    rw [List.countP_cons]
    obtain withdraw | other := other
    · rw [if_neg (by simp [e, withdraw])]; exact others
    · split
      · exact other
      · exact others
  · have apart (x : Entry) (hx : x ∈ s.table.entries) (he : e.settled = true) (settled : x.settled = true) :
        s.conflicts r x.toRecord = false := by
      obtain rfl | free := spaced
      · simp [e, Entry.settled] at he
      · exact settledConflicts_nil.1 free x hx settled (fresh x hx)
    refine (perm.pairwise_iff fun {a b} h kb ka => ?_).2 (List.pairwise_cons.2 ⟨fun x hx he settled => ?_, ?_⟩)
    · rw [conflicts_comm]; exact h ka kb
    · rw [rules.conflicts]; exact apart x hx he settled
    · simpa only [rules.conflicts] using hs.apart

/-! ### The scales -/

/-- The kinds and the parents of the scales give the families (R11). -/
theorem SameRules.of_scales (plan : t.plan = s.plan)
    (same : ∀ i : Fin 5, t.scales[i].kind = s.scales[i].kind ∧ t.scales[i].parent = s.scales[i].parent) :
    SameRules s t where
  plan := plan
  family := funext fun k => by
    by_cases h : 1 ≤ k ∧ k ≤ 5
    · obtain ⟨kind, parent⟩ := same ⟨k - 1, by omega⟩
      simp only [Fin.getElem_fin] at kind parent
      simp only [State.family, State.scale, dif_pos h, kind, parent]
    · simp only [State.family, State.scale, dif_neg h]

theorem SameRules.setScale {k : Nat} {sc : Scale} (kind : sc.kind = (s.scale k).kind)
    (parent : sc.parent = (s.scale k).parent) : SameRules s (s.setScale k sc) := by
  refine .of_scales (setScale_plan s k sc) fun i => ?_
  by_cases h : 1 ≤ k ∧ k - 1 = i
  · obtain ⟨low, at_⟩ := h
    have own : s.scale k = s.scales[i] := by
      unfold State.scale
      rw [dif_pos ⟨low, by omega⟩]
      simp only [at_, Fin.getElem_fin]
    rw [← own]
    simp [low, at_, kind, parent]
  · have stands : (s.setScale k sc).scales[i] = s.scales[i] := by
      simp only [setScale_scales, Fin.getElem_fin]
      split
      next low => rw [Vector.getElem_setIfInBounds_ne _ fun at_ => h ⟨low, at_⟩]
      next => rfl
    rw [stands]
    exact ⟨rfl, rfl⟩

theorem Tidy.setScale (hs : Tidy s) {k : Nat} {sc : Scale} (kind : sc.kind = (s.scale k).kind)
    (parent : sc.parent = (s.scale k).parent) : Tidy (s.setScale k sc) :=
  hs.of_bare (.setScale kind parent) (by rw [setScale_table])

theorem Scale.change_plan (sc : Scale) (c : ScaleChange) (v : Int) :
    (sc.change c v).1.kind = sc.kind ∧ (sc.change c v).1.parent = sc.parent := by
  unfold Scale.change
  cases c <;> dsimp only <;> split_ifs <;> exact ⟨rfl, rfl⟩

theorem Tidy.handChange (hs : Tidy s) (c : ScaleChange) (k : Nat) (v : Int) (id : Ident) :
    Tidy (handChange c k v id s) := by
  obtain ⟨kind, parent⟩ := (s.scale k).change_plan c v
  exact (hs.setScale kind parent).foldl fun t ht x _ => ht.of_frame (setChange_frame x _ t)

theorem adopt_plan (sc : Scale) (v : Int) (c : Option Nat) :
    (sc.adopt v c).kind = sc.kind ∧ (sc.adopt v c).parent = sc.parent := by
  unfold Scale.adopt
  split <;> exact ⟨rfl, rfl⟩

theorem Tidy.adoptScales (hs : Tidy s) (body : List Byte) : Tidy (adoptScales body s) := by
  refine hs.of_bare (.of_scales rfl fun i => ?_) (List.Sublist.refl _)
  rw [show (Machine.adoptScales body s).scales = adoptedScales s.scales body from rfl, adoptedScales_get]
  exact adopt_plan _ _ _

end
end Sys2Proof.Machine
end

section
/-! SUPPORT. The Agreement Engine, the merge of recital records and the pass keep the table tidy (R31, R84, R90, R97,
R135, R136, R142). -/

namespace Sys2Proof.Machine

set_option Elab.async false

section
variable {s : State}

/-! ### The change of station state and the reports of frames -/

theorem Tidy.enterState (hs : Tidy s) (new : StationState) : Tidy (enterState new s) :=
  hs.of_marks (enterState_frame new s) (enterState_sameButMarks new s)

theorem Tidy.roundFailed (hs : Tidy s) (origin : RecvOrigin) : Tidy (roundFailed origin s) := by
  cases origin with
  | joining => exact hs.enterState _
  | discord => exact hs
  | missedEntry => exact hs

theorem Tidy.failAttempt (hs : Tidy s) (cause : AttemptCause) : Tidy (failAttempt cause s) := by
  unfold Machine.failAttempt
  split
  · exact hs
  next c _ =>
    dsimp only
    split
    · exact (hs.of_frame (withAttempt_frame _ _ s)).of_frame (offerRequest_frame _)
    · exact Tidy.roundFailed (Tidy.raise (hs.of_frame (withReceiving_frame none s)) _) c.origin

theorem Tidy.reportPurged (hs : Tidy s) (f : Frame) : Tidy (reportPurged s f) :=
  hs.of_marks (reportPurged_frame f s) (reportPurged_sameButMarks s f)

theorem Tidy.reportSent (hs : Tidy s) (f : Frame) : Tidy (reportSent s f) := by
  unfold Machine.reportSent
  split
  · exact hs.moveMark _ _ _
  · exact hs.moveMark _ _ _
  · exact hs.of_frame (setRequest_frame _ _ s)
  · split
    · exact hs.of_frame (recitalFrameSent_frame s)
    · exact hs
  · split
    · exact hs.of_frame (recitalEnded_frame s)
    · exact hs
  · exact hs

theorem Tidy.reportAbandoned (hs : Tidy s) (f : Frame) : Tidy (reportAbandoned s f) := by
  unfold Machine.reportAbandoned
  split
  · exact hs.moveMark _ _ _
  · exact hs.moveMark _ _ _
  · exact hs.of_frame (setRequest_frame _ _ s)
  · exact hs.of_frame (.ite (recitalOfferFailed_frame s) (.refl _ s))
  · exact hs.of_frame (.ite (recitalOfferFailed_frame s) (.refl _ s))
  · exact hs

/-! ### The Agreement Engine -/

theorem Tidy.offerPropose (hs : Tidy s) (r : Record) : Tidy (offerPropose r s) := (hs.offer _).setMark _ _

theorem Tidy.offerRatify (hs : Tidy s) (id : Ident) (set : StationSet) : Tidy (offerRatify id set s) :=
  (hs.offer _).setMark _ _

theorem Tidy.lapseOvertaken (hs : Tidy s) (id : Ident) : Tidy (lapseOvertaken id s) :=
  hs.foldl fun _ ht _ _ => ht.freeEntry _ _

theorem Tidy.withdrawTarget (hs : Tidy s) (target withdraw : Ident) : Tidy (withdrawTarget target withdraw s) := by
  unfold Machine.withdrawTarget
  split
  · exact hs
  · split
    · exact hs.raise _
    · exact hs.freeEntry _ _

/-- The claim settles an entry only where no other settled entry conflicts with it (R31, R32). -/
theorem Tidy.ratifyClaim (hs : Tidy s) {e : Entry} (he : s.find e.id = some e) (set : StationSet) :
    Tidy (ratifyClaim e set s) := by
  unfold Machine.ratifyClaim
  split
  · have taken : Tidy (s.setScale (e.scale.getD 0)
        { s.scale (e.scale.getD 0) with custodian := e.value.map Int.toNat }) := hs.setScale rfl rfl
    exact taken.freeExecuted _ _
  · exact (hs.withdrawTarget _ _).freeExecuted _ _
  · split
    next free =>
      refine Tidy.raise (hs.modify (by simp) fun x hx _ => .inr ?_) _
      obtain rfl := Option.some.inj (he.symm.trans hx)
      exact free
    next => exact hs.freeEntry _ _

theorem Tidy.ratifyOwn (hs : Tidy s) (id : Ident) : Tidy (ratifyOwn id s) := by
  unfold Machine.ratifyOwn
  split
  · exact hs
  next e he =>
    have he : s.find e.id = some e := (find_id he).symm ▸ he
    have claim := hs.ratifyClaim he e.endorsers
    split
    · dsimp only
      split
      · exact claim
      · split
        · split
          · exact claim.offerRatify _ _
          · exact claim.setMark _ _
        · exact claim
    · split
      · split
        · exact claim
        · exact (hs.offer _).ratifyClaim ((find_offer _ s _).trans he) _
      · exact hs

theorem Tidy.addEndorsers (hs : Tidy s) (id : Ident) (set : StationSet) : Tidy (addEndorsers id set s) := by
  unfold Machine.addEndorsers
  split
  · exact hs
  next e he =>
    have added : Tidy (s.modify id fun x => { x with endorsers := e.endorsers ||| set }) :=
      hs.modify (fun _ => rfl) fun _ _ settled => .inl settled
    dsimp only
    split
    · exact hs
    · split
      · exact added.ratifyOwn id
      · exact added

theorem Tidy.retestQuorum (hs : Tidy s) : Tidy (retestQuorum s) := by
  unfold Machine.retestQuorum whenActive
  split
  · exact hs.foldl fun _ ht id _ => ht.ratifyOwn id
  · exact hs

theorem Tidy.reofferRatify (hs : Tidy s) : Tidy (reofferRatify s) := by
  unfold Machine.reofferRatify whenActive
  split
  · refine hs.foldl fun t ht id _ => ?_
    split
    · exact ht.offerRatify _ _
    · exact ht
  · exact hs

theorem Tidy.reofferPropose (hs : Tidy s) : Tidy (reofferPropose s) := by
  unfold Machine.reofferPropose whenActive
  split
  · refine hs.foldl fun t ht id _ => ?_
    split
    · exact ht.offerPropose _
    · exact ht
  · exact hs

theorem Tidy.expireEntry (hs : Tidy s) (id : Ident) : Tidy (expireEntry id s) := by
  unfold Machine.expireEntry
  split
  · split
    · exact hs.freeEntry _ _
    · exact hs
  · exact hs

/-! ### The merge of recital records (R135 to R137) -/

theorem Tidy.tally (hs : Tidy s) (f : Tallies → Tallies) : Tidy (tally f s) := hs.of_frame (tally_frame f s)

theorem Tidy.skipConflict (hs : Tidy s) (r : Record) : Tidy (skipConflict r s) :=
  hs.of_frame (skipConflict_frame r s)

theorem Tidy.recoverSequences (hs : Tidy s) (r : Record) : Tidy (recoverSequences r s) :=
  hs.of_sublist (recoverSequences_frame r s) (recoverSequences_entries r s ▸ List.Sublist.refl _)

/-- A held entry is advanced where no other settled entry conflicts with it (R135). -/
theorem Tidy.advanceEntry (hs : Tidy s) {rr : RecitalRecord} {e : Entry} (he : s.find rr.record.id = some e)
    (free : s.settledConflicts e.toRecord = []) : Tidy (advanceEntry rr s) := by
  have advanced : Tidy (Machine.raise (.ratified rr.record.id rr.endorsers .merged)
      (s.modify rr.record.id fun x =>
        { x with state := rr.state, endorsers := rr.endorsers, window := none, mark := .none })) := by
    refine Tidy.raise (hs.modify (by simp) fun x hx _ => .inr ?_) _
    obtain rfl := Option.some.inj (he.symm.trans hx)
    exact free
  unfold Machine.advanceEntry
  dsimp only
  split
  · exact (advanced.lapseOvertaken _).tally _
  · exact advanced.tally _

theorem Tidy.mergeHeld (hs : Tidy s) {rr : RecitalRecord} {e : Entry} (he : s.find rr.record.id = some e) :
    Tidy (mergeHeld rr e s) := by
  unfold Machine.mergeHeld
  split
  · split
    · exact hs.tally _
    · split
      next free => exact hs.advanceEntry he free
      next => exact hs.skipConflict _
  · split
    · exact (hs.tally _).addEndorsers _ _
    · exact hs.tally _

theorem Tidy.insertRecord (hs : Tidy s) {rr : RecitalRecord} (free : s.find rr.record.id = none)
    (room : s.hasRoom rr.record.kind = true)
    (spaced : rr.state = .proposed ∨ s.settledConflicts rr.record = []) : Tidy (insertRecord rr s) := by
  have stored := hs.storeEntry (st := insertionState s rr) (set := rr.endorsers) (flags := [])
    (w := if insertionState s rr = .proposed then some (s.clock.label + rr.remaining) else none) (m := .none)
    (o := .merge) free room (spaced.imp_left insertionState_proposed.2)
  unfold Machine.insertRecord
  dsimp only
  split
  · exact (stored.lapseOvertaken _).tally _
  · exact stored.tally _

theorem Tidy.mergeNew (hs : Tidy s) {rr : RecitalRecord} (free : s.find rr.record.id = none) :
    Tidy (mergeNew rr s) := by
  unfold Machine.mergeNew
  dsimp only
  split
  · exact hs.tally _
  · split
    · exact hs.tally _
    · split
      · exact hs.tally _
      · split
        · exact hs.skipConflict _
        next spaced =>
          split
          · exact hs.failAttempt _
          next room => exact hs.insertRecord free (by simpa using room) (by tauto)

theorem Tidy.mergeRecord (hs : Tidy s) (rr : RecitalRecord) : Tidy (mergeRecord rr s) := by
  have recovered := hs.recoverSequences rr.record
  unfold Machine.mergeRecord
  dsimp only
  split
  next held => exact recovered.mergeHeld held
  next free => exact recovered.mergeNew free

/-! ### The frames of a recital (R132, R138) -/

theorem Tidy.recitalDone (hs : Tidy s) (source : Nat) : Tidy (recitalDone source s) := by
  unfold Machine.recitalDone
  split
  · exact hs
  next c _ =>
    have done : Tidy (Machine.raise (.recitalDone source c.origin c.tallies) { s with receiving := none }) :=
      (hs.of_frame (withReceiving_frame none s)).raise _
    dsimp only
    split
    · exact done.enterState _
    · exact done

theorem Tidy.handScales (hs : Tidy s) (sender label : Nat) (body : List Byte) :
    Tidy (handScales sender label body s) := by
  unfold Machine.handScales
  split
  · exact (hs.adoptScales body).recitalDone _
  · exact hs.failAttempt _

theorem Tidy.takeInOrder (hs : Tidy s) (kind : FrameKind) (sender : Nat) (body : List Byte) (c : RecvCtx)
    (total : Nat) : Tidy (takeInOrder kind sender body c total s) := by
  unfold Machine.takeInOrder
  split
  · exact (hs.raise _).failAttempt _
  next content _ =>
    have taken := hs.of_frame (withReceiving_frame (some { c with wait := 0, expected := c.expected + 1 }) s)
    cases content with
    | vacant => exact taken
    | entry rr => exact taken.mergeRecord rr
    | scales label b => exact taken.handScales _ _ _

theorem Tidy.takeRecitalFrame (hs : Tidy s) (kind : FrameKind) (sender : Nat) (body : List Byte) :
    Tidy (takeRecitalFrame kind sender body s) := by
  unfold Machine.takeRecitalFrame
  split
  · exact hs
  next c _ =>
    split
    · exact hs
    · dsimp only
      split
      · split
        · exact Tidy.takeInOrder (hs.of_frame (withReceiving_frame
            (some { c with source := some sender, total := some (field body 1 1) }) s)) _ _ _ _ _
        · exact hs
      · split
        · exact hs
        · split
          · exact hs.takeInOrder _ _ _ _ _
          · exact hs.failAttempt _

/-! ### The pass (R142 to R149) -/

theorem Tidy.completeEntry (hs : Tidy s) (c : ScaleChange) (e : Entry) : Tidy (completeEntry c e s) :=
  (hs.handChange c _ _ e.id).freeEntry _ _

/-- A RATIFIED entry was settled before it is APPLYING (R143). -/
theorem Tidy.enterApplying (hs : Tidy s) {id : Ident} (ratified : ∀ e, s.find id = some e → e.state = .ratified) :
    Tidy (enterApplying id s) :=
  Tidy.lapseOvertaken
    (hs.modify (by simp) fun e he _ => .inl (by simp [Entry.settled, ratified e he])) _

theorem Tidy.actWhenDue (hs : Tidy s) (e : Entry) (turn : Nat) : Tidy (actWhenDue e turn s) := by
  unfold Machine.actWhenDue
  split
  · split
    · exact hs.handChange _ _ _ _
    · split
      · exact hs.completeEntry _ _
      · exact hs
  · split
    · exact hs.completeEntry _ _
    · exact hs
  · split
    · exact hs.completeEntry _ _
    · exact hs
  · exact hs

theorem Tidy.applyEntry (hs : Tidy s) (id : Ident) : Tidy (applyEntry id s) := by
  unfold Machine.applyEntry
  split
  · exact hs
  next e he =>
    split
    · exact hs
    · split
      · exact hs
      next ratified =>
        split
        · refine (hs.enterApplying fun x hx => ?_).actWhenDue _ _
          obtain rfl := Option.some.inj (he.symm.trans hx)
          exact ratified
        · exact hs
      · exact hs.actWhenDue _ _

theorem Tidy.applyPass (hs : Tidy s) : Tidy (applyPass s) := by
  unfold Machine.applyPass
  split
  · exact hs
  · exact ((hs.of_frame (clearChanges_frame s)).foldl fun _ ht _ _ => ht.applyEntry _).of_frame (formReport_frame _)

end

end Sys2Proof.Machine
end

section
/-! SUPPORT. The boundary, the line, the frames, the proposals and the claims keep the table tidy (R25, R27, R32, R37). -/

namespace Sys2Proof.Machine

set_option Elab.async false

section
variable {s t : State}

/-! ### The Station Controller -/

theorem Tidy.withStation (hs : Tidy s) (x : Station) : Tidy { s with station := x } :=
  hs.of_frame (withStation_frame x s)

theorem Tidy.evaluatePlan (hs : Tidy s) : Tidy (evaluatePlan s) := by
  unfold Machine.evaluatePlan
  dsimp only
  split
  · exact (hs.raise _).enterState _
  · exact hs

theorem Tidy.armAdoption (hs : Tidy s) : Tidy (armAdoption s) := hs.of_frame (armAdoption_frame s)

theorem Tidy.evaluateLabel (hs : Tidy s) : Tidy (evaluateLabel s) := by
  unfold Machine.evaluateLabel
  dsimp only
  split
  · split
    · exact ((hs.raise _).enterState _).armAdoption
    · split
      · exact hs.armAdoption
      · exact hs
  · split
    · exact hs.enterState _
    · exact hs

theorem Tidy.endListeningIfDue (hs : Tidy s) : Tidy (endListeningIfDue s) := by
  unfold Machine.endListeningIfDue
  split
  · unfold endListening
    split
    · exact (hs.enterState _).of_frame (askRecital_frame _ _ _)
    · exact hs.enterState _
  · exact hs

theorem Tidy.advanceListening (hs : Tidy s) : Tidy (advanceListening s) := by
  unfold Machine.advanceListening
  split
  · exact (hs.withStation _).endListeningIfDue
  · exact hs

theorem Tidy.afterAdoption (hs : Tidy s) : Tidy (afterAdoption s) := by
  unfold Machine.afterAdoption
  split
  · exact hs.enterState _
  · exact hs.withStation _
  · exact hs

theorem Tidy.takeReport (hs : Tidy s) (rep : LabelReport) : Tidy (takeReport rep s) := by
  unfold Machine.takeReport
  split
  · exact Tidy.afterAdoption (Tidy.withStation (hs.foldl fun t ht p _ => ht.of_frame (changeSlot_frame p _ _ t)) _)
  · exact hs.withStation _
  · exact hs

theorem Tidy.beaconWork (hs : Tidy s) : Tidy (beaconWork s) := by
  have evaluated := ((hs.of_frame (advanceSilences_frame s)).evaluatePlan).evaluateLabel
  exact (evaluated.of_frame (evaluateDiscord_frame _)).advanceListening.of_frame (offerBeacon_frame _)

theorem Tidy.stationWork (hs : Tidy s) (rep : LabelReport) : Tidy (stationWork rep s) := by
  have counted := ((hs.of_frame (aged_frame s)).takeReport rep).of_frame (advanceAdoption_frame _)
  unfold Machine.stationWork
  dsimp only
  split
  · exact hs
  · split
    · exact counted.beaconWork
    · exact counted

/-! ### The boundary -/

theorem Tidy.receiveWork (hs : Tidy s) : Tidy (receiveWork s) := by
  unfold Machine.receiveWork
  split
  · exact hs
  next c _ =>
    have waited := hs.of_frame (withReceiving_frame (some { c with wait := c.wait + 1 }) s)
    dsimp only
    split
    · split
      · exact waited.failAttempt _
      · split
        · exact waited.of_frame (offerRequest_frame _)
        · exact waited
    · exact hs

theorem Tidy.runStage (hs : Tidy s) (rep : LabelReport) (st : Stage) : Tidy (runStage rep st s) := by
  cases st with
  | apply => exact hs.applyPass
  | expiry => exact hs.foldl fun _ ht _ _ => ht.expireEntry _
  | station => exact hs.stationWork rep
  | retest => exact hs.retestQuorum
  | ratifyOffers => exact hs.reofferRatify
  | proposeOffers => exact hs.reofferPropose
  | recitalSend => exact hs.of_frame (reofferRecital_frame s)
  | recitalReceive => exact hs.receiveWork

theorem Tidy.moveWindows (hs : Tidy s) (j : Int) : Tidy (moveWindows j s) := by
  unfold Machine.moveWindows
  split
  · exact hs.of_map (setEntries_frame _ s) rfl fun e _ => by unfold Entry.moveWindow; split <;> rfl
  · exact hs

theorem Tidy.boundary (hs : Tidy s) (ord : BoundaryOrder) : Tidy (boundary ord s) := by
  have moved := (hs.of_frame (takeLabel_frame ord.passBeforeTest s)).moveWindows
    (takeLabel ord.passBeforeTest s).1.jump
  have worked : Tidy (runStages ord (takeLabel ord.passBeforeTest s).1 (Machine.moveWindows
      (takeLabel ord.passBeforeTest s).1.jump (takeLabel ord.passBeforeTest s).2)) :=
    moved.foldl fun _ ht st _ => ht.runStage _ st
  exact (worked.of_frame (realignIfAdopted_frame _ _)).of_frame (outputsBoundary_frame _)

theorem Tidy.setClock (hs : Tidy s) (c : Clock) : Tidy (s.setClock c) := hs.of_frame (setClock_frame c s)

theorem Tidy.secinEdge (hs : Tidy s) (ord : BoundaryOrder) : Tidy (secinEdge ord s) := by
  unfold Machine.secinEdge
  split
  · split
    · unfold spuriousEdge
      dsimp only
      split
      · exact hs.raise _
      · split
        · exact ((hs.setClock _).boundary ord).raise _
        · exact (hs.setClock _).raise _
    · exact (hs.setClock _).boundary ord
  · exact (hs.setClock _).boundary ord

theorem Tidy.substitutedBoundary (hs : Tidy s) (ord : BoundaryOrder) : Tidy (substitutedBoundary ord s) := by
  unfold Machine.substitutedBoundary
  split
  · exact ((hs.setClock _).boundary ord).raise _
  · exact hs

/-! ### The line -/

theorem Tidy.setLine (hs : Tidy s) (l : Line) : Tidy (s.setLine l) := hs.of_frame (setLine_frame l s)

theorem Tidy.setQueue (hs : Tidy s) (q : List Frame) : Tidy (s.setQueue q) := hs.of_frame (setQueue_frame q s)

theorem Tidy.frameBegin (hs : Tidy s) : Tidy (frameBegin s) := by
  unfold Machine.frameBegin
  split
  · have purged := (hs.setQueue (s.line.queue.dropWhile s.headPurged)).foldl
      (l := s.line.queue.takeWhile s.headPurged) fun _ ht f _ => ht.reportPurged f
    unfold beginHead
    split
    · exact purged
    · split
      · exact purged.setLine _
      · exact purged
  · exact hs

theorem Tidy.frameSent (hs : Tidy s) : Tidy (frameSent s) := by
  unfold Machine.frameSent
  split
  · split
    · have dropped := (hs.setLine (s.line.toIdle 0)).setQueue (dropInTx s.line.queue)
      unfold unlessSilent
      split
      · exact dropped
      · exact dropped.reportSent _
    · exact hs
  · exact hs

theorem Tidy.abandonFrame (hs : Tidy s) (f : Frame) : Tidy (abandonFrame f s) := (hs.reportAbandoned f).raise _

theorem Tidy.clashNow (hs : Tidy s) : Tidy (clashNow s) := by
  unfold Machine.clashNow
  split
  next f _ _ =>
    have clashed (q : List Frame) := (hs.setLine (lineAfterClash s f)).setQueue q
    split
    · dsimp only
      split
      · exact clashed _
      · exact (clashed _).reportPurged _
      · split
        · exact (clashed _).abandonFrame _
        · exact clashed _
    · exact hs
  · exact hs

theorem Tidy.abandonNow (hs : Tidy s) : Tidy (abandonNow s) := by
  unfold Machine.abandonNow
  split
  · unfold abandonStanding
    split
    · exact (hs.setQueue _).abandonFrame _
    · exact hs
  · split
    · exact hs.clashNow
    · exact hs

/-- A line reset keeps the settled entries (R41). -/
theorem Tidy.lineReset (hs : Tidy s) (source : ResetSource) : Tidy (lineReset source s) := by
  unfold Machine.lineReset
  split
  · exact hs
  · refine Tidy.raise ?_ _
    have kept : Tidy
        { s with
          table := s.table.lineReset
          line := s.line.lineReset
          sending := none
          receiving := none
          roster := Vector.replicate 16 Slot.absent
          station := s.station.lineReset } := by
      refine hs.of_bare ⟨rfl, rfl⟩ ?_
      have eq : (keptByLineReset s.table.entries).map Entry.bare =
          (s.table.entries.filter Entry.settled).map Entry.bare := by
        rw [keptByLineReset, List.map_map]
        exact List.map_congr_left fun e _ => by dsimp only [Function.comp]; split <;> rfl
      exact eq ▸ List.filter_sublist.map _
    unfold joinAfterReset
    split
    · exact kept
    · exact (kept.enterState .joining).withStation _

/-! ### The received frames -/

theorem storeRefusal_room {r : Record} (h : s.storeRefusal r = none) : s.hasRoom r.kind = true := by
  unfold State.storeRefusal at h
  split at h
  · simp at h
  · split at h
    · assumption
    · simp at h

theorem Tidy.takeVerdict (hs : Tidy s) (r : Record) (v : Verdict) : Tidy (takeVerdict r v s) := by
  unfold Machine.takeVerdict
  split
  · exact hs
  · split
    · exact hs.of_frame (rejectProposal_frame _ _ s)
    next flags =>
      split
      · exact hs.of_frame (rejectProposal_frame _ _ s)
      next free =>
        have stored := hs.storeEntry (st := .proposed) (set := receivedEndorsers s r.id.proposer) (flags := flags)
          (w := some (s.clock.label + s.plan.e + 2)) (m := .none) (o := .line) (storeRefusal_none free)
          (storeRefusal_room free) (.inl rfl)
        have flagged := stored.of_frame (raiseFlagged_frame r.id flags _)
        unfold storeProposal
        dsimp only
        split
        · exact flagged.offer _
        · exact flagged

theorem Tidy.takePropose (hs : Tidy s) (w : VerdictTime) (sender : Nat) (body : List Byte) :
    Tidy (takePropose w sender body s) := by
  unfold Machine.takePropose
  split
  · exact hs
  · split
    · exact hs.raise _
    · split
      · cases w with
        | atOnce => exact hs.takeVerdict _ _
        | stored => exact hs.takeVerdict _ _
        | later => exact hs.of_frame (awaiting_frame _ s)
      · exact hs.raise _

theorem Tidy.takeEndorse (hs : Tidy s) (sender : Nat) (body : List Byte) : Tidy (takeEndorse sender body s) := by
  unfold Machine.takeEndorse
  split
  · exact hs
  · split
    · split
      · exact hs.addEndorsers _ _
      · exact hs
    · exact hs

theorem Tidy.takeObject (hs : Tidy s) (sender : Nat) (body : List Byte) : Tidy (takeObject sender body s) := by
  unfold Machine.takeObject
  split
  · exact hs
  · split
    · exact hs.raise _
    · split
      · exact hs
      · split
        · exact hs.freeEntry _ _
        · exact hs.raise _

theorem Tidy.takeRatify (hs : Tidy s) (sender : Nat) (body : List Byte) : Tidy (takeRatify sender body s) := by
  unfold Machine.takeRatify
  split
  · exact hs
  · dsimp only
    split
    · exact hs.raise _
    · split
      · exact hs.of_frame (missEntry_frame _ _ s)
      next e he =>
        split
        · exact hs.ratifyClaim ((find_id he).symm ▸ he) _
        · exact hs

theorem Tidy.deliver (hs : Tidy s) (w : VerdictTime) (k : FrameKind) (sender : Nat) (body : List Byte) :
    Tidy (deliver w k sender body s) := by
  cases k with
  | beacon => exact hs.of_frame (takeBeacon_frame sender body s)
  | propose => exact hs.takePropose w sender body
  | endorse => exact hs.takeEndorse sender body
  | object => exact hs.takeObject sender body
  | ratify => exact hs.takeRatify sender body
  | reciteReq => exact hs.of_frame (takeReciteReq_frame sender body s)
  | recital => exact hs.takeRecitalFrame _ _ _
  | scaleState => exact hs.takeRecitalFrame _ _ _

theorem Tidy.handOn (hs : Tidy s) (w : VerdictTime) (k : FrameKind) (sender : Nat) (body : List Byte) :
    Tidy (handOn w k sender body s) :=
  ((hs.setLine _).of_frame (reportSender_frame sender _)).deliver w k sender body

theorem Tidy.receiveTyped (hs : Tidy s) (w : VerdictTime) (k : FrameKind) (sender : Nat) (body : List Byte) :
    Tidy (receiveTyped w k sender body s) := by
  unfold Machine.receiveTyped
  split
  · split
    · exact hs.of_frame (discardFrame_frame _ _ _ _ _ s)
    · exact hs.handOn _ _ _ _
  · exact hs

theorem Tidy.receiveRaw (hs : Tidy s) (f : RawFrame) : Tidy (receiveRaw f s) := by
  unfold Machine.receiveRaw
  split
  · split
    · exact hs.of_frame (discardFrame_frame _ _ _ _ _ s)
    · exact hs.handOn _ _ _ _
  · exact hs

/-! ### Local proposals and the claims on their way -/

theorem Tidy.respond (hs : Tidy s) (code : Byte) (st : Status) (r : Nat) (d : Data) : Tidy (respond code st r d s) :=
  hs.of_frame (respond_frame code st r d s)

theorem Tidy.announce (hs : Tidy s) (whole : Bool) (code : Byte) (r : Record) (flags : List CfgRule) :
    Tidy (announce whole code r flags s) := by
  unfold Machine.announce
  split
  · split
    · exact (hs.ratifyOwn _).respond _ _ _ _
    · exact Tidy.respond (hs.of_frame (claiming_frame _ s)) _ _ _ _
  · exact (hs.offerPropose r).respond _ _ _ _

theorem Tidy.takeOwnVerdict (hs : Tidy s) (whole : Bool) (code : Byte) (r : Record) (v : Verdict) :
    Tidy (takeOwnVerdict whole code r v s) := by
  unfold Machine.takeOwnVerdict
  split
  · exact hs.respond _ _ _ _
  · split
    · exact hs.of_frame (refuseProposal_frame _ _ s)
    next flags =>
      split
      · exact hs.of_frame (refuseProposal_frame _ _ s)
      next free =>
        have stored := hs.storeEntry (st := .proposed) (set := addStation noStations s.pins.stn) (flags := flags)
          (w := some (s.clock.label + s.plan.e)) (m := .none) (o := .ownPort) (storeRefusal_none free)
          (storeRefusal_room free) (.inl rfl)
        have own : Tidy (storeOwn r flags s) := (stored.setSeq _).of_frame (raiseFlagged_frame r.id flags _)
        exact own.announce _ _ _ _

theorem Tidy.proposeOwn (hs : Tidy s) (w : VerdictTime) (code : Byte) (mk : Option (Word → Record)) :
    Tidy (proposeOwn w code mk s) := by
  unfold Machine.proposeOwn
  split
  · exact hs.respond _ _ _ _
  · split
    · exact hs.respond _ _ _ _
    · split
      · have found := hs.setSeq (freeSequence s s.held s.table.nextSeq)
        cases w with
        | atOnce => exact found.takeOwnVerdict _ _ _ _
        | stored => exact found.takeOwnVerdict _ _ _ _
        | later => exact (found.of_frame (emptied_frame _)).of_frame (awaiting_frame _ _)
      · exact hs.respond _ _ _ _

theorem Tidy.take (hs : Tidy s) (v : PendingVerdict) : Tidy (v.take s) := by
  cases v with
  | line r v => exact hs.takeVerdict r v
  | port code r v => exact hs.takeOwnVerdict _ code r v
  | ratify id =>
    change Tidy (ratifyStored id s)
    unfold ratifyStored
    split
    · split
      · exact hs.ratifyOwn id
      · exact hs
    · exact hs

/-! ### The commands -/

/-- A configuration request changes nothing but the port, or is taken before START, when no entry is held (R185). -/
theorem Tidy.configure (hs : Tidy s) (quiescent : Quiescent s) (code : Byte) {change : Option (State → State)}
    (stands : ∀ f ∈ change, (f s).table.entries = s.table.entries) : Tidy (configure code change s) := by
  unfold Machine.configure
  split
  · exact hs.respond _ _ _ _
  next un =>
    split
    · exact hs.respond _ _ _ _
    next f =>
      have unheld := quiescent.2.resolve_left fun h => un h
      exact Tidy.of_empty ((stands f rfl).trans unheld)

theorem Tidy.start (hs : Tidy s) (quiescent : Quiescent s) (h : execStart s = .next t) : Tidy t := by
  unfold execStart at h
  split at h
  · exact of_next h (hs.respond _ _ _ _)
  next un =>
    have unheld := quiescent.2.resolve_left fun h => un h
    split at h
    · exact of_next h (Tidy.respond (hs.of_frame (drawn_frame s)) _ _ _ _)
    · refine of_next h (Tidy.respond (Tidy.of_empty ?_) _ _ _ _)
      rw [startUp, ((quenchAtStart_frame .qa _).trans (quenchAtStart_frame .qb _)).table]
      exact unheld

theorem Tidy.attChange (hs : Tidy s) (high : Bool) (h : execAttChange high s = .next t) : Tidy t := by
  have level : Tidy { s with pins := { s.pins with att := high } } := ⟨hs.bounded, hs.apart⟩
  unfold execAttChange at h
  dsimp only at h
  split at h
  · exact of_next h hs
  · split at h
    · exact of_next h (level.enterState _)
    · exact of_next h (level.enterState _)
    · exact of_next h level

theorem Tidy.exec {c : Instr} (hs : Tidy s) (quiescent : Quiescent s) (h : exec c s = .next t) : Tidy t := by
  cases c with
  | setPlan a =>
    refine of_next h (hs.configure quiescent _ fun f hf => ?_)
    obtain ⟨plan, -, rfl⟩ := Option.map_eq_some_iff.1 hf
    rfl
  | defineScale k kind parent v c =>
    refine of_next h (hs.configure quiescent _ fun f hf => ?_)
    obtain ⟨sc, -, rfl⟩ := Option.map_eq_some_iff.1 hf
    rw [setScale_table]
  | start => exact hs.start quiescent h
  | reset stn lrate => exact of_next h (Tidy.of_empty rfl)
  | proposeLeap scale kind turn => exact of_next h (hs.proposeOwn _ _ _)
  | proposeOffset scale turn offset => exact of_next h (hs.proposeOwn _ _ _)
  | proposeCustody scale custodian => exact of_next h (hs.proposeOwn _ _ _)
  | proposeWithdraw proposer seq => exact of_next h (hs.proposeOwn _ _ _)
  | rejoin =>
    rw [show Machine.exec .rejoin s = execRejoin s from rfl, execRejoin] at h
    split at h
    · exact of_next h (hs.respond _ _ _ _)
    · exact of_next h ((hs.lineReset _).respond _ _ _ _)
  | lreset => exact of_next h (hs.lineReset _)
  | attChange high => exact hs.attChange high h
  | secinEdge ord => exact of_next h (hs.secinEdge ord)
  | substitutedBoundary ord => exact of_next h (hs.substitutedBoundary ord)
  | windowExpiry id => exact of_next h (hs.expireEntry id)
  | endOfListening => exact of_next h hs.endListeningIfDue
  | recitalTimeout =>
    refine of_next h ?_
    unfold timeoutIfDue
    split
    · split
      · exact hs.failAttempt _
      · exact hs
    · exact hs
  | frameBegin => exact of_next h hs.frameBegin
  | frameSent => exact of_next h hs.frameSent
  | clash => exact of_next h hs.clashNow
  | frameAbandoned => exact of_next h hs.abandonNow
  | rxFrameInvalid f => exact of_next h (hs.receiveRaw f)
  | beacon sender body => exact of_next h (hs.receiveTyped _ _ _ _)
  | propose sender body => exact of_next h (hs.receiveTyped _ _ _ _)
  | endorse sender body => exact of_next h (hs.receiveTyped _ _ _ _)
  | object sender body => exact of_next h (hs.receiveTyped _ _ _ _)
  | ratify sender body => exact of_next h (hs.receiveTyped _ _ _ _)
  | reciteReq sender body => exact of_next h (hs.receiveTyped _ _ _ _)
  | recital sender body => exact of_next h (hs.receiveTyped _ _ _ _)
  | scaleState sender body => exact of_next h (hs.receiveTyped _ _ _ _)
  | _ => exact hs.of_frame (exec_frame _ h) (by simp [touches]) (by simp [touches]) (by simp [touches])

end

/-- Settles O58: each command, each claim and each tick keeps the table tidy. -/
theorem stepsKeepTheTableBounded : Obligations.StepsKeepTheTableBounded := by
  intro s t quiescent _ bounded apart h
  have tidy : Tidy t := step_keeps (I := fun s => Quiescent s ∧ Tidy s) (J := Tidy)
    (fun s t frame hs => ⟨by simpa only [Quiescent, State.started, frame.line, frame.station, frame.table] using hs.1,
      hs.2.of_frame frame⟩)
    (fun c s t hs hc => hs.2.exec hs.1 hc)
    (fun s v vs hs _ => (hs.2.of_frame (withVerdicts_frame vs s)).take v)
    (fun s hs _ => hs.2.of_frame (tick_frame s))
    ⟨quiescent, bounded, apart⟩ h
  exact ⟨tidy.bounded, tidy.apart⟩

end Sys2Proof.Machine
end

section
/-! SUPPORT. A local proposal from its request to its screening, and the answer of the screening rule by rule (R23, R26,
R44, R57, R83). -/

namespace Sys2Proof.Machine

set_option Elab.async false

section
variable {s : State} {i : Instr} {code : Byte}

/-! ### The request of a local proposal -/

/-- A way to form records from sequences forms those of a local proposal request: each of the same fields but for the
sequence (R83). -/
structure FormsRecord (s : State) (i : Instr) (mk : Option (Word → Record)) : Prop where
  record : ∀ q, proposalRecord s.pins.stn q i = mk.map fun f => f q
  fields : ∀ f ∈ mk, ∀ q, (f q).fieldsOk s.plan.n = (f 0).fieldsOk s.plan.n

theorem leapKind_eq (kind : Byte) :
    leapKind kind.toNat = if kind = 1 then some .leapAdd else if kind = 2 then some .leapDrop else none := by
  simp only [← BitVec.toNat_inj]
  unfold leapKind
  split <;> simp_all

/-- A local proposal request forms its record and proposes it (R83, R188). -/
theorem exec_proposal (h : proposalCode i = some code) (s : State) :
    ∃ mk, exec i s = .next (proposeOwn (proposalVerdict i) code mk s) ∧ FormsRecord s i mk := by
  cases i with
  | proposeLeap scale kind turn =>
    obtain rfl := Option.some.inj h
    refine ⟨_, rfl, fun q => ?_, fun f hf q => ?_⟩
    · rw [leapKind_eq, proposalRecord]
      split
      · rfl
      · split <;> rfl
    · obtain ⟨k, -, rfl⟩ := Option.map_eq_some_iff.1 hf
      rfl
  | proposeOffset scale turn offset =>
    obtain rfl := Option.some.inj h
    exact ⟨_, rfl, fun q => rfl, fun f hf q => by obtain rfl := Option.some.inj hf; rfl⟩
  | proposeCustody scale custodian =>
    obtain rfl := Option.some.inj h
    exact ⟨_, rfl, fun q => rfl, fun f hf q => by obtain rfl := Option.some.inj hf; rfl⟩
  | proposeWithdraw proposer seq =>
    obtain rfl := Option.some.inj h
    refine ⟨_, rfl, fun q => ?_, fun f hf q => ?_⟩
    · by_cases high : 15 < proposer.toNat
      · rw [if_pos high, proposalRecord, if_neg (by omega)]; rfl
      · rw [if_neg high, proposalRecord, if_pos (by omega)]; rfl
    · split at hf
      · exact absurd hf (by simp)
      · obtain rfl := Option.some.inj hf
        rfl
  | _ => simp [proposalCode] at h

theorem freeSequence_eq {q : Word} (h : sequenceFound s q) : freeSequence s s.held s.table.nextSeq = q := by
  obtain ⟨k, hk, rfl, free, before⟩ := h
  obtain ⟨j, hj, eq, held, stops⟩ := freeSequence_spec s s.held s.table.nextSeq
  have same : j = k := by
    obtain less | same | more := Nat.lt_trichotomy j k
    · exact absurd (before j less) (by simp [stops (by omega)])
    · exact same
    · exact absurd (held k more) (by simp [free])
  rw [eq, same]

theorem proposal_inactive (h : proposalCode i = some code) (inactive : s.station.state ≠ .active) :
    exec i s = .next { s with port := refusedPort code .state } := by
  obtain ⟨mk, eq, -⟩ := exec_proposal h s
  rw [eq]
  unfold proposeOwn
  rw [if_pos inactive]
  rfl

theorem proposal_unformed (h : proposalCode i = some code) (active : s.station.state = .active)
    (unformed : ∀ r, proposalRecord s.pins.stn s.table.nextSeq i = some r → r.fieldsOk s.plan.n = false) :
    exec i s = .next { s with port := refusedPort code .range } := by
  obtain ⟨mk, eq, forms⟩ := exec_proposal h s
  rw [eq]
  unfold proposeOwn
  rw [if_neg (not_not.2 active)]
  cases mk with
  | none => rfl
  | some f =>
    have bad := unformed _ (forms.record _)
    rw [forms.fields f rfl] at bad
    dsimp only
    rw [if_neg (Bool.eq_false_iff.1 bad)]
    rfl

/-- A record that is formed with the sequence found is screened (R83, steps 3 and 4). -/
theorem proposal_judged {q : Word} {r : Record} (h : proposalCode i = some code) (active : s.station.state = .active)
    (found : sequenceFound s q) (formed : proposalRecord s.pins.stn q i = some r) (fields : r.fieldsOk s.plan.n = true) :
    exec i s = .next (judgeOwn (proposalVerdict i) code r (s.setSeq q)) := by
  obtain ⟨mk, eq, forms⟩ := exec_proposal h s
  rw [forms.record] at formed
  obtain ⟨f, rfl, rfl⟩ := Option.map_eq_some_iff.1 formed
  rw [forms.fields f rfl] at fields
  rw [eq]
  unfold proposeOwn
  rw [if_neg (not_not.2 active)]
  dsimp only
  rw [if_pos fields, freeSequence_eq found]

/-- The answer of R57 to a rejected local proposal. -/
theorem refuseProposal_eq (code : Byte) (reason : Reason) (s : State) :
    refuseProposal code reason s =
      { s with
        port :=
          if reason = .notCustodian then refusedPort code .notCustodian
          else if reason = .tableFull then refusedPort code .tableFull
          else Port.answer code .screen reason.code .none } := by
  cases reason <;> rfl

theorem proposal_rejected {q : Word} {r : Record} {reason : Reason} (h : proposalCode i = some code)
    (now : proposalVerdict i ≠ .later) (active : s.station.state = .active) (found : sequenceFound s q)
    (formed : proposalRecord s.pins.stn q i = some r) (fields : r.fieldsOk s.plan.n = true)
    (rejects : screen (s.setSeq q) r = .reject reason) : exec i s = .next (refuseProposal code reason (s.setSeq q)) := by
  have judged (whole : Bool) :
      takeOwnVerdict whole code r (screen (s.setSeq q) r) (s.setSeq q) = refuseProposal code reason (s.setSeq q) := by
    rw [rejects, takeOwnVerdict, if_neg (by simp [active])]
  rw [proposal_judged h active found formed fields]
  cases w : proposalVerdict i with
  | atOnce => exact congrArg _ (judged true)
  | stored => exact congrArg _ (judged false)
  | later => exact absurd w now

/-! ### The verdict of the screening (R44) -/

variable {r : Record}

theorem screen_fixed {reason : Reason} (fields : r.fieldsOk s.plan.n = true) (fails : fixedFails s r reason)
    (first : ∀ x : Reason, x.code < reason.code → ¬ fixedFails s r x) : screen s r = .reject reason := by
  rw [screen, (fixedRules_spec s r fields).1 reason fails first]

theorem screen_configurable (fields : r.fieldsOk s.plan.n = true) (suits : ∀ x, ¬ fixedFails s r x) :
    screen s r = configurableRules s r cfgRules [] := by
  rw [screen, (fixedRules_spec s r fields).2.2 suits]

theorem mem_cfgRules (x : CfgRule) : x ∈ cfgRules := by cases x <;> decide

theorem cfgRules_ordered : cfgRules.Pairwise fun x y => x.reason.code < y.reason.code := by decide

/-- The rules before a rule in the order of R44 are those of lower reason codes. -/
theorem code_lt_of_mem_takeWhile {x y : CfgRule} (h : y ∈ cfgRules.takeWhile (· ≠ x)) :
    y.reason.code < x.reason.code := by
  revert h
  cases x <;> cases y <;> decide

theorem screen_rejects {x : CfgRule} (plain : screen s r = configurableRules s r cfgRules [])
    (passes : ∀ c : CfgRule, c.passes s r = false ↔ cfgFails s r c) (action : s.plan.action x = .reject)
    (fails : cfgFails s r x)
    (first : ∀ y : CfgRule, y.reason.code < x.reason.code → s.plan.action y = .reject → ¬ cfgFails s r y) :
    screen s r = .reject x.reason := by
  refine plain.trans ((configurableRules_spec s r cfgRules []).1 x (mem_cfgRules x) action ((passes x).2 fails) ?_)
  intro y hy act
  have stands := first y (code_lt_of_mem_takeWhile hy) act
  rwa [← passes, Bool.not_eq_false] at stands

theorem screen_accepts (plain : screen s r = configurableRules s r cfgRules [])
    (passes : ∀ c : CfgRule, c.passes s r = false ↔ cfgFails s r c)
    (stand : ∀ x, s.plan.action x = .reject → ¬ cfgFails s r x) :
    ∃ flags : List CfgRule, screen s r = .accept flags ∧
      flags.Pairwise (fun x y => x.reason.code < y.reason.code) ∧
      ∀ x, x ∈ flags ↔ s.plan.action x = .flag ∧ cfgFails s r x := by
  refine ⟨cfgRules.filter fun x => s.plan.action x == .flag && !x.passes s r, ?_, cfgRules_ordered.filter _, ?_⟩
  · refine plain.trans ((configurableRules_spec s r cfgRules []).2 fun x _ act => ?_)
    have stands := stand x act
    rwa [← passes, Bool.not_eq_false] at stands
  · intro x
    rw [List.mem_filter, and_iff_right (mem_cfgRules x), Bool.and_eq_true, beq_iff_eq, Bool.not_eq_true', passes]

end

/-- Settles O10: the state, the form and the screening each turn a proposal away, and the rules of screening decide in
their order. -/
theorem proposalsAreTurnedAwayOrRejected : Obligations.ProposalsAreTurnedAwayOrRejected := by
  refine ⟨fun s i code h => ⟨proposal_inactive h, proposal_unformed h, ?_⟩, fun s r fields => ⟨?_, ?_⟩⟩
  · intro q r reason now active found formed fields rejects
    rw [proposal_rejected h now active found formed fields rejects, refuseProposal_eq]
    rfl
  · exact fun reason => screen_fixed fields
  · intro suits apart sound parents
    have plain := screen_configurable fields suits
    have passes := passes_eq_false_iff s r fields suits apart sound parents
    exact ⟨fun x => screen_rejects plain passes, screen_accepts plain passes⟩

end Sys2Proof.Machine
end

section
/-! SUPPORT. A shelf of one station: what the ratification claim makes of an own entry, and the store of a local proposal
with its ratification at once or as a later claim (R31, R32, R85, R88, R90). -/

namespace Sys2Proof.Machine

set_option Elab.async false

section
variable {s : State} {e : Entry}

/-! ### The ratification claim by kinds (R31) -/

theorem ratifyClaim_free (scheduled : e.kind.scheduled = true) (free : s.settledConflicts e.toRecord = [])
    (set : StationSet) :
    ratifyClaim e set s = raise (.ratified e.id set .none)
      (s.modify e.id fun x => { x with state := .ratified, window := none, endorsers := set }) := by
  unfold ratifyClaim
  cases kind : e.kind <;> simp_all [Kind.scheduled]

theorem ratifyClaim_conflict (scheduled : e.kind.scheduled = true) (conflict : s.settledConflicts e.toRecord ≠ [])
    (set : StationSet) : ratifyClaim e set s = freeEntry e.id (.refused e.id .spacing s.pins.stn) s := by
  unfold ratifyClaim
  cases kind : e.kind <;> simp_all [Kind.scheduled]

theorem ratifyClaim_custody (kind : e.kind = .custody) (set : StationSet) :
    ratifyClaim e set s = freeExecuted e.id set
      (s.setScale (e.scale.getD 0) { s.scale (e.scale.getD 0) with custodian := e.value.map Int.toNat }) := by
  unfold ratifyClaim
  rw [kind]

theorem ratifyClaim_withdraw (kind : e.kind = .withdraw) {x : Ident} (target : e.target = some x) (set : StationSet) :
    ratifyClaim e set s = freeExecuted e.id set (withdrawTarget x e.id s) := by
  unfold ratifyClaim
  rw [kind, target]
  rfl

theorem freeExecuted_noticed (id : Ident) (set : StationSet) (s : State) : noticed (freeExecuted id set s) .ratified :=
  raise_noticed (.ratified id set .executed) _

/-! ### The target of a withdrawal (R31, R99) -/

theorem withdrawTarget_other {x y : Ident} (other : y ≠ x) (w : Ident) :
    (withdrawTarget x w s).find y = s.find y := by
  unfold withdrawTarget
  split
  · rfl
  · split
    · rfl
    · rw [find_freeEntry, if_neg other]

theorem withdrawTarget_applying {x : Ident} {t : Entry} (held : s.find x = some t) (late : t.state = .applying)
    (w : Ident) : withdrawTarget x w s = raise (.withdrawTooLate x w) s := by
  unfold withdrawTarget
  rw [held]
  exact if_pos late

theorem withdrawTarget_held {x : Ident} {t : Entry} (held : s.find x = some t) (early : t.state ≠ .applying)
    (w : Ident) : withdrawTarget x w s = freeEntry x (.withdrawn x w) s := by
  unfold withdrawTarget
  rw [held]
  exact if_neg early

theorem withdrawTarget_nextSeq (x w : Ident) (s : State) :
    (withdrawTarget x w s).table.nextSeq = s.table.nextSeq := by
  unfold withdrawTarget
  split
  · rfl
  · split <;> rfl

/-! ### The fields of a record without a turn (R23) -/

theorem withdraw_target {n : Nat} {r : Record} (fields : r.fieldsOk n = true) (kind : r.kind = .withdraw) :
    ∃ x, r.target = some x := by
  unfold Record.fieldsOk at fields
  rw [kind] at fields
  exact Option.isSome_iff_exists.1 (by simp_all)

theorem custody_scale {n k : Nat} {r : Record} (fields : r.fieldsOk n = true) (kind : r.kind = .custody)
    (scale : r.scale = some k) : 1 ≤ k ∧ k ≤ 5 := by
  unfold Record.fieldsOk scaleFieldOk at fields
  rw [kind, scale] at fields
  simp_all

theorem unscheduled_cases {k : Kind} (h : k.scheduled = false) : k = .custody ∨ k = .withdraw := by
  cases k <;> simp_all [Kind.scheduled]

/-! ### What the claim makes of an entry -/

/-- The outcome of the ratification claim on an entry with its own endorsers (R31, R32). -/
structure Claimed (e : Entry) (s t : State) : Prop where
  ratified : e.kind.scheduled = true → s.settledConflicts e.toRecord = [] →
    t.find e.id = some { e with state := .ratified, window := none } ∧ raised (.ratified e.id e.endorsers .none) s t
  refused : e.kind.scheduled = true → s.settledConflicts e.toRecord ≠ [] →
    t.find e.id = none ∧ raised (.refused e.id .spacing s.pins.stn) s t
  executed : e.kind.scheduled = false → t.find e.id = none ∧ noticed t .ratified
  custodian : ∀ k c, e.kind = .custody → e.scale = some k → e.value = some c →
    t.scale k = { s.scale k with custodian := some c.toNat }
  tooLate : ∀ x w, e.kind = .withdraw → e.target = some x → s.find x = some w → w.state = .applying → x ≠ e.id →
    t.find x = some w ∧ noticed t .withdrawTooLate
  withdrawn : ∀ x w, e.kind = .withdraw → e.target = some x → s.find x = some w → w.state ≠ .applying →
    t.find x = none ∧ noticed t .withdrawn
  others : ∀ y, y ≠ e.id → e.target ≠ some y → t.find y = s.find y
  nextSeq : t.table.nextSeq = s.table.nextSeq

variable {n : Nat}

theorem claimed_scheduled (he : s.find e.id = some e) (scheduled : e.kind.scheduled = true) :
    Claimed e s (ratifyClaim e e.endorsers s) := by
  have custody : e.kind ≠ .custody := by rintro h; simp [h, Kind.scheduled] at scheduled
  have withdraw : e.kind ≠ .withdraw := by rintro h; simp [h, Kind.scheduled] at scheduled
  by_cases free : s.settledConflicts e.toRecord = []
  · have eq := ratifyClaim_free scheduled free e.endorsers
    have found (y : Ident) := find_modify s e.id
      (fun x => { x with state := .ratified, window := none, endorsers := e.endorsers }) (by simp) y
    exact {
      ratified := fun _ _ => by
        rw [eq]
        exact ⟨(found e.id).trans (by rw [if_pos rfl, he]; rfl), rfl⟩
      refused := fun _ conflict => absurd free conflict
      executed := fun un => absurd scheduled (by simp [un])
      custodian := fun _ _ kind => absurd kind custody
      tooLate := fun _ _ kind => absurd kind withdraw
      withdrawn := fun _ _ kind => absurd kind withdraw
      others := fun y other _ => by rw [eq]; exact (found y).trans (if_neg other)
      nextSeq := by rw [eq]; rfl }
  · have eq := ratifyClaim_conflict scheduled free e.endorsers
    exact {
      ratified := fun _ none => absurd none free
      refused := fun _ _ => by rw [eq]; exact ⟨by rw [find_freeEntry, if_pos rfl], freeEntry_raised _ s⟩
      executed := fun un => absurd scheduled (by simp [un])
      custodian := fun _ _ kind => absurd kind custody
      tooLate := fun _ _ kind => absurd kind withdraw
      withdrawn := fun _ _ kind => absurd kind withdraw
      others := fun y other _ => by rw [eq, find_freeEntry, if_neg other]
      nextSeq := by rw [eq]; rfl }

theorem claimed_custody (fields : e.toRecord.fieldsOk n = true) (kind : e.kind = .custody) :
    Claimed e s (ratifyClaim e e.endorsers s) := by
  have eq := ratifyClaim_custody (s := s) kind e.endorsers
  have unscheduled : e.kind.scheduled = false := by rw [kind]; rfl
  have found (y : Ident) := (congrArg (State.find · y) eq).trans (find_freeExecuted _ _ _ y)
  exact {
    ratified := fun sch => absurd sch (by simp [unscheduled])
    refused := fun sch => absurd sch (by simp [unscheduled])
    executed := fun _ => ⟨(found e.id).trans (if_pos rfl), eq ▸ freeExecuted_noticed _ _ _⟩
    custodian := fun k c _ scale value => by
      obtain ⟨low, high⟩ := custody_scale fields kind scale
      rw [eq, scale, value, scale_of_scales (freeExecuted_frame _ _ _).scales]
      exact setScale_scale low high _
    tooLate := fun _ _ other => absurd (kind.symm.trans other) (by decide)
    withdrawn := fun _ _ other => absurd (kind.symm.trans other) (by decide)
    others := fun y other _ => ((found y).trans (if_neg other)).trans (find_of_table (setScale_table _ _ _) y)
    nextSeq := by rw [eq, ← congrArg Table.nextSeq (setScale_table s _ _)]; rfl }

theorem claimed_withdraw (fields : e.toRecord.fieldsOk n = true) (kind : e.kind = .withdraw) :
    Claimed e s (ratifyClaim e e.endorsers s) := by
  obtain ⟨target, names⟩ := withdraw_target fields kind
  have eq := ratifyClaim_withdraw (s := s) kind names e.endorsers
  have unscheduled : e.kind.scheduled = false := by rw [kind]; rfl
  have found (y : Ident) := (congrArg (State.find · y) eq).trans (find_freeExecuted _ _ _ y)
  have stays (k : NoticeKind) (h : noticed (withdrawTarget target e.id s) k) :
      noticed (ratifyClaim e e.endorsers s) k := eq ▸ (freeExecuted_remains _ _ _).noticed k h
  exact {
    ratified := fun sch => absurd sch (by simp [unscheduled])
    refused := fun sch => absurd sch (by simp [unscheduled])
    executed := fun _ => ⟨(found e.id).trans (if_pos rfl), eq ▸ freeExecuted_noticed _ _ _⟩
    custodian := fun _ _ other => absurd (kind.symm.trans other) (by decide)
    tooLate := fun x w _ names' held late other => by
      obtain rfl := Option.some.inj (names.symm.trans names')
      have kept := withdrawTarget_applying held late e.id
      exact ⟨(found target).trans (by rw [if_neg other, kept]; exact held), stays _ (kept ▸ raise_noticed _ s)⟩
    withdrawn := fun x w _ names' held early => by
      obtain rfl := Option.some.inj (names.symm.trans names')
      have freed := withdrawTarget_held held early e.id
      exact ⟨(found target).trans (by rw [freed, find_freeEntry, if_pos rfl, ite_self]),
        stays _ (freed ▸ freeEntry_noticed _ _ s)⟩
    others := fun y other elsewhere => by
      refine ((found y).trans (if_neg other)).trans (withdrawTarget_other ?_ _)
      rintro rfl
      exact elsewhere names
    nextSeq := by rw [eq]; exact withdrawTarget_nextSeq _ _ s }

theorem ratifyClaim_claimed (he : s.find e.id = some e) (fields : e.toRecord.fieldsOk n = true) :
    Claimed e s (ratifyClaim e e.endorsers s) := by
  cases scheduled : e.kind.scheduled with
  | true => exact claimed_scheduled he scheduled
  | false =>
    obtain custody | withdraw := unscheduled_cases scheduled
    · exact claimed_custody fields custody
    · exact claimed_withdraw fields withdraw

end

end Sys2Proof.Machine
end

section
/-! SUPPORT. The store of a local proposal on a shelf of one station, with its ratification in the same step or as a later
claim (R83, R85, R88, R90; log entry 49). -/

namespace Sys2Proof.Machine

set_option Elab.async false

section
variable {s : State} {e : Entry} {id : Ident} {r : Record} {flags : List CfgRule} {code : Byte}

/-! ### The claim of its own (R85) -/

theorem ratifyStored_gone (gone : ∀ e, s.find id = some e → e.state ≠ .proposed) : ratifyStored id s = s := by
  unfold ratifyStored
  split
  next e he => exact if_neg (gone e he)
  next => rfl

theorem ratifyStored_held (he : s.find id = some e) (proposed : e.state = .proposed) :
    ratifyStored id s = ratifyOwn id s := by
  unfold ratifyStored
  rw [he]
  exact if_pos proposed

/-- A kind without a turn waits for an ACTIVE station (R90). -/
theorem ratifyOwn_waits (he : s.find id = some e) (unscheduled : e.kind.scheduled = false)
    (inactive : s.station.state ≠ .active) : ratifyOwn id s = s := by
  unfold ratifyOwn
  rw [he]
  dsimp only
  rw [if_neg (by simp [unscheduled]), if_neg inactive]

/-- The claim on a held entry of a shelf of one is that of R31 (R85, R90). -/
theorem ratifyOwn_claimed (alone : s.plan.n = 1) (he : s.find id = some e) (fields : e.toRecord.fieldsOk s.plan.n = true)
    (may : e.kind.scheduled = true ∨ s.station.state = .active) : Claimed e s (ratifyOwn id s) := by
  rw [ratifyOwn_alone alone.le he may]
  exact ratifyClaim_claimed ((find_id he).symm ▸ he) fields

/-! ### The store (R83) -/

/-- An accepted local proposal is stored and announced (R83, steps 6 to 8). -/
theorem takeOwnVerdict_accept (active : s.station.state = .active) (free : s.storeRefusal r = none) (whole : Bool) :
    takeOwnVerdict whole code r (.accept flags) s = announce whole code r flags (storeOwn r flags s) := by
  unfold takeOwnVerdict
  rw [if_neg (by simp [active]), free]

/-- The entry that the store of a local proposal makes (R28, R83). -/
def ownEntry (r : Record) (flags : List CfgRule) (s : State) : Entry :=
  { r with state := .proposed, endorsers := BitVec.twoPow 16 s.pins.stn, flags := flags,
           window := some (s.clock.label + s.plan.e), stamp := s.table.nextStamp, mark := .none }

theorem find_storeOwn_own (flags : List CfgRule) (free : s.find r.id = none) :
    (storeOwn r flags s).find r.id = some (ownEntry r flags s) := by
  rw [find_storeOwn flags free, if_pos rfl]
  simp [ownEntry, addStation, noStations]

theorem find_storeOwn_other (flags : List CfgRule) (free : s.find r.id = none) {y : Ident} (other : y ≠ r.id) :
    (storeOwn r flags s).find y = s.find y := by rw [find_storeOwn flags free, if_neg other]

theorem storeOwn_entries (r : Record) (flags : List CfgRule) (s : State) :
    ∃ e : Entry, e.id = r.id ∧ (storeOwn r flags s).table.entries = insertEntry e s.table.entries := by
  unfold storeOwn
  rw [raiseFlagged_table]
  exact ⟨_, rfl, rfl⟩

/-- Nothing that fails a fixed rule is accepted (R44). -/
theorem accepted_suits (fields : r.fieldsOk s.plan.n = true) (accepts : screen s r = .accept flags) :
    ∀ x, ¬ fixedFails s r x := by
  refine (fixedRules_spec s r fields).2.1 ?_
  unfold screen at accepts
  split at accepts
  · simp at accepts
  · assumption

/-- What the screening accepts conflicts with no other entry, nor once it is stored (R50). -/
theorem storeOwn_spaced (fields : r.fieldsOk s.plan.n = true) (accepts : screen s r = .accept flags) :
    (storeOwn r flags s).settledConflicts r = [] := by
  have suits := accepted_suits fields accepts
  have spaced : spaced s r = true := by
    rw [← Bool.not_eq_false, spaced_eq_false_iff]
    exact suits .spacing
  obtain ⟨e, own, entries⟩ := storeOwn_entries r flags s
  refine settledConflicts_nil.2 fun x hx _ other => ?_
  rw [(SameRules.of_frame (storeOwn_frame r flags s)).conflicts]
  obtain rfl | hx := mem_insertEntry.1 (entries ▸ hx)
  · exact absurd own other
  · simp only [Machine.spaced, Bool.not_eq_true', List.any_eq_false, Bool.and_eq_true, decide_eq_true_eq, not_and,
      Bool.not_eq_true] at spaced
    exact spaced x hx other

/-- A WITHDRAW that the screening accepts names a held entry that is not APPLYING (R48, R51). -/
theorem accepted_target (fields : r.fieldsOk s.plan.n = true) (accepts : screen s r = .accept flags) {x : Ident}
    (target : r.target = some x) : ∃ w, s.find x = some w ∧ w.state ≠ .applying := by
  have suits := accepted_suits fields accepts
  cases held : s.find x with
  | none => exact absurd ⟨x, target, lookup_none_iff.1 (find_eq_lookup s x ▸ held)⟩ (suits .unknownTarget)
  | some w => exact ⟨w, rfl, fun late => suits .tooLate (.inr ⟨x, w, target, held, .inl late⟩)⟩

/-! ### The ratification in the step of the store -/

/-- A stored proposal of a shelf of one is ratified in the same step and answered OK (R85). -/
theorem announce_whole (alone : s.plan.n = 1) (active : s.station.state = .active) (free : s.find r.id = none)
    (fields : r.fieldsOk s.plan.n = true) :
    ∃ v, announce true code r flags (storeOwn r flags s) = respond code .ok 0 (.proposal r.id flags) v ∧
      Claimed (ownEntry r flags s) (storeOwn r flags s) v ∧
      ChangesOnly [.table, .line, .scales, .notices] (storeOwn r flags s) v := by
  have frame := storeOwn_frame r flags s
  have alone' : (storeOwn r flags s).plan.n = 1 := by rw [frame.plan, alone]
  refine ⟨_, if_pos alone'.le, ?_, ratifyOwn_frame r.id _⟩
  refine ratifyOwn_claimed alone' (find_storeOwn_own flags free) ?_ (.inr ?_)
  · rw [frame.plan]; exact fields
  · rw [frame.station]; exact active

/-- What an accepted local proposal leaves that is ratified in the step of its store (R31, R85). -/
structure SettledAtOnce (code : Byte) (q : Word) (r : Record) (flags : List CfgRule) (s t : State) : Prop where
  port : t.port = Port.answer code .ok 0 (.proposal r.id flags)
  nextSeq : t.table.nextSeq = q + 1
  scheduled : r.kind.scheduled = true → t.find r.id = some
    { r with state := .ratified, endorsers := BitVec.twoPow 16 s.pins.stn, flags := flags, window := none,
             stamp := s.table.nextStamp, mark := .none }
  executed : r.kind.scheduled = false → t.find r.id = none
  custodian : ∀ k c, r.kind = .custody → r.scale = some k → r.value = some c →
    t.scale k = { s.scale k with custodian := some c.toNat }
  withdrawn : ∀ x, r.kind = .withdraw → r.target = some x → t.find x = none ∧ noticed t .withdrawn
  others : ∀ y, y ≠ r.id → r.target ≠ some y → t.find y = s.find y
  frame : ChangesOnly [.table, .line, .scales, .port, .notices] s t

theorem settledAtOnce {q : Word} (alone : s.plan.n = 1) (active : s.station.state = .active)
    (fields : r.fieldsOk s.plan.n = true) (accepts : screen (s.setSeq q) r = .accept flags) :
    SettledAtOnce code q r flags s (takeOwnVerdict true code r (.accept flags) (s.setSeq q)) := by
  obtain ⟨free, -, taken⟩ := storeRefusal_of_accept accepts
  rw [takeOwnVerdict_accept (s := s.setSeq q) active taken]
  obtain ⟨v, eq, claimed, frame⟩ :=
    announce_whole (s := s.setSeq q) (code := code) (flags := flags) alone active free fields
  have stored := storeOwn_frame r flags (s.setSeq q)
  have other {y : Ident} (h : y ≠ r.id) : (storeOwn r flags (s.setSeq q)).find y = s.find y :=
    find_storeOwn_other flags free h
  rw [eq]
  exact {
    port := rfl
    nextSeq := claimed.nextSeq.trans (storeOwn_nextSeq r flags _)
    scheduled := fun sch => (claimed.ratified sch (storeOwn_spaced (s := s.setSeq q) fields accepts)).1
    executed := fun un => (claimed.executed un).1
    custodian := fun k c kind scale value => by
      have before : (storeOwn r flags (s.setSeq q)).scale k = s.scale k := scale_of_scales stored.scales k
      exact before ▸ claimed.custodian k c kind scale value
    withdrawn := fun x kind target => by
      obtain ⟨w, held, early⟩ := accepted_target (s := s.setSeq q) fields accepts target
      have apart : x ≠ r.id := by rintro rfl; exact absurd (free.symm.trans held) (by simp)
      exact claimed.withdrawn x w kind target ((other apart).trans held) early
    others := fun y h elsewhere => (claimed.others y h elsewhere).trans (other h)
    frame := ((setSeq_frame q s).then (rs := [.table, .notices]) stored).then
      (frame.then (rs := [.table, .line, .scales, .port, .notices]) (respond_frame _ _ _ _ v)) }

/-! ### The store with its ratification still to make -/

/-- A held entry is read at its place in the table (R38). -/
theorem readEntry_finds {t : State} (held : t.find id = some e) (few : t.held ≤ 16) :
    ∃ k : Byte, exec (.readEntry k) t = .next
      { t with port := Port.answer 33 .ok 0 (.entry t.held k.toNat t.table.version e) } := by
  obtain ⟨k, hk, rfl⟩ := List.getElem_of_mem (mem_of_find held)
  have small : k < 2 ^ 8 := by have : k < t.held := hk; omega
  have code : (BitVec.ofNat 8 k).toNat = k := by simpa using Nat.mod_eq_of_lt small
  refine ⟨BitVec.ofNat 8 k, ?_⟩
  rw [show exec (.readEntry (BitVec.ofNat 8 k)) t = execReadEntry (BitVec.ofNat 8 k) t from rfl, execReadEntry, code,
    List.getElem?_eq_getElem hk]
  rfl

theorem announce_later_held (alone : s.plan.n ≤ 1) (room : s.hasRoom r.kind = true) :
    (announce false code r flags (storeOwn r flags s)).held ≤ 16 := by
  have alone' : (storeOwn r flags s).plan.n ≤ 1 := by rw [(storeOwn_frame r flags s).plan]; exact alone
  obtain ⟨e, -, entries⟩ := storeOwn_entries r flags s
  have held : (announce false code r flags (storeOwn r flags s)).held = (storeOwn r flags s).table.entries.length := by
    unfold announce
    rw [if_pos alone']
    rfl
  rw [held, entries, length_insertEntry]
  exact (hasRoom_iff.1 room).1

end

/-- Settles O12: the ratification in the step of the store, the store alone, by its request or by a verdict that arrives
later, and the claim of its own. -/
theorem loneStationSettlesItsProposalAtOnce : Obligations.LoneStationSettlesItsProposalAtOnce := by
  refine ⟨fun s i code q r flags h active alone found formed fields accepts => ⟨fun whole => ?_, fun later => ?_⟩,
    fun s code r flags vs idle waits active alone free => ?_, fun s id vs idle waits alone => ?_⟩
  · have settled := settledAtOnce (code := code) alone active fields accepts
    refine ⟨_, ?_, settled.port, settled.nextSeq, settled.scheduled, settled.executed, settled.custodian,
      settled.withdrawn, settled.others, settled.frame⟩
    rw [proposal_judged h active found formed fields, whole, judgeOwn, accepts]
  · obtain ⟨free, room, taken⟩ := storeRefusal_of_accept accepts
    obtain ⟨stored, seq, frame⟩ :=
      announce_alone (s := s.setSeq q) (code := code) (flags := flags) alone.le free
    obtain ⟨k, reads⟩ := readEntry_finds stored.1 (announce_later_held (s := s.setSeq q) alone.le room)
    refine ⟨_, ?_, stored, seq, ⟨k, _, stored.1, reads⟩, (setSeq_frame q s).then frame⟩
    rw [proposal_judged h active found formed fields, later, judgeOwn, accepts]
    exact congrArg _ (takeOwnVerdict_accept (s := s.setSeq q) active taken false)
  · obtain ⟨stored, seq, frame⟩ := announce_alone (s := { s with verdicts := vs }) (code := code) (flags := flags)
      alone.le (storeRefusal_none free)
    refine ⟨_, (step_claims idle waits).trans (congrArg _ ?_), stored, seq, (withVerdicts_frame vs s).then frame⟩
    exact takeOwnVerdict_accept (s := { s with verdicts := vs }) active free false
  · intro u
    have stepped : step s = .next (ratifyStored id u) := step_claims idle waits
    refine ⟨fun gone => stepped.trans (congrArg _ (ratifyStored_gone gone)), fun e held proposed fields => ?_⟩
    have own : e.id = id := find_id held
    rw [ratifyStored_held (s := u) held proposed] at stepped
    refine ⟨fun un inactive => stepped.trans (congrArg _ (ratifyOwn_waits (s := u) held un inactive)), fun may => ?_⟩
    have claimed := ratifyOwn_claimed (s := u) alone held fields may
    subst own
    refine ⟨_, stepped, claimed.ratified, claimed.refused, claimed.executed, claimed.custodian,
      fun x w kind target known => ⟨fun late => claimed.tooLate x w kind target known late ?_,
        claimed.withdrawn x w kind target known⟩, claimed.others, ratifyOwn_frame _ _⟩
    rintro rfl
    obtain rfl := Option.some.inj (held.symm.trans known)
    exact absurd (proposed.symm.trans late) (by decide)

end Sys2Proof.Machine
end

section
/-! SUPPORT. The line reset at each unit that it reaches, and the station's return to JOINING (R41, R80, R104, R122). -/

namespace Sys2Proof.Machine

set_option Elab.async false

section
variable {s : State}

/-! ### A change to JOINING with nothing left to purge -/

/-- Where every queued frame has begun and no recital is under way, entering a state tells no unit of a purge. -/
theorem entered_quietly {new : StationState} (begun : ∀ f ∈ s.line.queue, f.inTx = true) (sending : s.sending = none)
    (receiving : s.receiving = none) :
    entered new s =
      { s with
        station := s.station.entered new
        line := { s.line with queue := permittedQueue new s.line.queue } } := by
  have dropped : dropContexts s.station.state { s with station := s.station.entered new } =
      { s with station := s.station.entered new } := by
    cases s.station.state <;> simp [dropContexts, ← sending, ← receiving]
  have none_gone : (s.line.queue.filter fun f => !kindPermitted new f.kind && !f.inTx) = [] :=
    List.filter_eq_nil_iff.2 fun f hf => by simp [begun f hf]
  rw [entered, dropped, purgeForbidden]
  have state : (s.station.entered new).state = new := rfl
  simp only [state, none_gone, List.foldl_nil]
  rfl

/-- The frames that a line reset leaves: one in transmission, which is removed without a report (R80). -/
def SilentInTx (q : List Frame) : Prop := ∀ f ∈ q, f.inTx = true ∧ f.removal = .silent

theorem SilentInTx.permitted {q : List Frame} (h : SilentInTx q) (st : StationState) :
    SilentInTx (permittedQueue st q) ∧ (permittedQueue st q).length = q.length := by
  have all : (q.filter fun f => !(!kindPermitted st f.kind && !f.inTx)) = q :=
    List.filter_eq_self.2 fun f hf => by simp [(h f hf).1]
  rw [permittedQueue, all]
  refine ⟨fun f hf => ?_, List.length_map _⟩
  obtain ⟨g, hg, rfl⟩ := List.mem_map.1 hf
  obtain ⟨begun, silent⟩ := h g hg
  split
  · exact ⟨begun, by simp [Frame.marked, silent]⟩
  · exact ⟨begun, silent⟩

/-- The return to JOINING touches the station and the frame in transmission alone. -/
structure Rejoined (s t : State) : Prop where
  frame : ChangesOnly [.line, .station] s t
  silent : SilentInTx t.line.queue
  frames : t.line.queue.length = s.line.queue.length
  lineState : t.line.state = s.line.state
  history : s.station.history = [] → t.station.history = []
  rejoin : t.station.rejoin = s.station.rejoin
  isolated : s.station.state = .isolated → t.station.state = .isolated
  joining : s.station.state ≠ .isolated → t.station.state = .joining ∧ t.station.listen = 0

theorem joinAfterReset_rejoined (silent : SilentInTx s.line.queue) (sending : s.sending = none)
    (receiving : s.receiving = none) : Rejoined s (joinAfterReset s) := by
  by_cases isolated : s.station.state = .isolated
  · have stays : joinAfterReset s = s := by simp [joinAfterReset, isolated]
    rw [stays]
    exact ⟨.refl _ s, silent, rfl, rfl, id, rfl, id, fun other => absurd isolated other⟩
  · have joins : joinAfterReset s =
        { enterState .joining s with station := { (enterState .joining s).station with listen := 0 } } := by
      unfold joinAfterReset
      split
      · contradiction
      · rfl
    rw [joins]
    by_cases same : s.station.state = .joining
    · rw [enterState_same same]
      exact ⟨(withStation_frame _ s).mono (by decide), silent, rfl, rfl, id, rfl, fun h => absurd h isolated,
        fun _ => ⟨same, rfl⟩⟩
    · obtain ⟨still, frames⟩ := silent.permitted .joining
      rw [enterState_other same, quenchOnState_same (by decide) (by decide),
        entered_quietly (fun f hf => (silent f hf).1) sending receiving]
      refine ⟨?_, still, frames, rfl, id, rfl, fun h => absurd h isolated, fun _ => ⟨rfl, rfl⟩⟩
      intro p hp; cases p <;> first | rfl | simp at hp

/-! ### The units at a line reset -/

/-- The units after a line reset, before the station returns to JOINING (R41, R80, R104, R122, R131, R139). -/
def unitsReset (s : State) : State :=
  { s with
    table := s.table.lineReset
    line := s.line.lineReset
    sending := none
    receiving := none
    roster := Vector.replicate 16 Slot.absent
    station := s.station.lineReset }

theorem unitsReset_frame (s : State) :
    ChangesOnly [.table, .line, .sending, .receiving, .roster, .station] s (unitsReset s) := by
  intro p hp; cases p <;> first | rfl | simp at hp

theorem keptByLineReset_eq (es : List Entry) :
    keptByLineReset es = (es.filter fun e => e.state != .proposed).map fun e =>
      if e.mark = .ratifyQueued then { e with mark := .ratifyDue } else e := rfl

theorem countP_proposed (es : List Entry) :
    (es.countP fun e => !e.settled) = (es.filter fun e => e.state == .proposed).length := by
  rw [List.countP_eq_length_filter]
  congr 2
  funext e
  unfold Entry.settled
  cases e.state <;> rfl

theorem Line.lineReset_queue (l : Line) (attached : l.state ≠ .detached) :
    l.lineReset.queue = (l.queue.filter fun f => f.inTx).map fun f => { f with removal := .silent } := by
  unfold Line.lineReset
  split
  · contradiction
  · rfl
  · rfl

theorem Line.lineReset_state (l : Line) :
    l.lineReset.state = if l.state = .taking then .hunting else l.state := by
  unfold Line.lineReset
  split <;> simp_all

theorem unitsReset_silent (attached : s.line.state ≠ .detached) : SilentInTx (unitsReset s).line.queue := by
  intro f hf
  have hf : f ∈ s.line.lineReset.queue := hf
  rw [Line.lineReset_queue _ attached] at hf
  obtain ⟨g, hg, rfl⟩ := List.mem_map.1 hf
  exact ⟨(List.mem_filter.1 hg).2, rfl⟩

theorem slot_replicate {t : State} (h : t.roster = Vector.replicate 16 Slot.absent) (p : Fin 16) :
    t.slot p.val = Slot.absent := by
  simp [State.slot, h]

/-- A line reset after START: the units, then the station, then the notice (R122). -/
theorem lineReset_steps (quiescent : Quiescent s) (started : s.started) (source : ResetSource) :
    ∃ v, Rejoined (unitsReset s) v ∧ lineReset source s =
      raise (.lineReset source (s.table.entries.filter fun e => e.state == .proposed).length) v := by
  have attached : s.line.state ≠ .detached := fun d => started (quiescent.1.1 d)
  refine ⟨_, joinAfterReset_rejoined (unitsReset_silent attached) rfl rfl, ?_⟩
  rw [← countP_proposed]
  exact if_neg started

theorem withPort_frame (x : Port) (s : State) : ChangesOnly [.port] s { s with port := x } := by
  intro p hp; cases p <;> first | rfl | simp at hp

/-- LRESET and REJOIN make the line reset, and REJOIN is answered OK (R122, R190). -/
theorem exec_lineReset (started : s.started) {i : Instr} {source : ResetSource}
    (h : (i = .lreset ∧ source = .lreset) ∨ (i = .rejoin ∧ source = .rejoin)) :
    exec i s = .next
      { lineReset source s with port := if i = .rejoin then okPort 50 else s.port } := by
  obtain ⟨rfl, rfl⟩ | ⟨rfl, rfl⟩ := h
  · have port : (lineReset .lreset s).port = s.port := lineReset_frame .lreset s .port (by decide)
    rw [if_neg (by decide), ← port]
    rfl
  · exact if_neg started

end

/-- Settles O19: before START nothing happens, and after it each unit is reset and the station returns to JOINING. -/
theorem lineResetReachesEveryUnit : Obligations.LineResetReachesEveryUnit := by
  refine fun s => ⟨fun un => ⟨congrArg _ (if_pos un), if_pos un⟩, fun started quiescent i source h => ?_⟩
  have attached : s.line.state ≠ .detached := fun d => started (quiescent.1.1 d)
  obtain ⟨v, back, eq⟩ := lineReset_steps quiescent started source
  have table : v.table = s.table.lineReset := back.frame.table
  refine ⟨_, exec_lineReset started h, ?_⟩
  rw [eq]
  refine ⟨?_, ?_, ?_, ?_, back.silent, ?_, ?_, ?_, ?_, back.history rfl, back.rejoin, back.isolated, back.joining, ?_,
    rfl, ?_⟩
  · exact (congrArg Table.entries table).trans (keptByLineReset_eq _)
  · exact (congrArg Table.nextSeq table :)
  · exact (congrArg Table.nextStamp table :)
  · refine back.frames.trans ?_
    rw [show (unitsReset s).line.queue = s.line.lineReset.queue from rfl, Line.lineReset_queue _ attached,
      List.length_map]
  · exact back.lineState.trans s.line.lineReset_state
  · exact fun p => slot_replicate back.frame.roster p
  · exact back.frame.sending
  · exact back.frame.receiving
  · have clock : v.clock = s.clock := back.frame.clock
    have notices : v.notices = s.notices := back.frame.notices
    rw [raised, ← clock, ← notices]
    rfl
  · have units := (unitsReset_frame s).trans (back.frame.mono (by decide))
    exact units.then ((raise_frame _ v).then (rs := [.notices, .port]) (withPort_frame _ _))

end Sys2Proof.Machine
end

section
/-! SUPPORT. The frames of a recital taken in order from its source: what is ignored, what is taken, and the attempt that
fails with GAP (R23, R132, R133). -/

namespace Sys2Proof.Machine

set_option Elab.async false

/-! ### Notices that stay as they are (R191) -/

/-- A notice that is pending keeps its detail. -/
def NoticesStay (s t : State) : Prop :=
  ∀ x ∈ s.notices.pending, ∃ y ∈ t.notices.pending, y.notice = x.notice

theorem NoticesStay.of_eq {s t : State} (h : t.notices = s.notices) : NoticesStay s t :=
  fun x hx => ⟨x, h ▸ hx, rfl⟩

theorem NoticesStay.trans {s t u : State} (h : NoticesStay s t) (k : NoticesStay t u) : NoticesStay s u := by
  intro x hx
  obtain ⟨y, hy, same⟩ := h x hx
  obtain ⟨z, hz, eq⟩ := k y hy
  exact ⟨z, hz, eq.trans same⟩

theorem NoticesStay.after {s t u : State} (h : NoticesStay t u) (same : t.notices = s.notices) : NoticesStay s u :=
  (of_eq same).trans h

theorem addNotice_stays (n : Notice) (l : Nat) {ps : List PendingNotice} {x : PendingNotice} (hx : x ∈ ps) :
    ∃ y ∈ addNotice n l ps, y.notice = x.notice := by
  induction ps with
  | nil => simp at hx
  | cons p ps ih =>
    unfold addNotice
    obtain rfl | hx := List.mem_cons.1 hx
    · split
      · exact ⟨_, List.mem_cons_self, rfl⟩
      · exact ⟨_, List.mem_cons_self, rfl⟩
    · split
      · exact ⟨x, List.mem_cons_of_mem _ hx, rfl⟩
      · obtain ⟨y, hy, same⟩ := ih hx
        exact ⟨y, List.mem_cons_of_mem _ hy, same⟩

/-- A notice of a kind that is not pending is added with its detail. -/
theorem mem_addNotice_fresh {n : Notice} (l : Nat) {ps : List PendingNotice}
    (fresh : ∀ p ∈ ps, p.notice.kind ≠ n.kind) : ∃ x ∈ addNotice n l ps, x.notice = n := by
  induction ps with
  | nil => exact ⟨_, List.mem_singleton.2 rfl, rfl⟩
  | cons p ps ih =>
    unfold addNotice
    rw [if_neg (fresh p List.mem_cons_self)]
    obtain ⟨x, hx, same⟩ := ih fun p hp => fresh p (List.mem_cons_of_mem _ hp)
    exact ⟨x, List.mem_cons_of_mem _ hx, same⟩

theorem raise_stays (n : Notice) (s : State) : NoticesStay s (raise n s) := fun _ hx => addNotice_stays n _ hx

section
variable {s : State}

theorem offer_stays (f : Frame) (s : State) : NoticesStay s (offer f s) := by
  obtain ⟨-, h⟩ | ⟨-, h⟩ | ⟨-, h⟩ := offer_cases f s
  · rw [h]; exact .of_eq rfl
  · rw [h]; exact raise_stays _ s
  · rw [h]; exact .of_eq rfl

theorem offerRequest_stays (s : State) : NoticesStay s (offerRequest s) := by
  unfold offerRequest
  split
  · exact .of_eq rfl
  · exact offer_stays _ s

theorem roundFailed_notices (o : RecvOrigin) (s : State) : (roundFailed o s).notices = s.notices := by
  cases o with
  | joining =>
    by_cases same : s.station.state = .joining
    · exact congrArg State.notices (enterState_same same)
    · rw [roundFailed, enterState_other same, quenchOnState_same (by decide) (by decide), entered,
        (purgeForbidden_frame _).notices, (dropContexts_frame _ _).notices]
  | missedEntry => rfl
  | discord => rfl

theorem failAttempt_stays (cause : AttemptCause) (s : State) : NoticesStay s (failAttempt cause s) := by
  cases h : s.receiving with
  | none =>
    have same : failAttempt cause s = s := by simp [failAttempt, h]
    exact .of_eq (congrArg State.notices same)
  | some c =>
    obtain ⟨d, -, eq⟩ | ⟨n, -, eq⟩ := failAttempt_cases h cause
    · rw [eq]
      exact (offerRequest_stays _).after rfl
    · rw [eq]
      exact ((raise_stays n _).trans (.of_eq (roundFailed_notices _ _))).after rfl

/-- The report of a sender raises no RX_ERROR. -/
theorem afterReport_unnoticed {sender : BitVec 4} (h : ¬ noticed s .rxError) :
    ¬ noticed (afterReport s sender) .rxError := by
  have changed (p : Nat) (sl : Slot) : ¬ noticed (changeSlot p sl .frame (s.setLine (s.line.toIdle 0))) .rxError := by
    unfold changeSlot
    dsimp only
    split
    · exact h
    · rintro ⟨x, hx, kind⟩
      obtain new | old := (mem_kinds_addNotice _ _ _ _).1 (List.mem_map.2 ⟨x, hx, kind⟩)
      · exact absurd new (by simp [Notice.kind])
      · obtain ⟨y, hy, same⟩ := List.mem_map.1 old
        exact h ⟨y, hy, same⟩
  unfold afterReport reportSender
  dsimp only
  split
  · exact changed _ _
  · exact h

/-! ### An attempt that fails with GAP (R133) -/

/-- A receiving context that begins a new attempt after one that failed with GAP at a station (R133). -/
structure NextAttempt (c : RecvCtx) (p : Nat) (d : RecvCtx) : Prop where
  attempts : d.attempts = c.attempts ++ [(p, .gap)]
  source : d.source = none
  expected : d.expected = 1
  total : d.total = none
  wait : d.wait = 0
  origin : d.origin = c.origin
  tallies : d.tallies = c.tallies

theorem failAttempt_next {c d : RecvCtx} {p : Nat} (h : s.receiving = some c) (source : c.source = some p)
    (after : (failAttempt .gap s).receiving = some d) : NextAttempt c p d := by
  simp only [failAttempt, h, source, Option.getD_some] at after
  split at after
  next next _ =>
    obtain ⟨req, asked⟩ := offerRequest_receiving (s :=
      { s with
        serial := s.serial + 1
        receiving := some
          { c with target := next, req := .queued, source := none, expected := 1, total := none, wait := 0,
                   tried := addStation (addStation c.tried c.target) p, attempts := c.attempts ++ [(p, .gap)],
                   serial := s.serial } }) rfl
    obtain rfl := Option.some.inj (asked.symm.trans after)
    exact ⟨rfl, rfl, rfl, rfl, rfl, rfl, rfl⟩
  · rw [roundFailed_receiving_none rfl] at after
    exact absurd after (by simp)

/-- An attempt that fails with GAP, from a state: the next begins, or the round has failed. -/
structure Gap (c : RecvCtx) (p : Nat) (u t : State) : Prop where
  next : ∀ d, t.receiving = some d → NextAttempt c p d
  failed : t.receiving = none → noticed t .recitalFailed
  scales : t.scales = u.scales
  frame : ChangesOnly [.table, .line, .station, .sending, .receiving, .notices, .serial] u t

theorem ChangesOnly.outputs_kept {ps : List Part} {s t : State} (h : ChangesOnly (.outputs :: ps) s t)
    (same : t.outputs = s.outputs) : ChangesOnly ps s t := by
  intro p hp
  by_cases out : p = .outputs
  · exact out ▸ same
  · exact h p (by simp [out, hp])

theorem failAttempt_gap {c : RecvCtx} {p : Nat} (h : s.receiving = some c) (source : c.source = some p) :
    Gap c p s (failAttempt .gap s) := by
  obtain ⟨outputs, -, failed⟩ := failAttempt_spec h .gap
  have frame := failAttempt_frame .gap s
  exact ⟨fun d hd => failAttempt_next h source hd, failed, frame.scales,
    ChangesOnly.outputs_kept (frame.mono (by decide)) outputs⟩

end

end Sys2Proof.Machine
end

section
/-! SUPPORT. A RECITAL or SCALE_STATE frame at the Recital Unit: its delivery, the test of its form, and the three ways to
take it or to leave it (R132, R133). -/

namespace Sys2Proof.Machine

set_option Elab.async false

section
variable {s : State} {sender : BitVec 4} {body : List Byte} {i : Instr} {kind : FrameKind} {c : RecvCtx} {p : Nat}

/-! ### Delivery (R68, R111) -/

/-- The command of a frame of a recital, with a body of a length that its kind permits (R62). -/
def IsRecitalFrame (i : Instr) (kind : FrameKind) (sender : BitVec 4) (body : List Byte) : Prop :=
  (i = .recital sender body ∧ kind = .recital ∧ (body.length = 2 ∨ body.length = 23)) ∨
    (i = .scaleState sender body ∧ kind = .scaleState ∧ body.length = 27)

theorem recitalFrame_delivered (frame : IsRecitalFrame i kind sender body) (heard : audible s kind sender body) :
    exec i s = .next (takeRecitalFrame kind sender.toNat body (afterReport s sender)) := by
  obtain ⟨rfl, rfl, length⟩ | ⟨rfl, rfl, length⟩ := frame
  · exact congrArg Host.Outcome.next
      (receiveTyped_audible heard (by omega) (by simpa [lengthPermitted] using length) _)
  · exact congrArg Host.Outcome.next (receiveTyped_audible heard (by omega) (by simp [lengthPermitted, length]) _)

/-- A VACANT record is a frame of the kind RECITAL (R62). -/
theorem vacant_kind (frame : IsRecitalFrame i kind sender body) (vacant : body.length = 2) : kind = .recital := by
  obtain ⟨-, rfl, -⟩ | ⟨-, -, length⟩ := frame
  · rfl
  · omega

/-- The report of a sender leaves its slot in disagreement where it was. -/
theorem afterReport_apart
    (apart : (s.slot sender.toNat).state = .divergent ∨ (s.slot sender.toNat).state = .mismatched) :
    (afterReport s sender).disagreeing sender.toNat = true := by
  have same : (s.setLine (s.line.toIdle 0)).slot sender.toNat = s.slot sender.toNat := slot_of_roster rfl _
  have stands : afterReport s sender = s.setLine (s.line.toIdle 0) := by
    unfold afterReport reportSender
    rw [same]
    exact if_neg (by obtain h | h := apart <;> simp [h])
  rw [stands, State.disagreeing, same]
  obtain h | h := apart <;> simp [h]

/-! ### Frames that are left (R132) -/

theorem takeRecitalFrame_ignored (h : s.receiving = none ∨ s.disagreeing p = true) :
    takeRecitalFrame kind p body s = s := by
  unfold takeRecitalFrame
  split
  · rfl
  next c held =>
    obtain absent | apart := h
    · exact absurd (absent.symm.trans held) (by simp)
    · exact if_pos apart

theorem takeRecitalFrame_sourceless (held : s.receiving = some c) (agreeing : s.disagreeing p = false)
    (source : c.source = none) (late : field body 0 1 ≠ 1) : takeRecitalFrame kind p body s = s := by
  simp [takeRecitalFrame, held, agreeing, source, late]

theorem takeRecitalFrame_stranger (held : s.receiving = some c) (agreeing : s.disagreeing p = false) {q : Nat}
    (source : c.source = some q) (other : q ≠ p) : takeRecitalFrame kind p body s = s := by
  simp [takeRecitalFrame, held, agreeing, source, other]

theorem takeRecitalFrame_gap (held : s.receiving = some c) (agreeing : s.disagreeing p = false)
    (source : c.source = some p) (other : field body 0 1 ≠ c.expected) :
    takeRecitalFrame kind p body s = failAttempt .gap s := by
  simp [takeRecitalFrame, held, agreeing, source, other]

/-! ### The form of a frame (R132) -/

theorem takeInOrder_vacant {total : Nat} (agrees : field body 1 1 = total) (below : field body 0 1 < total)
    (vacant : body.length = 2) :
    takeInOrder .recital p body c total s =
      { s with receiving := some { c with wait := 0, expected := c.expected + 1 } } := by
  simp [takeInOrder, recitalContent, agrees, Nat.not_le.2 below, vacant]

/-- A record that fails its test of form (R23, R132). -/
def BadRecord (s : State) (rr : RecitalRecord) : Prop :=
  rr.record.wellFormed s.plan.n rr.endorsers = false ∨
    (rr.state = .proposed ∧ (rr.window = false ∨ rr.remaining = 0)) ∨
    (rr.state ≠ .proposed ∧ (rr.record.kind = .custody ∨ rr.record.kind = .withdraw ∨
      countStations rr.endorsers < s.quorum ∨ rr.window = true ∨ rr.remaining ≠ 0))

theorem badRecord_not_ok {rr : RecitalRecord} (bad : BadRecord s rr) : recitalRecordOk s rr ≠ true := by
  intro ok
  obtain ⟨fields, endorsers, open_, settled⟩ := recitalRecordOk_iff.1 ok
  obtain ill | ⟨proposed, closed⟩ | ⟨done, wrong⟩ := bad
  · simp [Record.wellFormed, fields, endorsers] at ill
  · obtain ⟨window, remaining⟩ := open_ proposed
    obtain closed | closed := closed
    · simp [window] at closed
    · exact remaining closed
  · obtain ⟨window, remaining, scheduled, quorum⟩ := settled done
    obtain custody | withdraw | few | open_ | left := wrong
    · simp [custody, Kind.scheduled] at scheduled
    · simp [withdraw, Kind.scheduled] at scheduled
    · omega
    · simp [window] at open_
    · exact left remaining

/-- A frame whose index or whose record fails the test of form (R132). -/
def Malformed (s : State) (kind : FrameKind) (body : List Byte) : Prop :=
  (kind = .recital ∧ field body 1 1 ≤ field body 0 1) ∨ (kind = .scaleState ∧ field body 0 1 ≠ field body 1 1) ∨
    (kind = .recital ∧ body.length = 23 ∧ ∀ rr, recitalRecord body = some rr → BadRecord s rr)

theorem recitalContent_malformed (bad : Malformed s kind body) :
    recitalContent s (kind == .scaleState) (field body 1 1) body = none := by
  obtain ⟨rfl, above⟩ | ⟨rfl, off⟩ | ⟨rfl, length, records⟩ := bad
  · simp [recitalContent, above]
  · simp [recitalContent, off]
  · simp only [recitalContent]
    cases record : recitalRecord body with
    | none => simp [length]
    | some rr => simp [length, badRecord_not_ok (records rr record)]

theorem takeInOrder_fails {total : Nat} (bad : field body 1 1 ≠ total ∨ Malformed s kind body) :
    takeInOrder kind p body c total s = failForm kind p body s := by
  have fails : recitalContent s (kind == .scaleState) total body = none := by
    by_cases same : field body 1 1 = total
    · exact same ▸ recitalContent_malformed (bad.resolve_left fun other => other same)
    · simp [recitalContent, same]
  unfold takeInOrder
  rw [fails]

/-! ### A frame taken in order that fails its test (R132, R133) -/

/-- The attempt fails with GAP and an RX_ERROR of cause FORM_CONTENT is raised. -/
structure FormGap (kind : FrameKind) (body : List Byte) (c : RecvCtx) (p : Nat) (u t : State) : Prop where
  gap : Gap c p u t
  noticed : noticed t .rxError
  detail : ¬ Machine.noticed u .rxError →
    ∃ x ∈ t.notices.pending, x.notice = .rxError .formContent p kind.code body.length u.clock.label

/-- A notice raised before an attempt fails is pending after it. -/
theorem raise_failAttempt_noticed (n : Notice) (cause : AttemptCause) (s : State) :
    noticed (failAttempt cause (raise n s)) n.kind ∧
      (¬ noticed s n.kind → ∃ x ∈ (failAttempt cause (raise n s)).notices.pending, x.notice = n) := by
  refine ⟨(failAttempt_remains _ _).noticed _ (raise_noticed n s), fun fresh => ?_⟩
  obtain ⟨x, hx, eq⟩ := mem_addNotice_fresh (n := n) s.clock.label fun x hx kind => fresh ⟨x, hx, kind⟩
  obtain ⟨y, hy, same⟩ := failAttempt_stays cause (raise n s) x hx
  exact ⟨y, hy, same.trans eq⟩

theorem failForm_gap (held : s.receiving = some c) (source : c.source = some p) :
    FormGap kind body c p s (failForm kind p body s) := by
  let n : Notice := .rxError .formContent p kind.code body.length s.clock.label
  obtain ⟨next, failed, scales, frame⟩ := failAttempt_gap (s := raise n s) held source
  obtain ⟨noticed, detail⟩ := raise_failAttempt_noticed n .gap s
  exact ⟨⟨next, failed, scales, ((raise_frame n s).mono (by decide)).trans frame⟩, noticed, detail⟩

/-- A frame taken in order fails its test: the first of its recital, or a later one from the source. -/
theorem takeRecitalFrame_form (held : s.receiving = some c) (agreeing : s.disagreeing p = false)
    (bad : (c.source = none ∧ field body 0 1 = 1 ∧ Malformed s kind body) ∨
      (c.source = some p ∧ field body 0 1 = c.expected ∧
        ∃ n, c.total = some n ∧ (n ≠ field body 1 1 ∨ Malformed s kind body))) :
    FormGap kind body c p s (takeRecitalFrame kind p body s) := by
  obtain ⟨source, index, form⟩ | ⟨source, index, n, declared, form⟩ := bad
  · rw [(takeRecitalFrame_first held agreeing source index rfl).trans (takeInOrder_fails (.inr form))]
    obtain ⟨⟨next, failed, scales, frame⟩, noticed, detail⟩ := failForm_gap (kind := kind) (body := body) (p := p)
      (s := { s with receiving := some { c with source := some p, total := some (field body 1 1) } }) rfl rfl
    refine ⟨⟨fun d hd => ?_, failed, scales, ?_⟩, noticed, detail⟩
    · obtain ⟨attempts, source, expected, total, wait, origin, tallies⟩ := next d hd
      exact ⟨attempts, source, expected, total, wait, origin, tallies⟩
    · exact ((withReceiving_frame _ s).mono (by decide)).trans frame
  · rw [takeRecitalFrame_next held agreeing source index declared, takeInOrder_fails (form.imp_left Ne.symm)]
    exact failForm_gap held source

end

/-- Settles O46: a frame is left, or taken in order as VACANT, or fails the attempt by its index or by its form. -/
theorem recitalFramesAreTakenInOrder : Obligations.RecitalFramesAreTakenInOrder := by
  intro s sender body i kind frame heard u p index total apart
  have run : exec i s = .next (takeRecitalFrame kind p body u) := recitalFrame_delivered frame heard
  have report : ChangesOnly [.line, .roster, .notices] s u := afterReport_frame
  refine ⟨fun h => ?_, fun c receiving agree => ?_⟩
  · refine run.trans (congrArg _ (takeRecitalFrame_ignored ?_))
    exact h.imp report.receiving.trans afterReport_apart
  have held : u.receiving = some c := report.receiving.trans receiving
  have agreeing : u.disagreeing p = false :=
    afterReport_agreeing (fun h => agree (.inl h)) fun h => agree (.inr h)
  intro gap badRecord malformed
  have gapOf {t : State} (h : Gap c p u t) : gap t := by
    refine ⟨fun d hd => ?_, h.failed, h.scales.trans report.scales, h.frame⟩
    obtain ⟨attempts, source, expected, total, wait, origin, tallies⟩ := h.next d hd
    exact ⟨attempts, source, expected, total, wait, origin, tallies⟩
  refine ⟨fun source late => ?_, fun q source other => ?_, fun source expected first below vacant => ?_,
    fun source next declared below vacant => ?_, fun source other => ?_, fun bad => ?_⟩
  · exact run.trans (congrArg _ (takeRecitalFrame_sourceless held agreeing source late))
  · exact run.trans (congrArg _ (takeRecitalFrame_stranger held agreeing source other))
  · obtain rfl := vacant_kind frame vacant
    rw [run, takeRecitalFrame_first held agreeing source first rfl, takeInOrder_vacant rfl (first.trans_lt below) vacant,
      expected]
  · obtain rfl := vacant_kind frame vacant
    rw [run, takeRecitalFrame_next held agreeing source next declared, takeInOrder_vacant rfl below vacant]
  · exact ⟨_, run, gapOf (takeRecitalFrame_gap held agreeing source other ▸ failAttempt_gap held source)⟩
  · have form : malformed → Malformed u kind body := by
      unfold Malformed BadRecord
      rw [report.plan, report.quorum]
      exact id
    have fails : FormGap kind body c p u (takeRecitalFrame kind p body u) := by
      refine takeRecitalFrame_form held agreeing (bad.imp ?_ ?_)
      · exact fun ⟨source, first, ill⟩ => ⟨source, first, form ill⟩
      · exact fun ⟨source, next, n, declared, ill⟩ => ⟨source, next, n, declared, ill.imp_right form⟩
    refine ⟨_, run, gapOf fails.gap, fails.noticed, fun fresh => ?_⟩
    rw [← report.clock]
    exact fails.detail (afterReport_unnoticed fresh)

end Sys2Proof.Machine
end

section
/-! SUPPORT. A verdict that reaches the Agreement Engine later than its proposal: what waits for it, and what each verdict
does as it arrives, in the station state that then holds (R58, R83, R84, R86 to R88; log entry 27). -/

namespace Sys2Proof.Machine

set_option Elab.async false

section
variable {s : State} {r : Record} {flags : List CfgRule} {code : Byte} {reason : Reason} {v : Verdict}

/-! ### Offers of an ACTIVE station (R76, R84) -/

/-- In ACTIVE every kind is permitted, so that the room decides alone. -/
theorem wouldQueue_active (active : s.station.state = .active) (f : Frame) :
    s.wouldQueue f = roomFor s.line.queue f.cls := by
  unfold State.wouldQueue
  rw [active]
  rfl

theorem offer_queue_active (active : s.station.state = .active) (f : Frame) :
    (offer f s).line.queue =
      if roomFor s.line.queue f.cls then insertFrame f s.line.queue else s.line.queue := by
  rw [← wouldQueue_active active]
  obtain ⟨room, eq⟩ | ⟨full, eq⟩ | ⟨full, eq⟩ := offer_cases f s
  · rw [eq, if_pos room]
    rfl
  · rw [eq, if_neg (Bool.eq_false_iff.1 full)]
    rfl
  · rw [eq, if_neg (Bool.eq_false_iff.1 full)]

/-- The mark of an announced entry follows the admission of its frame (R84). -/
theorem find_offerPropose (active : s.station.state = .active) (r : Record) (x : Ident) :
    (offerPropose r s).find x =
      if x = r.id then (s.find x).map fun e =>
        { e with mark := if roomFor s.line.queue r.kind.proposeClass then .proposeQueued else .proposeDue }
      else s.find x := by
  unfold offerPropose
  rw [find_setMark, find_offer, wouldQueue_active active]
  rfl

/-! ### The answer of the table to a verdict (R25, R27, R87) -/

/-- The reason for which a verdict leads to a rejection, if any: its own, or that of the table for an accepted record. -/
def State.refusalOf (s : State) (r : Record) : Verdict → Option Reason
  | .reject reason => some reason
  | .accept _ => s.storeRefusal r

theorem takeOwnVerdict_inactive (whole : Bool) (inactive : s.station.state ≠ .active) :
    takeOwnVerdict whole code r v s = { s with port := refusedPort code .state } := by
  unfold takeOwnVerdict
  rw [if_pos inactive]
  rfl

theorem takeOwnVerdict_refused (whole : Bool) (active : s.station.state = .active)
    (refused : s.refusalOf r v = some reason) :
    takeOwnVerdict whole code r v s = refuseProposal code reason s := by
  rw [takeOwnVerdict_active active]
  cases v with
  | reject x => rw [Option.some.inj refused]
  | accept flags =>
    have refused : s.storeRefusal r = some reason := refused
    simp only [refused]

theorem takeVerdict_refused (screens : s.station.state.screens = true) (refused : s.refusalOf r v = some reason) :
    takeVerdict r v s = rejectProposal r.id reason s := by
  rw [takeVerdict_screens screens]
  cases v with
  | reject x => rw [Option.some.inj refused]
  | accept flags =>
    have refused : s.storeRefusal r = some reason := refused
    simp only [refused]

theorem takeVerdict_accept (screens : s.station.state.screens = true) (free : s.storeRefusal r = none) :
    takeVerdict r (.accept flags) s = storeProposal r flags s := by
  rw [takeVerdict_screens screens]
  simp only [free]

theorem screens_iff {st : StationState} :
    st.screens = true ↔ st = .active ∨ st = .receiving ∨ st = .listening := by
  cases st <;> simp [StationState.screens]

/-- Outside ACTIVE no OBJECT is offered (R87). -/
theorem rejectProposal_inactive (id : Ident) (reason : Reason) (inactive : s.station.state ≠ .active) :
    rejectProposal id reason s = s := if_neg inactive

theorem rejectProposal_queue (id : Ident) (reason : Reason) (active : s.station.state = .active) :
    (rejectProposal id reason s).line.queue =
      if roomFor s.line.queue 6 then
        insertFrame (newFrame .object 6 (objectBody id reason) (some id) 0) s.line.queue else s.line.queue := by
  rw [rejectProposal, if_pos active]
  exact offer_queue_active active _

/-! ### The store of an accepted proposal -/

/-- What an accepted local proposal leaves on a shelf of two or more, its sequence already found (R83, R84). -/
structure StoredAndAnnounced (code : Byte) (r : Record) (flags : List CfgRule) (s t : State) : Prop where
  stored : t.find r.id = some { ownEntry r flags s with
    mark := if roomFor s.line.queue r.kind.proposeClass then .proposeQueued else .proposeDue }
  others : ∀ y, y ≠ r.id → t.find y = s.find y
  nextSeq : t.table.nextSeq = s.table.nextSeq + 1
  port : t.port = Port.answer code (if roomFor s.line.queue r.kind.proposeClass then .ok else .queueFull) 0
    (.proposal r.id flags)
  frame : ChangesOnly [.table, .line, .port, .notices] s t

theorem takeOwnVerdict_storedAndAnnounced (whole : Bool) (active : s.station.state = .active) (shelf : 2 ≤ s.plan.n)
    (free : s.storeRefusal r = none) :
    StoredAndAnnounced code r flags s (takeOwnVerdict whole code r (.accept flags) s) := by
  rw [takeOwnVerdict_accept active free]
  have unheld := storeRefusal_none free
  have own := storeOwn_frame r flags s
  have shelf' : ¬ (storeOwn r flags s).plan.n ≤ 1 := by rw [own.plan]; omega
  have active' : (storeOwn r flags s).station.state = .active := by rw [own.station]; exact active
  rw [announce, if_neg shelf', wouldQueue_active active', own.line]
  have found (x : Ident) := find_offerPropose active' r x
  rw [own.line] at found
  exact {
    stored := by
      refine (found r.id).trans ?_
      rw [if_pos rfl, find_storeOwn_own flags unheld]
      rfl
    others := fun y other => by
      refine (found y).trans ?_
      rw [if_neg other, find_storeOwn_other flags unheld other]
    nextSeq := by
      have table : (offer (proposeFrame r) (storeOwn r flags s)).table = (storeOwn r flags s).table := offer_table _ _
      exact (congrArg Table.nextSeq table).trans (storeOwn_nextSeq r flags s)
    port := rfl
    frame := (own.then (rs := [.table, .line, .notices]) (offerPropose_frame r _)).then (respond_frame _ _ _ _ _) }

/-- An accepted proposal from the line is found PROPOSED with its window, and the other entries stand (R86). -/
theorem find_storeProposal (free : s.find r.id = none) (flags : List CfgRule) (x : Ident) :
    (storeProposal r flags s).find x =
      if x = r.id then
        some { r with state := .proposed, endorsers := receivedEndorsers s r.id.proposer, flags := flags,
                      window := some (s.clock.label + s.plan.e + 2), stamp := s.table.nextStamp, mark := .none }
      else s.find x := by
  unfold storeProposal
  split
  all_goals simp only [find_offer, find_of_table (raiseFlagged_table _ _ _), find_storeEntry _ _ _ _ _ _ _ _ free]

theorem receivedEndorsers_eq (s : State) (p : Nat) :
    receivedEndorsers s p =
      if s.station.state = .active then BitVec.twoPow 16 p ||| BitVec.twoPow 16 s.pins.stn
      else BitVec.twoPow 16 p := by
  simp [receivedEndorsers, addStation, noStations]

/-! ### A verdict on its way (R58, R88) -/

theorem proposal_waits {i : Instr} {q : Word} (h : proposalCode i = some code) (later : proposalVerdict i = .later)
    (active : s.station.state = .active) (found : sequenceFound s q)
    (formed : proposalRecord s.pins.stn q i = some r) (fields : r.fieldsOk s.plan.n = true) :
    exec i s = .next
      { s with
        table := { s.table with nextSeq := q }
        port := { held := none, reading := [] }
        verdicts := s.verdicts ++ [.port code r (screen (s.setSeq q) r)] } := by
  rw [proposal_judged h active found formed fields, later]
  rfl

theorem propose_length_le {body : List Byte} (permitted : lengthPermitted .propose body = true) :
    body.length ≤ 28 := by
  unfold lengthPermitted at permitted
  dsimp only at permitted
  split at permitted
  next k _ =>
    have short : k.proposeLength ≤ 28 := by cases k <;> decide
    rw [beq_iff_eq] at permitted
    omega
  next => simp at permitted

/-- A PROPOSE of a station in agreement whose record meets R23 is screened where the station screens (R82, R86). -/
theorem propose_judged {sender : BitVec 4} {body : List Byte} (heard : audible s .propose sender body)
    (permitted : lengthPermitted .propose body = true) (screens : s.station.state.screens = true)
    (divergent : (s.slot sender.toNat).state ≠ .divergent) (mismatched : (s.slot sender.toNat).state ≠ .mismatched)
    (formed : proposeRecord sender.toNat body = some r) (fields : r.fieldsOk s.plan.n = true) (w : VerdictTime) :
    exec (.propose sender ⟨body, w⟩) s = .next (judgeProposal w r (afterReport s sender)) := by
  have report : ChangesOnly [.line, .roster, .notices] s (afterReport s sender) := afterReport_frame
  have run : exec (.propose sender ⟨body, w⟩) s =
      .next (takePropose w sender.toNat body (afterReport s sender)) :=
    congrArg Host.Outcome.next (receiveTyped_audible heard (propose_length_le permitted) permitted w)
  have admitted :
      ¬ (!(afterReport s sender).station.state.screens || (afterReport s sender).disagreeing sender.toNat) = true := by
    rw [report.station, screens, afterReport_agreeing divergent mismatched]
    decide
  rw [run, takePropose, if_neg admitted, formed]
  dsimp only
  rw [report.plan, if_pos fields]

end

/-- Settles O13: a verdict that is put off waits, and one that arrives is taken by the station state that it meets. -/
theorem verdictsActInTheStateTheyMeet : Obligations.VerdictsActInTheStateTheyMeet := by
  refine ⟨fun s i code q r => proposal_waits,
    fun s sender body r heard permitted screens divergent mismatched formed fields => ?_, fun s vs idle => ?_⟩
  · have kept : (afterReport s sender).verdicts = s.verdicts := afterReport_frame.verdicts
    rw [propose_judged heard permitted (screens_iff.2 screens) divergent mismatched formed fields, ← kept]
    rfl
  intro u refusal
  have refusal_eq (r : Record) (v : Verdict) : refusal r v = u.refusalOf r v := by cases v <;> rfl
  have taken : ChangesOnly [.verdicts] s u := withVerdicts_frame vs s
  simp only [refusal_eq]
  refine ⟨fun code r v waits => ?port, fun r v waits => ?line⟩
  case port =>
    have stepped : step s = .next (takeOwnVerdict false code r v u) := step_claims idle waits
    rw [stepped]
    refine ⟨fun inactive => congrArg _ (takeOwnVerdict_inactive (s := u) false inactive),
      fun reason active refused => ?_, fun flags active accepts free shelf => ?_⟩
    · rw [takeOwnVerdict_refused (s := u) false active refused, refuseProposal_eq]
    · subst accepts
      have stored := takeOwnVerdict_storedAndAnnounced (s := u) (code := code) (flags := flags) false active shelf free
      exact ⟨_, rfl, stored.stored, stored.others, stored.nextSeq, stored.port, taken.then stored.frame⟩
  case line =>
    have stepped : step s = .next (takeVerdict r v u) := step_claims idle waits
    rw [stepped]
    refine ⟨fun active receiving listening => ?_, fun quiet refused => ?_, fun reason active refused => ?_,
      fun flags screens accepts free => ?_⟩
    · have deaf : u.station.state.screens = false := by
        rw [Bool.eq_false_iff, ne_eq, screens_iff]
        exact not_or.2 ⟨active, not_or.2 ⟨receiving, listening⟩⟩
      rw [takeVerdict_drops deaf]
    · obtain ⟨reason, refused⟩ := Option.isSome_iff_exists.1 refused
      have inactive : u.station.state ≠ .active := by
        obtain h | h := quiet <;> exact fun active => absurd (h.symm.trans active) (by decide)
      rw [takeVerdict_refused (s := u) (screens_iff.2 (.inr quiet)) refused, rejectProposal_inactive _ _ inactive]
    · rw [takeVerdict_refused (s := u) (screens_iff.2 (.inl active)) refused]
      exact ⟨_, rfl, rejectProposal_queue (s := u) _ _ active, taken.then (rejectProposal_frame _ _ u)⟩
    · subst accepts
      rw [takeVerdict_accept (s := u) (screens_iff.2 screens) free]
      have found := find_storeProposal (s := u) (storeRefusal_none free) flags
      refine ⟨_, rfl, ?_, fun y other => (found y).trans (if_neg other), taken.then (storeProposal_frame r flags u)⟩
      rw [found, if_pos rfl, receivedEndorsers_eq]

end Sys2Proof.Machine
end

section
/-! SUPPORT. The line as every unit leaves it: attached or DETACHED as it was, its queue within its limits and in order,
and one frame in transmission exactly while it is SENDING (R60, R76). The operations of the units. -/

namespace Sys2Proof.Machine

set_option Elab.async false

/-! ### The relation -/

/-- The queue is within its limits and in order, with one frame in transmission exactly in SENDING (R60, R76). -/
def LineSound (l : Line) : Prop :=
  queueOk l.queue ∧ (l.queue.countP fun f => f.inTx) = if l.state = .sending then 1 else 0

/-- From `s` to `t` the line is attached or DETACHED as it was, and stays sound where it was (R60, R76). -/
structure LineFollows (s t : State) : Prop where
  detached : t.line.state = .detached ↔ s.line.state = .detached
  sound : LineSound s.line → LineSound t.line

section
variable {s t u : State} {ps : List Part}

theorem LineFollows.of_line (h : t.line = s.line) : LineFollows s t := by
  constructor <;> simp [h]

theorem LineFollows.refl (s : State) : LineFollows s s := .of_line rfl

theorem LineFollows.of_frame (h : ChangesOnly ps s t) (line : Part.line ∉ ps := by decide) : LineFollows s t :=
  .of_line (h.line line)

theorem LineFollows.trans (h : LineFollows s t) (k : LineFollows t u) : LineFollows s u :=
  ⟨k.detached.trans h.detached, k.sound ∘ h.sound⟩

theorem LineFollows.ite {c : Prop} [Decidable c] (h : LineFollows s t) (k : LineFollows s u) :
    LineFollows s (if c then t else u) := by split <;> assumption

theorem LineFollows.foldl {α : Type} {g : State → α → State} (h : ∀ t x, LineFollows t (g t x)) (l : List α)
    (s : State) : LineFollows s (l.foldl g s) := by
  induction l generalizing s with
  | nil => exact .refl s
  | cons x l ih => exact (h s x).trans (ih _)

/-- A queue that changes in the line state that holds. -/
theorem LineFollows.of_queue (state : t.line.state = s.line.state)
    (ok : queueOk s.line.queue → queueOk t.line.queue)
    (inTx : (t.line.queue.countP fun f => f.inTx) = s.line.queue.countP fun f => f.inTx) : LineFollows s t :=
  ⟨by rw [state], fun h => ⟨ok h.1, by rw [inTx, state]; exact h.2⟩⟩

/-! ### Offers and purges -/

theorem newFrame_offered {kind : FrameKind} {cls : Nat} {body : List Byte} {ident : Option Ident} {serial : Nat} :
    (newFrame kind cls body ident serial).inTx = false := rfl

/-- The room that a frame needs is tested before it is queued (R76). -/
theorem offer_follows {f : Frame} (offered : f.inTx = false) (s : State) : LineFollows s (offer f s) := by
  obtain ⟨would, eq⟩ | ⟨-, eq⟩ | ⟨-, eq⟩ := offer_cases f s <;> rw [eq]
  · have room : roomFor s.line.queue f.cls = true := by
      simp only [State.wouldQueue, Bool.and_eq_true] at would
      exact would.2
    refine .of_queue rfl (fun ok => insertFrame_ok ok room) ?_
    rw [setQueue_line, (insertFrame_perm f s.line.queue).countP_eq, List.countP_cons_of_neg (by simp [offered])]
  · exact .of_frame (raise_frame _ s)
  · exact .refl s

theorem marked_inTx (f : Frame) : f.marked.inTx = f.inTx := rfl

theorem purgeNaming_ok {id : Ident} {q : List Frame} (h : queueOk q) : queueOk (purgeNaming id q) :=
  (h.sublist List.filter_sublist).map _ fun f => by split <;> rfl

theorem purgeNaming_inTx (id : Ident) (q : List Frame) :
    (purgeNaming id q).countP (fun f => f.inTx) = q.countP fun f => f.inTx := by
  unfold purgeNaming
  rw [List.countP_map, List.countP_filter]
  apply List.countP_congr
  intro f _
  simp only [Function.comp]
  cases namesEntry f id <;> cases h : f.inTx <;> simp [marked_inTx, h]

theorem freeEntry_follows (id : Ident) (n : Notice) (s : State) : LineFollows s (freeEntry id n s) :=
  .of_queue rfl purgeNaming_ok (purgeNaming_inTx id s.line.queue)

theorem enterState_follows (new : StationState) (s : State) : LineFollows s (enterState new s) := by
  by_cases h : s.station.state = new
  · rw [enterState_same h]; exact .refl s
  · refine .of_queue ?_ ?_ ?_ <;> rw [enterState_line h]
    · exact permittedQueue_ok
    · exact permittedQueue_inTx new s.line.queue

/-! ### The Recital Unit -/

theorem offerRequest_follows (s : State) : LineFollows s (offerRequest s) := by
  unfold offerRequest
  split
  · exact .refl s
  · exact (offer_follows newFrame_offered s).trans (.of_frame (withReceiving_frame _ _))

theorem askRecital_follows (o : RecvOrigin) (k : Nat) (s : State) : LineFollows s (askRecital o k s) := by
  unfold askRecital
  split
  · exact .refl s
  · exact (LineFollows.of_frame (withAttempt_frame _ _ s)).trans (offerRequest_follows _)

theorem roundFailed_follows (o : RecvOrigin) (s : State) : LineFollows s (roundFailed o s) := by
  cases o with
  | joining => exact enterState_follows _ s
  | discord => exact .refl s
  | missedEntry => exact .refl s

theorem failAttempt_follows (cause : AttemptCause) (s : State) : LineFollows s (failAttempt cause s) := by
  unfold failAttempt
  split
  · exact .refl s
  · dsimp only
    split
    · exact (LineFollows.of_frame (withAttempt_frame _ _ s)).trans (offerRequest_follows _)
    · exact ((LineFollows.of_frame (withReceiving_frame none s)).trans (.of_frame (raise_frame _ _))).trans
        (roundFailed_follows _ _)

theorem assembleRecital_offered (s : State) (c : SendCtx) : (assembleRecital s c).inTx = false := by
  unfold assembleRecital
  split <;> rfl

theorem offerRecitalFrame_follows (s : State) : LineFollows s (offerRecitalFrame s) := by
  unfold offerRecitalFrame
  split
  · exact .refl s
  next c _ =>
    have offered := offer_follows (assembleRecital_offered s c) s
    exact .ite (offered.trans (.of_frame (withSending_frame _ _)))
      (offered.trans (.of_frame (recitalOfferFailed_frame _)))

theorem withRecital_frame (c : Option SendCtx) (k : Nat) (s : State) :
    ChangesOnly [.sending, .serial] s { s with serial := k, sending := c } := by
  intro p hp; cases p <;> first | rfl | simp at hp

theorem startRecital_follows (audience : StationSet) (s : State) : LineFollows s (startRecital audience s) :=
  (LineFollows.of_frame (withRecital_frame _ _ s)).trans (offerRecitalFrame_follows _)

theorem reportSent_follows (f : Frame) (s : State) : LineFollows s (reportSent s f) := by
  unfold reportSent
  split
  · exact .of_frame (moveMark_frame _ _ _ s)
  · exact .of_frame (moveMark_frame _ _ _ s)
  · exact .of_frame (setRequest_frame _ _ s)
  · refine .ite ?_ (.refl s)
    unfold recitalFrameSent
    split
    · exact .refl s
    · exact (LineFollows.of_frame (withSending_frame _ s)).trans (offerRecitalFrame_follows _)
  · refine .ite ?_ (.refl s)
    unfold recitalEnded
    split
    · exact .refl s
    · exact .ite (.of_frame (withSending_frame _ s))
        ((LineFollows.of_frame (withSending_frame none s)).trans (startRecital_follows _ _))
  · exact .refl s

/-! ### The Agreement Engine -/

theorem offerPropose_follows (r : Record) (s : State) : LineFollows s (offerPropose r s) :=
  (offer_follows newFrame_offered s).trans (.of_frame (setMark_frame _ _ _))

theorem offerRatify_follows (id : Ident) (set : StationSet) (s : State) : LineFollows s (offerRatify id set s) :=
  (offer_follows newFrame_offered s).trans (.of_frame (setMark_frame _ _ _))

theorem lapseOvertaken_follows (id : Ident) (s : State) : LineFollows s (lapseOvertaken id s) :=
  .foldl (fun t w => freeEntry_follows w _ t) _ s

theorem withdrawTarget_follows (a b : Ident) (s : State) : LineFollows s (withdrawTarget a b s) := by
  unfold withdrawTarget
  split
  · exact .refl s
  · exact .ite (.of_frame (raise_frame _ s)) (freeEntry_follows _ _ s)

theorem ratifyClaim_follows (e : Entry) (set : StationSet) (s : State) : LineFollows s (ratifyClaim e set s) := by
  unfold ratifyClaim
  split
  · exact (LineFollows.of_frame (setScale_frame _ _ s)).trans (.of_frame (freeExecuted_frame _ _ _))
  · exact (withdrawTarget_follows _ _ s).trans (.of_frame (freeExecuted_frame _ _ _))
  · exact .ite ((LineFollows.of_frame (modify_frame _ _ s)).trans (.of_frame (raise_frame _ _)))
      (freeEntry_follows _ _ s)

theorem ratifyOwn_follows (id : Ident) (s : State) : LineFollows s (ratifyOwn id s) := by
  unfold ratifyOwn
  split
  · exact .refl s
  next e _ =>
    have claimed := ratifyClaim_follows e e.endorsers s
    exact .ite
      (.ite claimed (.ite (.ite (claimed.trans (offerRatify_follows _ _ _))
        (claimed.trans (.of_frame (setMark_frame _ _ _)))) claimed))
      (.ite ((LineFollows.ite (.refl s) (offer_follows newFrame_offered s)).trans (ratifyClaim_follows _ _ _)) (.refl s))

theorem addEndorsers_follows (id : Ident) (set : StationSet) (s : State) : LineFollows s (addEndorsers id set s) := by
  unfold addEndorsers
  split
  · exact .refl s
  · have added (f : Entry → Entry) := LineFollows.of_frame (modify_frame id f s)
    exact .ite (.refl s) (.ite ((added _).trans (ratifyOwn_follows _ _)) (added _))

theorem expireEntry_follows (id : Ident) (s : State) : LineFollows s (expireEntry id s) := by
  unfold expireEntry
  split
  · exact .ite (freeEntry_follows _ _ s) (.refl s)
  · exact .refl s

theorem retestQuorum_follows (s : State) : LineFollows s (retestQuorum s) :=
  .ite (.foldl (fun t id => ratifyOwn_follows id t) _ s) (.refl s)

theorem reofferRatify_follows (s : State) : LineFollows s (reofferRatify s) := by
  refine .ite (.foldl (fun t id => ?_) _ s) (.refl s)
  split
  · exact offerRatify_follows _ _ t
  · exact .refl t

theorem reofferPropose_follows (s : State) : LineFollows s (reofferPropose s) := by
  refine .ite (.foldl (fun t id => ?_) _ s) (.refl s)
  split
  · exact offerPropose_follows _ t
  · exact .refl t

/-! ### The merge of recital records -/

theorem tally_follows (f : Tallies → Tallies) (s : State) : LineFollows s (tally f s) := .of_frame (tally_frame f s)

theorem advanceEntry_follows (rr : RecitalRecord) (s : State) : LineFollows s (advanceEntry rr s) := by
  have advanced (f : Entry → Entry) (n : Notice) : LineFollows s (raise n (s.modify rr.record.id f)) :=
    (LineFollows.of_frame (modify_frame _ f s)).trans (.of_frame (raise_frame n _))
  exact (LineFollows.ite ((advanced _ _).trans (lapseOvertaken_follows _ _)) (advanced _ _)).trans (tally_follows _ _)

theorem insertRecord_follows (rr : RecitalRecord) (s : State) : LineFollows s (insertRecord rr s) := by
  have stored := LineFollows.of_frame (storeEntry_frame rr.record (insertionState s rr) rr.endorsers []
    (if insertionState s rr = .proposed then some (s.clock.label + rr.remaining) else none) .none .merge s)
  exact (LineFollows.ite (stored.trans (lapseOvertaken_follows _ _)) stored).trans (tally_follows _ _)

theorem mergeRecord_follows (rr : RecitalRecord) (s : State) : LineFollows s (mergeRecord rr s) := by
  have recovered := LineFollows.of_frame (recoverSequences_frame rr.record s)
  unfold mergeRecord
  dsimp only
  split
  next e _ =>
    refine recovered.trans (.ite (.ite (tally_follows _ _) (.ite (advanceEntry_follows _ _) ?_)) (.ite ?_ ?_))
    · exact .of_frame (skipConflict_frame _ _)
    · exact (tally_follows _ _).trans (addEndorsers_follows _ _ _)
    · exact tally_follows _ _
  next =>
    have skipped := tally_follows Tallies.skip (recoverSequences rr.record s)
    exact recovered.trans (.ite skipped (.ite skipped (.ite skipped (.ite (.of_frame (skipConflict_frame _ _))
      (.ite (failAttempt_follows _ _) (insertRecord_follows _ _))))))

theorem recitalDone_follows (source : Nat) (s : State) : LineFollows s (recitalDone source s) := by
  unfold recitalDone
  split
  · exact .refl s
  next c _ =>
    have done : LineFollows s (raise (.recitalDone source c.origin c.tallies) { s with receiving := none }) :=
      (LineFollows.of_frame (withReceiving_frame none s)).trans (.of_frame (raise_frame _ _))
    dsimp only
    split
    · exact done.trans (enterState_follows _ _)
    · exact done

theorem takeInOrder_follows (k : FrameKind) (p : Nat) (b : List Byte) (c : RecvCtx) (n : Nat) (s : State) :
    LineFollows s (takeInOrder k p b c n s) := by
  unfold takeInOrder
  split
  · exact (LineFollows.of_frame (raise_frame _ s)).trans (failAttempt_follows _ _)
  · have taken (c : RecvCtx) := LineFollows.of_frame (withReceiving_frame (some c) s)
    dsimp only
    split
    · exact taken _
    · exact (taken _).trans (mergeRecord_follows _ _)
    · exact (taken _).trans (.ite ((LineFollows.of_frame (adoptScales_frame _ _)).trans (recitalDone_follows _ _))
        (failAttempt_follows _ _))

theorem takeRecitalFrame_follows (k : FrameKind) (p : Nat) (b : List Byte) (s : State) :
    LineFollows s (takeRecitalFrame k p b s) := by
  unfold takeRecitalFrame
  split
  · exact .refl s
  · refine .ite (.refl s) ?_
    dsimp only
    split
    · exact .ite ((LineFollows.of_frame (withReceiving_frame _ s)).trans (takeInOrder_follows _ _ _ _ _ _)) (.refl s)
    · exact .ite (.refl s) (.ite (takeInOrder_follows _ _ _ _ _ s) (failAttempt_follows _ s))

/-! ### The Apply Unit -/

theorem completeEntry_follows (c : ScaleChange) (e : Entry) (s : State) : LineFollows s (completeEntry c e s) :=
  (LineFollows.of_frame (handChange_frame _ _ _ _ s)).trans (freeEntry_follows _ _ _)

theorem actWhenDue_follows (e : Entry) (n : Nat) (s : State) : LineFollows s (actWhenDue e n s) := by
  unfold actWhenDue
  split
  · exact .ite (.of_frame (handChange_frame _ _ _ _ s)) (.ite (completeEntry_follows _ _ s) (.refl s))
  · exact .ite (completeEntry_follows _ _ s) (.refl s)
  · exact .ite (completeEntry_follows _ _ s) (.refl s)
  · exact .refl s

theorem applyEntry_follows (id : Ident) (s : State) : LineFollows s (applyEntry id s) := by
  unfold applyEntry
  split
  · exact .refl s
  · split
    · exact .refl s
    · split
      · exact .refl s
      · refine .ite (LineFollows.trans ?_ (actWhenDue_follows _ _ _)) (.refl s)
        exact (LineFollows.of_frame (modify_frame _ _ s)).trans (lapseOvertaken_follows _ _)
      · exact actWhenDue_follows _ _ s

theorem applyPass_follows (s : State) : LineFollows s (applyPass s) := by
  have cleared : LineFollows s (clearChanges s) := .of_line rfl
  exact .ite (.refl s) ((cleared.trans (.foldl (fun t id => applyEntry_follows id t) _ _)).trans (.of_line rfl))

/-! ### The Station Controller -/

theorem withStation_follows (x : Station) (s : State) : LineFollows s { s with station := x } :=
  .of_frame (withStation_frame x s)

theorem evaluatePlan_follows (s : State) : LineFollows s (evaluatePlan s) :=
  .ite ((LineFollows.of_frame (raise_frame _ s)).trans (enterState_follows _ _)) (.refl s)

theorem evaluateLabel_follows (s : State) : LineFollows s (evaluateLabel s) := by
  refine .ite (.ite ?_ (.ite (.of_frame (armAdoption_frame s)) (.refl s))) (.ite (enterState_follows _ s) (.refl s))
  exact ((LineFollows.of_frame (raise_frame _ s)).trans (enterState_follows _ _)).trans (.of_frame (armAdoption_frame _))

theorem evaluateDiscord_follows (s : State) : LineFollows s (evaluateDiscord s) := by
  have noted (x : Station) := withStation_follows x s
  refine .ite ?_ (noted _)
  dsimp only
  split
  · exact ((noted _).trans (askRecital_follows _ _ _)).trans (withStation_follows _ _)
  · exact noted _

theorem endListeningIfDue_follows (s : State) : LineFollows s (endListeningIfDue s) := by
  refine .ite ?_ (.refl s)
  unfold endListening
  split
  · exact (enterState_follows _ s).trans (askRecital_follows _ _ _)
  · exact enterState_follows _ s

theorem advanceListening_follows (s : State) : LineFollows s (advanceListening s) :=
  .ite ((withStation_follows _ s).trans (endListeningIfDue_follows _)) (.refl s)

theorem offerBeacon_follows (s : State) : LineFollows s (offerBeacon s) :=
  .ite (offer_follows newFrame_offered s) (.refl s)

theorem afterAdoption_follows (s : State) : LineFollows s (afterAdoption s) := by
  unfold afterAdoption
  split
  · exact enterState_follows _ s
  · exact withStation_follows _ s
  · exact .refl s

theorem takeReport_follows (rep : LabelReport) (s : State) : LineFollows s (takeReport rep s) := by
  have cleared (t : State) : LineFollows t (clearAdoption t) := withStation_follows _ t
  unfold takeReport
  split
  · exact ((LineFollows.foldl (fun t p => .of_frame (changeSlot_frame p _ _ t)) _ s).trans (cleared _)).trans
      (afterAdoption_follows _)
  · exact cleared s
  · exact .refl s

theorem beaconWork_follows (s : State) : LineFollows s (beaconWork s) :=
  (((((LineFollows.of_frame (advanceSilences_frame s)).trans (evaluatePlan_follows _)).trans
    (evaluateLabel_follows _)).trans (evaluateDiscord_follows _)).trans (advanceListening_follows _)).trans
    (offerBeacon_follows _)

theorem stationWork_follows (rep : LabelReport) (s : State) : LineFollows s (stationWork rep s) := by
  have counted := ((LineFollows.of_frame (aged_frame s)).trans (takeReport_follows rep _)).trans
    (.of_frame (advanceAdoption_frame _))
  exact .ite (.refl s) (.ite (counted.trans (beaconWork_follows _)) counted)

/-! ### The boundary -/

theorem reofferRecital_follows (s : State) : LineFollows s (reofferRecital s) := by
  unfold reofferRecital
  split
  · exact .ite (offerRecitalFrame_follows s) (.refl s)
  · exact .refl s

theorem receiveWork_follows (s : State) : LineFollows s (receiveWork s) := by
  unfold receiveWork
  split
  · exact .refl s
  · have waited (c : RecvCtx) := LineFollows.of_frame (withReceiving_frame (some c) s)
    exact .ite (.ite ((waited _).trans (failAttempt_follows _ _))
      (.ite ((waited _).trans (offerRequest_follows _)) (waited _))) (.refl s)

theorem runStage_follows (rep : LabelReport) (st : Stage) (s : State) : LineFollows s (runStage rep st s) := by
  cases st with
  | apply => exact applyPass_follows s
  | expiry => exact .foldl (fun t id => expireEntry_follows id t) _ s
  | station => exact stationWork_follows rep s
  | retest => exact retestQuorum_follows s
  | ratifyOffers => exact reofferRatify_follows s
  | proposeOffers => exact reofferPropose_follows s
  | recitalSend => exact reofferRecital_follows s
  | recitalReceive => exact receiveWork_follows s

theorem boundary_follows (ord : BoundaryOrder) (s : State) : LineFollows s (boundary ord s) :=
  ((((LineFollows.of_frame (takeLabel_frame _ s)).trans (.of_frame (moveWindows_frame _ _))).trans
    (.foldl (fun t st => runStage_follows _ st t) _ _)).trans (.of_frame (realignIfAdopted_frame _ _))).trans
    (.of_frame (outputsBoundary_frame _))

theorem boundary_setClock_follows (ord : BoundaryOrder) (c : Clock) (s : State) :
    LineFollows s (boundary ord (s.setClock c)) :=
  (LineFollows.of_frame (setClock_frame c s)).trans (boundary_follows ord _)

theorem secinEdge_follows (ord : BoundaryOrder) (s : State) : LineFollows s (secinEdge ord s) := by
  refine .ite (.ite ?_ (boundary_setClock_follows ord _ s)) (boundary_setClock_follows ord _ s)
  unfold spuriousEdge
  dsimp only
  split
  · exact .of_frame (raise_frame _ s)
  · exact .ite ((boundary_setClock_follows ord _ s).trans (.of_frame (raise_frame _ _)))
      ((LineFollows.of_frame (setClock_frame _ s)).trans (.of_frame (raise_frame _ _)))

theorem substitutedBoundary_follows (ord : BoundaryOrder) (s : State) :
    LineFollows s (substitutedBoundary ord s) :=
  .ite ((boundary_setClock_follows ord _ s).trans (.of_frame (raise_frame _ _))) (.refl s)

/-! ### Verdicts and local proposals -/

theorem rejectProposal_follows (id : Ident) (r : Reason) (s : State) : LineFollows s (rejectProposal id r s) :=
  .ite (offer_follows newFrame_offered s) (.refl s)

theorem storeProposal_follows (r : Record) (flags : List CfgRule) (s : State) :
    LineFollows s (storeProposal r flags s) := by
  have stored := (LineFollows.of_frame (storeEntry_frame r .proposed (receivedEndorsers s r.id.proposer) flags
    (some (s.clock.label + s.plan.e + 2)) .none .line s)).trans (.of_frame (raiseFlagged_frame r.id flags _))
  exact .ite (stored.trans (offer_follows newFrame_offered _)) stored

theorem takeVerdict_follows (r : Record) (v : Verdict) (s : State) : LineFollows s (takeVerdict r v s) := by
  refine .ite (.refl s) ?_
  split
  · exact rejectProposal_follows _ _ s
  · split
    · exact rejectProposal_follows _ _ s
    · exact storeProposal_follows _ _ s

theorem respond_follows (code : Byte) (st : Status) (r : Nat) (d : Data) (s : State) :
    LineFollows s (respond code st r d s) := .of_frame (respond_frame code st r d s)

theorem announce_follows (whole : Bool) (code : Byte) (r : Record) (flags : List CfgRule) (s : State) :
    LineFollows s (announce whole code r flags s) :=
  .ite ((LineFollows.ite (ratifyOwn_follows _ s) (.of_frame (claiming_frame _ s))).trans (respond_follows _ _ _ _ _))
    ((offerPropose_follows r s).trans (respond_follows _ _ _ _ _))

theorem takeOwnVerdict_follows (whole : Bool) (code : Byte) (r : Record) (v : Verdict) (s : State) :
    LineFollows s (takeOwnVerdict whole code r v s) := by
  refine .ite (respond_follows _ _ _ _ s) ?_
  split
  · exact .of_frame (refuseProposal_frame _ _ s)
  · split
    · exact .of_frame (refuseProposal_frame _ _ s)
    · exact (LineFollows.of_frame (storeOwn_frame _ _ s)).trans (announce_follows _ _ _ _ _)

theorem proposeOwn_follows (w : VerdictTime) (code : Byte) (mk : Option (Word → Record)) (s : State) :
    LineFollows s (proposeOwn w code mk s) := by
  refine .ite (respond_follows _ _ _ _ s) ?_
  split
  · exact respond_follows _ _ _ _ s
  · have found := LineFollows.of_frame (setSeq_frame (freeSequence s s.held s.table.nextSeq) s)
    refine .ite (found.trans ?_) (respond_follows _ _ _ _ s)
    cases w with
    | atOnce => exact takeOwnVerdict_follows _ _ _ _ _
    | stored => exact takeOwnVerdict_follows _ _ _ _ _
    | later => exact (LineFollows.of_frame (emptied_frame _)).trans (.of_frame (awaiting_frame _ _))

theorem take_follows (v : PendingVerdict) (s : State) : LineFollows s (v.take s) := by
  cases v with
  | line r v => exact takeVerdict_follows r v s
  | port code r v => exact takeOwnVerdict_follows _ code r v s
  | ratify id =>
    change LineFollows s (ratifyStored id s)
    unfold ratifyStored
    split
    · exact .ite (ratifyOwn_follows id s) (.refl s)
    · exact .refl s

end

end Sys2Proof.Machine
end

section
/-! SUPPORT. The line's own events, and the invariant of the transmit queue along every step (R60, R69 to R76). -/

namespace Sys2Proof.Machine

set_option Elab.async false

section
variable {s t : State} {ps : List Part}

/-! ### Changes of line state -/

theorem lineSound_unsent {l : Line} (h : l.state ≠ .sending) :
    LineSound l ↔ queueOk l.queue ∧ (l.queue.countP fun f => f.inTx) = 0 := by
  rw [LineSound, if_neg h]

theorem lineSound_sending {l : Line} (h : l.state = .sending) :
    LineSound l ↔ queueOk l.queue ∧ (l.queue.countP fun f => f.inTx) = 1 := by
  rw [LineSound, if_pos h]

/-- An attached line that stays attached. -/
theorem LineFollows.of_attached (before : s.line.state ≠ .detached) (after : t.line.state ≠ .detached)
    (sound : LineSound s.line → LineSound t.line) : LineFollows s t :=
  ⟨by simp [before, after], sound⟩

/-- A line that goes from a state in which nothing is sent to another, with its queue as it stands. -/
theorem LineFollows.of_unsent (attached : s.line.state ≠ .detached) (unsent : s.line.state ≠ .sending)
    (after : t.line.state ≠ .detached) (unsent' : t.line.state ≠ .sending) (queue : t.line.queue = s.line.queue) :
    LineFollows s t :=
  .of_attached attached after fun h => by
    rw [lineSound_unsent unsent'] at *
    rw [lineSound_unsent unsent] at h
    rwa [queue]

/-- A line that stops sending, with no frame left in transmission. -/
theorem LineFollows.of_stopped (sending : s.line.state = .sending) (after : t.line.state ≠ .detached)
    (unsent : t.line.state ≠ .sending) (ok : queueOk s.line.queue → queueOk t.line.queue)
    (inTx : (s.line.queue.countP fun f => f.inTx) = 1 → (t.line.queue.countP fun f => f.inTx) = 0) :
    LineFollows s t :=
  .of_attached (by simp [sending]) after fun h => by
    rw [lineSound_sending sending] at h
    exact (lineSound_unsent unsent).2 ⟨ok h.1, inTx h.2⟩

theorem dropInTx_ok {q : List Frame} (h : queueOk q) : queueOk (dropInTx q) := h.sublist List.eraseP_sublist

/-- The frame that a test picks out of the queue is one, and the others stand. -/
theorem eraseP_takesOne (p r : Frame → Bool) (q : List Frame) :
    q.eraseP p = q ∨ ∃ f, p f = true ∧ q.countP r = (q.eraseP p).countP r + if r f = true then 1 else 0 := by
  obtain h | ⟨f, l₁, l₂, -, hf, eq, erased⟩ := List.exists_or_eq_self_of_eraseP p q
  · exact .inl h
  · refine .inr ⟨f, hf, ?_⟩
    rw [erased, eq]
    simp only [List.countP_append, List.countP_cons]
    omega

theorem dropInTx_inTx {q : List Frame} (one : (q.countP fun f => f.inTx) = 1) :
    (dropInTx q).countP (fun f => f.inTx) = 0 := by
  obtain same | ⟨f, hf, count⟩ := eraseP_takesOne (fun f => f.inTx) (fun f => f.inTx) q
  · obtain ⟨f, hf, inTx⟩ := List.countP_pos_iff.1 (by omega : 0 < q.countP fun f => f.inTx)
    have shorter := List.length_eraseP_of_mem hf inTx
    have := List.length_pos_of_mem hf
    rw [same] at shorter
    omega
  · unfold dropInTx
    rw [if_pos hf] at count
    omega

theorem clashed_inTx (m : Frame → Mismatch) (pos : Nat) (q : List Frame) :
    (updateInTx (fun x => x.clashed (m x) pos) q).countP (fun f => f.inTx) = 0 := by
  unfold updateInTx
  simp only [List.countP_eq_zero, List.mem_map]
  rintro _ ⟨f, -, rfl⟩
  split
  · simp [Frame.clashed]
  · assumption

theorem begun_ok {f : Frame} {q : List Frame} (h : queueOk (f :: q)) : queueOk ({ f with inTx := true } :: q) := by
  simpa [queueOk, lowCount, List.countP_cons] using h

/-! ### The line's events -/

theorem synchronise_follows (s : State) : LineFollows s (synchronise s) := by
  unfold synchronise
  split
  next h => exact .of_unsent (by simp [h.1]) (by simp [h.1]) (by simp [Line.toIdle]) (by simp [Line.toIdle]) rfl
  next => exact .refl s

theorem deferTo_follows (s : State) : LineFollows s (deferTo s) := by
  unfold deferTo
  split
  next h => exact .of_unsent (by simp [h]) (by simp [h]) (by simp [Line.toTaking]) (by simp [Line.toTaking]) rfl
  next => exact .refl s

theorem purgedHeads_follows (idle : s.line.state = .idle) (l : List Frame) {q : List Frame}
    (sub : q.Sublist s.line.queue) : LineFollows s (l.foldl reportPurged (s.setQueue q)) := by
  refine LineFollows.trans (.of_attached (by simp [idle]) (by simp [idle]) fun h => ?_)
    (.of_frame (reportPurged_fold_frame l (s.setQueue q)))
  rw [lineSound_unsent (by simp [idle])] at *
  exact ⟨h.1.sublist sub, Nat.le_zero.1 (h.2 ▸ sub.countP_le)⟩

theorem beginHead_follows (idle : s.line.state = .idle) : LineFollows s (beginHead s) := by
  unfold beginHead
  split
  · exact .refl s
  next f fs queue =>
    refine .ite (.of_attached (by simp [idle]) (by simp) fun h => ?_) (.refl s)
    rw [lineSound_unsent (by simp [idle]), queue] at h
    refine (lineSound_sending rfl).2 ⟨begun_ok h.1, ?_⟩
    have rest := (List.countP_eq_zero.1 h.2)
    rw [setLine_line, List.countP_cons_of_pos rfl,
      List.countP_eq_zero.2 fun x hx => rest x (List.mem_cons_of_mem f hx)]

theorem frameBegin_follows (s : State) : LineFollows s (frameBegin s) := by
  unfold frameBegin
  split
  next idle =>
    have purged := purgedHeads_follows idle (s.line.queue.takeWhile s.headPurged)
      (List.dropWhile_sublist s.headPurged)
    refine purged.trans (beginHead_follows ?_)
    rw [(reportPurged_fold_frame _ _).line]
    exact idle
  next => exact .refl s

theorem frameSent_follows (s : State) : LineFollows s (frameSent s) := by
  unfold frameSent
  split
  next f sending _ =>
    refine .ite ?_ (.refl s)
    have sent : LineFollows s ((s.setLine (s.line.toIdle 0)).setQueue (dropInTx s.line.queue)) :=
      .of_stopped sending (by simp [Line.toIdle]) (by simp [Line.toIdle]) dropInTx_ok dropInTx_inTx
    unfold unlessSilent
    split
    · exact sent
    · exact sent.trans (reportSent_follows _ _)
  next => exact .refl s

theorem lineAfterClash_state (s : State) (f : Frame) :
    (lineAfterClash s f).state = .taking ∨ (lineAfterClash s f).state = .hunting := by
  unfold lineAfterClash
  split
  · exact .inl rfl
  · exact .inr rfl

theorem clashNow_follows (s : State) : LineFollows s (clashNow s) := by
  unfold clashNow
  split
  next f sending _ =>
    refine .ite ?_ (.refl s)
    have stopped {q : List Frame} (ok : queueOk s.line.queue → queueOk q)
        (inTx : (s.line.queue.countP fun f => f.inTx) = 1 → (q.countP fun f => f.inTx) = 0) :
        LineFollows s ((s.setLine (lineAfterClash s f)).setQueue q) := by
      refine .of_stopped sending ?_ ?_ ok inTx <;>
        obtain h | h := lineAfterClash_state s f <;> simp [h]
    have dropped := stopped dropInTx_ok dropInTx_inTx
    dsimp only
    split
    · exact dropped
    · exact dropped.trans (.of_frame (reportPurged_frame _ _))
    · exact .ite (dropped.trans (.of_frame (abandonFrame_frame _ _)))
        (stopped (fun ok => ok.map _ fun x => by split <;> rfl) fun _ => clashed_inTx _ _ _)
  next => exact .refl s

theorem abandonStanding_follows (s : State) : LineFollows s (abandonStanding s) := by
  unfold abandonStanding
  split
  next f found =>
    have erased : LineFollows s
        (s.setQueue (s.line.queue.eraseP fun f => !f.inTx && decide (8 ≤ f.clash))) := by
      refine .of_queue rfl (fun ok => ok.sublist List.eraseP_sublist) ?_
      obtain same | ⟨x, standing, count⟩ :=
        eraseP_takesOne (fun f => !f.inTx && decide (8 ≤ f.clash)) (fun f => f.inTx) s.line.queue
      · rw [setQueue_line, same]
      · rw [Bool.and_eq_true, Bool.not_eq_true'] at standing
        rw [standing.1] at count
        exact count.symm
    exact erased.trans (.of_frame (abandonFrame_frame _ _))
  next => exact .refl s

theorem abandonNow_follows (s : State) : LineFollows s (abandonNow s) :=
  .ite (abandonStanding_follows s) (.ite (clashNow_follows s) (.refl s))

/-! ### The line reset (R80) -/

theorem lineReset_detached (l : Line) : l.lineReset.state = .detached ↔ l.state = .detached := by
  unfold Line.lineReset
  split <;> simp_all

theorem silencedQueue_ok {q : List Frame} (h : queueOk q) :
    queueOk ((q.filter fun f => f.inTx).map fun f => { f with removal := .silent }) :=
  (h.sublist List.filter_sublist).map _ fun _ => rfl

theorem silencedQueue_inTx (q : List Frame) :
    (((q.filter fun f => f.inTx).map fun f => { f with removal := .silent }).countP fun f => f.inTx) =
      q.countP fun f => f.inTx := by
  rw [List.countP_map, List.countP_filter]
  exact List.countP_congr fun f _ => by simp

/-- A line reset leaves the frame in transmission alone in the queue. -/
theorem LineSound.lineReset {l : Line} (h : LineSound l) : LineSound l.lineReset := by
  obtain ⟨ok, inTx⟩ := h
  unfold Line.lineReset
  dsimp only
  split
  · exact ⟨ok, inTx⟩
  next taking => exact ⟨silencedQueue_ok ok, (silencedQueue_inTx _).trans (by simpa [taking] using inTx)⟩
  next => exact ⟨silencedQueue_ok ok, (silencedQueue_inTx _).trans inTx⟩

theorem joinAfterReset_follows (s : State) : LineFollows s (joinAfterReset s) := by
  unfold joinAfterReset
  split
  · exact .refl s
  · exact (enterState_follows _ s).trans (withStation_follows _ _)

theorem lineReset_follows (source : ResetSource) (s : State) : LineFollows s (lineReset source s) := by
  refine .ite (.refl s) (LineFollows.trans ?_ (.of_frame (raise_frame _ _)))
  exact LineFollows.trans ⟨lineReset_detached s.line, LineSound.lineReset⟩ (joinAfterReset_follows _)

/-! ### Frames that are read -/

theorem hears_reads {f : RawFrame} (h : s.hears f = true) : s.line.state = .idle ∨ s.line.state = .taking := by
  unfold State.hears at h
  split at h
  next idle => exact .inl idle
  next taking => exact .inr taking
  next => cases h

/-- A frame that has been read leaves the line attached, with nothing in transmission. -/
theorem LineFollows.of_read {f : RawFrame} (h : s.hears f = true) (after : t.line.state ≠ .detached)
    (unsent : t.line.state ≠ .sending) (queue : t.line.queue = s.line.queue) : LineFollows s t := by
  refine .of_unsent ?_ ?_ after unsent queue <;> obtain h | h := hears_reads h <;> simp [h]

theorem afterFault_cases (l : Line) (cause : RxCause) (whole : Bool) :
    (l.afterFault cause whole).queue = l.queue ∧
      ((l.afterFault cause whole).state = .hunting ∨ (l.afterFault cause whole).state = .idle) := by
  cases cause <;> simp [Line.afterFault, Line.toHunting, Line.toIdle]

theorem discardFrame_follows {f : RawFrame} (h : s.hears f = true) (cause : RxCause) (whole : Bool) (p k n : Nat) :
    LineFollows s (discardFrame cause whole p k n s) := by
  obtain ⟨queue, state⟩ := afterFault_cases s.line cause whole
  refine .of_read h ?_ ?_ queue <;>
    (rw [discardFrame, raise_line, setLine_line]; obtain h | h := state <;> simp [h])

theorem takePropose_follows (w : VerdictTime) (p : Nat) (b : List Byte) (s : State) :
    LineFollows s (takePropose w p b s) := by
  refine .ite (.refl s) ?_
  split
  · exact .of_frame (raise_frame _ s)
  · refine .ite ?_ (.of_frame (raise_frame _ s))
    cases w with
    | atOnce => exact takeVerdict_follows _ _ s
    | stored => exact takeVerdict_follows _ _ s
    | later => exact .of_frame (awaiting_frame _ s)

theorem takeEndorse_follows (p : Nat) (b : List Byte) (s : State) : LineFollows s (takeEndorse p b s) := by
  refine .ite (.refl s) ?_
  split
  · exact .ite (addEndorsers_follows _ _ s) (.refl s)
  · exact .refl s

theorem takeObject_follows (p : Nat) (b : List Byte) (s : State) : LineFollows s (takeObject p b s) := by
  refine .ite (.refl s) ?_
  split
  · exact .of_frame (raise_frame _ s)
  · split
    · exact .refl s
    · exact .ite (freeEntry_follows _ _ s) (.of_frame (raise_frame _ s))

theorem takeRatify_follows (p : Nat) (b : List Byte) (s : State) : LineFollows s (takeRatify p b s) := by
  refine .ite (.refl s) ?_
  dsimp only
  split
  · exact .of_frame (raise_frame _ s)
  · split
    · have missed (n : Notice) := LineFollows.of_frame (raise_frame n s)
      exact .ite ((missed _).trans (askRecital_follows _ _ _)) (missed _)
    · exact .ite (ratifyClaim_follows _ _ s) (.refl s)

theorem takeReciteReq_follows (p : Nat) (b : List Byte) (s : State) : LineFollows s (takeReciteReq p b s) := by
  refine .ite (.of_frame (raise_frame _ s)) (.ite (.refl s) ?_)
  unfold placeRequester
  split
  · exact startRecital_follows _ s
  · exact .of_frame (withSending_frame _ s)

theorem deliver_follows (w : VerdictTime) (k : FrameKind) (p : Nat) (b : List Byte) (s : State) :
    LineFollows s (deliver w k p b s) := by
  cases k with
  | beacon => exact .of_frame (takeBeacon_frame p b s)
  | propose => exact takePropose_follows w p b s
  | endorse => exact takeEndorse_follows p b s
  | object => exact takeObject_follows p b s
  | ratify => exact takeRatify_follows p b s
  | reciteReq => exact takeReciteReq_follows p b s
  | recital => exact takeRecitalFrame_follows _ p b s
  | scaleState => exact takeRecitalFrame_follows _ p b s

theorem handOn_follows {f : RawFrame} (h : s.hears f = true) (w : VerdictTime) (k : FrameKind) (p : Nat)
    (b : List Byte) : LineFollows s (handOn w k p b s) := by
  have read : LineFollows s (s.setLine (s.line.toIdle 0)) :=
    .of_read h (by simp [Line.toIdle]) (by simp [Line.toIdle]) rfl
  exact (read.trans (.of_frame (reportSender_frame p _))).trans (deliver_follows w k p b _)

theorem receiveTyped_follows (w : VerdictTime) (k : FrameKind) (p : Nat) (b : List Byte) (s : State) :
    LineFollows s (receiveTyped w k p b s) := by
  unfold receiveTyped
  split
  next h =>
    split
    · exact discardFrame_follows h _ _ _ _ _
    · exact handOn_follows h w k p b
  next => exact .refl s

theorem receiveRaw_follows (f : RawFrame) (s : State) : LineFollows s (receiveRaw f s) := by
  unfold receiveRaw
  split
  next h =>
    split
    · exact discardFrame_follows h _ _ _ _ _
    · exact handOn_follows h _ _ _ _
  next => exact .refl s

/-! ### The commands -/

theorem timeoutIfDue_follows (s : State) : LineFollows s (timeoutIfDue s) := by
  unfold timeoutIfDue
  split
  · exact .ite (failAttempt_follows _ s) (.refl s)
  · exact .refl s

theorem attChange_follows (high : Bool) (h : execAttChange high s = .next t) : LineFollows s t := by
  have level : LineFollows s { s with pins := { s.pins with att := high } } := .of_line rfl
  unfold execAttChange at h
  dsimp only at h
  split at h
  · exact of_next h (.refl s)
  · split at h
    · exact of_next h (level.trans (enterState_follows _ _))
    · exact of_next h (level.trans (enterState_follows _ _))
    · exact of_next h level

/-- Every command but START and RESET leaves the line attached or DETACHED as it was. -/
theorem exec_follows {c : Instr} (start : c ≠ .start) (reset : ∀ stn lrate, c ≠ .reset stn lrate)
    (h : exec c s = .next t) : LineFollows s t := by
  cases c with
  | start => exact absurd rfl start
  | reset stn lrate => exact absurd rfl (reset stn lrate)
  | proposeLeap scale kind turn => exact of_next h (proposeOwn_follows _ _ _ s)
  | proposeOffset scale turn offset => exact of_next h (proposeOwn_follows _ _ _ s)
  | proposeCustody scale custodian => exact of_next h (proposeOwn_follows _ _ _ s)
  | proposeWithdraw proposer seq => exact of_next h (proposeOwn_follows _ _ _ s)
  | rejoin =>
    rw [show exec .rejoin s = execRejoin s from rfl, execRejoin] at h
    split at h
    · exact of_next h (respond_follows _ _ _ _ s)
    · exact of_next h ((lineReset_follows _ s).trans (respond_follows _ _ _ _ _))
  | lreset => exact of_next h (lineReset_follows _ s)
  | attChange high => exact attChange_follows high h
  | secinEdge ord => exact of_next h (secinEdge_follows ord s)
  | substitutedBoundary ord => exact of_next h (substitutedBoundary_follows ord s)
  | windowExpiry id => exact of_next h (expireEntry_follows id s)
  | endOfListening => exact of_next h (endListeningIfDue_follows s)
  | recitalTimeout => exact of_next h (timeoutIfDue_follows s)
  | lineSynchronised => exact of_next h (synchronise_follows s)
  | frameBegin => exact of_next h (frameBegin_follows s)
  | frameDefer => exact of_next h (deferTo_follows s)
  | frameSent => exact of_next h (frameSent_follows s)
  | clash => exact of_next h (clashNow_follows s)
  | frameAbandoned => exact of_next h (abandonNow_follows s)
  | rxFrameInvalid f => exact of_next h (receiveRaw_follows f s)
  | beacon sender body => exact of_next h (receiveTyped_follows _ _ _ _ s)
  | propose sender body => exact of_next h (receiveTyped_follows _ _ _ _ s)
  | endorse sender body => exact of_next h (receiveTyped_follows _ _ _ _ s)
  | object sender body => exact of_next h (receiveTyped_follows _ _ _ _ s)
  | ratify sender body => exact of_next h (receiveTyped_follows _ _ _ _ s)
  | reciteReq sender body => exact of_next h (receiveTyped_follows _ _ _ _ s)
  | recital sender body => exact of_next h (receiveTyped_follows _ _ _ _ s)
  | scaleState sender body => exact of_next h (receiveTyped_follows _ _ _ _ s)
  | _ => exact .of_frame (exec_frame _ h) (by simp [touches])

theorem startUp_line (s : State) : (startUp s).line = s.line.toHunting 0 := by
  rw [startUp, ((quenchAtStart_frame .qa _).trans (quenchAtStart_frame .qb _)).line]

/-- START finds the line DETACHED, with nothing in transmission, and leaves it HUNTING (R60, R187). -/
theorem start_lineSound (quiescent : Quiescent s) (hs : LineSound s.line) (h : execStart s = .next t) :
    LineSound t.line := by
  unfold execStart at h
  split at h
  · exact of_next h (P := fun t => LineSound t.line) hs
  next un =>
    split at h
    · exact of_next h (P := fun t => LineSound t.line) hs
    · refine of_next h (P := fun t => LineSound t.line) ?_
      rw [answerOk, respond_line, startUp_line, lineSound_unsent (by simp [Line.toHunting])]
      rw [lineSound_unsent (by simp [quiescent.1.2 (Decidable.not_not.1 un)])] at hs
      exact hs

theorem exec_lineSound {c : Instr} (quiescent : Quiescent s) (hs : LineSound s.line) (h : exec c s = .next t) :
    LineSound t.line := by
  cases c with
  | start => exact start_lineSound quiescent hs h
  | reset stn lrate =>
    exact of_next h (P := fun t => LineSound t.line) (by simp [LineSound, queueOk, State.reset, Line.reset, lowCount])
  | _ => exact (exec_follows (by simp) (by simp) h).sound hs

theorem bitEnd_state (l : Line) (recessive : Bool) : (l.bitEnd recessive).state = l.state := by
  unfold Line.bitEnd
  split
  · rfl
  · split <;> rfl
  all_goals rfl

theorem bitEnd_queue (l : Line) (recessive : Bool) : (l.bitEnd recessive).queue = l.queue := by
  unfold Line.bitEnd
  split
  · rfl
  · split <;> rfl
  all_goals rfl

theorem lineTick_state (l : Line) (lrate : BitVec 2) (recessive : Bool) :
    (l.tick lrate recessive).state = l.state := by
  unfold Line.tick
  split
  · rfl
  · split
    · exact bitEnd_state _ _
    · rfl

theorem lineTick_queue (l : Line) (lrate : BitVec 2) (recessive : Bool) :
    (l.tick lrate recessive).queue = l.queue := by
  unfold Line.tick
  split
  · rfl
  · split
    · exact bitEnd_queue _ _
    · rfl

theorem tick_follows (s : State) : LineFollows s (tick s) := by
  have queue : (tick s).line.queue = s.line.queue := lineTick_queue s.line _ _
  exact .of_queue (lineTick_state s.line _ _) (fun ok => queue ▸ ok) (by rw [queue])

end

/-- Settles O57: each command, each claim and each tick keeps the transmit queue within its limits and in order, and one
frame in transmission exactly in SENDING. -/
theorem stepsKeepTheQueueBounded : Obligations.StepsKeepTheQueueBounded := by
  intro s t quiescent _ bounded one h
  exact step_keeps (I := fun s => Quiescent s ∧ LineSound s.line) (J := fun t => LineSound t.line)
    (fun s t frame hs => by
      simpa only [Quiescent, State.started, frame.line, frame.station, frame.table] using hs)
    (fun c s t hs hc => exec_lineSound hs.1 hs.2 hc)
    (fun s v vs hs _ => ((LineFollows.of_frame (withVerdicts_frame vs s)).trans (take_follows v _)).sound hs.2)
    (fun s hs _ => (tick_follows s).sound hs.2)
    ⟨quiescent, bounded, one⟩ h

end Sys2Proof.Machine
end

section
/-! SUPPORT. The part after START: recital contexts in their station states and roster slots ABSENT that stand for no other
station of the shelf, kept by the units' operations (R110, R125, R131, R139). -/

namespace Sys2Proof.Machine

set_option Elab.async false

/-! ### The invariant -/

/-- The slot of a number stands for no other station of the shelf (R110). -/
def Vacant (s : State) (p : Nat) : Prop := p = s.pins.stn ∨ s.plan.n ≤ p

/-- After START, with recital contexts in their station states and vacant slots ABSENT (R110, R125, R131, R139). -/
structure Running (s : State) : Prop where
  started : s.started
  contexts : ContextsPlaced s
  roster : ∀ p < 16, Vacant s p → (s.slot p).state = .absent

/-- The contexts of `t` come from those of `s`: a sending one with its audiences, a receiving one with its origin. -/
structure ContextsFrom (s t : State) : Prop where
  sending : ∀ d ∈ t.sending, ∃ c ∈ s.sending, d.audience = c.audience ∧ d.deferred = c.deferred
  receiving : ∀ d ∈ t.receiving, ∃ c ∈ s.receiving, d.origin = c.origin

section
variable {s t u : State} {ps : List Part}

theorem ContextsFrom.of_frame (h : ChangesOnly ps s t) (sending : Part.sending ∉ ps := by decide)
    (receiving : Part.receiving ∉ ps := by decide) : ContextsFrom s t where
  sending d hd := ⟨d, h.sending sending ▸ hd, rfl, rfl⟩
  receiving d hd := ⟨d, h.receiving receiving ▸ hd, rfl⟩

/-- A receiving context that keeps its origin, beside the sending one as it stands. -/
theorem ContextsFrom.of_receiving (h : ChangesOnly ps s t)
    (receiving : ∀ d ∈ t.receiving, ∃ c ∈ s.receiving, d.origin = c.origin)
    (sending : Part.sending ∉ ps := by decide) : ContextsFrom s t where
  sending d hd := ⟨d, h.sending sending ▸ hd, rfl, rfl⟩
  receiving := receiving

/-- A sending context that keeps its audiences, beside the receiving one as it stands. -/
theorem ContextsFrom.of_sending (h : ChangesOnly ps s t)
    (sending : ∀ d ∈ t.sending, ∃ c ∈ s.sending, d.audience = c.audience ∧ d.deferred = c.deferred)
    (receiving : Part.receiving ∉ ps := by decide) : ContextsFrom s t where
  sending := sending
  receiving d hd := ⟨d, h.receiving receiving ▸ hd, rfl⟩

/-- Contexts that come from earlier ones are as well placed in the same station state. -/
theorem ContextsFrom.placed (h : ContextsFrom s t) (hs : ContextsPlaced s)
    (state : t.station.state = s.station.state) : ContextsPlaced t := by
  refine ⟨fun d hd => ?_, fun d hd => ?_⟩
  · obtain ⟨c, hc, audience, deferred⟩ := h.sending d hd
    rw [state, audience, deferred]
    exact hs.1 c hc
  · obtain ⟨c, hc, origin⟩ := h.receiving d hd
    rw [state, origin]
    exact hs.2 c hc

theorem contextsPlaced_none (sending : t.sending = none) (receiving : t.receiving = none) : ContextsPlaced t := by
  simp [ContextsPlaced, sending, receiving]

/-- The roster is kept by what changes neither it nor the number of this station nor the plan. -/
theorem Running.slots (hs : Running s) (h : ChangesOnly ps s t) (roster : Part.roster ∉ ps := by decide)
    (pins : Part.pins ∉ ps := by decide) (plan : Part.plan ∉ ps := by decide) :
    ∀ p < 16, Vacant t p → (t.slot p).state = .absent := fun p hp vacant => by
  rw [slot_of_roster (h.roster roster)]
  exact hs.roster p hp (by rwa [Vacant, h.pins pins, h.plan plan] at vacant)

/-- What leaves the station state, with contexts that come from those held. -/
theorem Running.of_contexts (hs : Running s) (h : ChangesOnly ps s t) (contexts : ContextsFrom s t)
    (state : t.station.state = s.station.state) (roster : Part.roster ∉ ps := by decide)
    (pins : Part.pins ∉ ps := by decide) (plan : Part.plan ∉ ps := by decide) : Running t where
  started := by rw [State.started, state]; exact hs.started
  contexts := contexts.placed hs.contexts state
  roster := hs.slots h roster pins plan

/-- What changes items of the Station Controller but not its state. -/
theorem Running.of_state (hs : Running s) (h : ChangesOnly ps s t) (state : t.station.state = s.station.state)
    (sending : Part.sending ∉ ps := by decide) (receiving : Part.receiving ∉ ps := by decide)
    (roster : Part.roster ∉ ps := by decide) (pins : Part.pins ∉ ps := by decide)
    (plan : Part.plan ∉ ps := by decide) : Running t :=
  hs.of_contexts h (.of_frame h sending receiving) state roster pins plan

/-- What changes neither station nor contexts nor roster. -/
theorem Running.of_frame (hs : Running s) (h : ChangesOnly ps s t) (station : Part.station ∉ ps := by decide)
    (sending : Part.sending ∉ ps := by decide) (receiving : Part.receiving ∉ ps := by decide)
    (roster : Part.roster ∉ ps := by decide) (pins : Part.pins ∉ ps := by decide)
    (plan : Part.plan ∉ ps := by decide) : Running t :=
  hs.of_state h (congrArg Station.state (h.station station)) sending receiving roster pins plan

theorem Running.foldl {α : Type} {g : State → α → State} {l : List α} (hs : Running s)
    (h : ∀ t, Running t → ∀ a ∈ l, Running (g t a)) : Running (l.foldl g s) := List.foldlRecOn l g hs h

theorem Running.raise (hs : Running s) (n : Notice) : Running (raise n s) := hs.of_frame (raise_frame n s)

/-- The receiving context replaced by one of the same origin, or dropped. -/
theorem Running.withReceiving (hs : Running s) {x : Option RecvCtx}
    (origin : ∀ d ∈ x, ∃ c ∈ s.receiving, d.origin = c.origin) : Running { s with receiving := x } :=
  hs.of_contexts (withReceiving_frame x s) (.of_receiving (withReceiving_frame x s) origin) rfl

/-- The sending context replaced by one of the same audiences, or dropped. -/
theorem Running.withSending (hs : Running s) {x : Option SendCtx}
    (audience : ∀ d ∈ x, ∃ c ∈ s.sending, d.audience = c.audience ∧ d.deferred = c.deferred) :
    Running { s with sending := x } :=
  hs.of_contexts (withSending_frame x s) (.of_sending (withSending_frame x s) audience) rfl

theorem Running.withStation (hs : Running s) {x : Station} (state : x.state = s.station.state) :
    Running { s with station := x } := hs.of_state (withStation_frame x s) state

/-! ### Reports of frames -/

/-- A unit that is told that a frame did not leave the line keeps its contexts or drops them (R126, R130). -/
theorem ContextsFrom.of_told {abandoned : Bool} {f : Frame} (told : toldUnsent abandoned f s t) :
    ContextsFrom s t := by
  obtain ⟨-, -, -, receiving, sending⟩ := told
  refine ⟨fun d hd => ?_, fun d hd => ?_⟩
  · rw [sending] at hd
    obtain ⟨c, hc, hd⟩ := Option.bind_eq_some_iff.1 hd
    refine ⟨c, hc, ?_⟩
    split at hd
    · split at hd
      · obtain rfl := Option.some.inj hd; exact ⟨rfl, rfl⟩
      · cases hd
    · obtain rfl := Option.some.inj hd; exact ⟨rfl, rfl⟩
  · rw [receiving] at hd
    obtain ⟨c, hc, rfl⟩ := Option.map_eq_some_iff.1 hd
    refine ⟨c, hc, ?_⟩
    split <;> rfl

theorem Running.reportPurged (hs : Running s) (f : Frame) : Running (reportPurged s f) :=
  hs.of_contexts (reportPurged_frame f s) (.of_told (reportPurged_told s f))
    (congrArg Station.state (reportPurged_frame f s).station)

theorem Running.abandonFrame (hs : Running s) (f : Frame) : Running (abandonFrame f s) :=
  Running.raise (hs.of_contexts (reportAbandoned_frame f s) (.of_told (reportAbandoned_told s f))
    (congrArg Station.state (reportAbandoned_frame f s).station)) _

/-! ### The change of station state -/

theorem reportPurged_sending_none (h : s.sending = none) (f : Frame) : (reportPurged s f).sending = none := by
  obtain ⟨-, -, -, -, sending⟩ := reportPurged_told s f
  rw [sending, h, Option.bind_none]

theorem purgeForbidden_sending_none (h : s.sending = none) : (purgeForbidden s).sending = none :=
  List.foldlRecOn (motive := fun t : State => t.sending = none) _ Machine.reportPurged h
    fun _ ht f _ => reportPurged_sending_none ht f

/-- A station that leaves a state holds no recital context: the state that it leaves drops its own (R120, R131,
R139). -/
theorem dropContexts_none (placed : ContextsPlaced s) (x : Station) :
    (dropContexts s.station.state { s with station := x }).sending = none ∧
      (dropContexts s.station.state { s with station := x }).receiving = none := by
  obtain ⟨sends, receives⟩ := placed
  have unsent (h : s.station.state ≠ .active) : s.sending = none :=
    Option.eq_none_iff_forall_not_mem.2 fun c hc => h (sends c hc).1
  have unreceived (h : s.station.state ≠ .active) (k : s.station.state ≠ .receiving) : s.receiving = none :=
    Option.eq_none_iff_forall_not_mem.2 fun c hc => (receives c hc).elim (fun r => k r.1) fun a => h a.1
  cases state : s.station.state with
  | active => exact ⟨rfl, rfl⟩
  | receiving => exact ⟨unsent (by simp [state]), rfl⟩
  | _ => exact ⟨unsent (by simp [state]), unreceived (by simp [state]) (by simp [state])⟩

theorem enterState_contexts_none (placed : ContextsPlaced s) {new : StationState} (other : s.station.state ≠ new) :
    (enterState new s).sending = none ∧ (enterState new s).receiving = none := by
  obtain ⟨sending, receiving⟩ := dropContexts_none placed (s.station.entered new)
  rw [enterState_other other, (quenchOnState_frame _ _).sending, (quenchOnState_frame _ _).receiving]
  exact ⟨purgeForbidden_sending_none sending, purgeForbidden_receiving_none receiving⟩

theorem Running.enterState (hs : Running s) {new : StationState} (h : new ≠ .unconfigured) :
    Running (enterState new s) := by
  by_cases other : s.station.state = new
  · rwa [enterState_same other]
  · obtain ⟨sending, receiving⟩ := enterState_contexts_none hs.contexts other
    refine ⟨?_, contextsPlaced_none sending receiving, hs.slots (enterState_frame new s)⟩
    rw [State.started, enterState_state]
    exact h

/-! ### Asking for a recital (R126, R133) -/

theorem Running.offerRequest (hs : Running s) : Running (offerRequest s) := by
  unfold Machine.offerRequest
  split
  · exact hs
  next c hc =>
    refine Running.withReceiving (hs.of_frame (offer_frame _ s)) fun d hd => ⟨c, ?_, ?_⟩
    · exact (offer_frame _ s).receiving.trans hc
    · obtain rfl := Option.some.inj hd; rfl

/-- A recital is asked with origin JOINING in RECEIVING, and with another in ACTIVE (R125). -/
theorem Running.askRecital (hs : Running s) {o : RecvOrigin} (k : Nat)
    (placed : (s.station.state = .receiving ∧ o = .joining) ∨ (s.station.state = .active ∧ o ≠ .joining)) :
    Running (askRecital o k s) := by
  unfold Machine.askRecital
  split
  · exact hs
  · refine Running.offerRequest ⟨hs.started, ⟨hs.contexts.1, fun d hd => ?_⟩, hs.roster⟩
    obtain rfl := Option.some.inj hd
    exact placed

theorem Running.roundFailed (hs : Running s) (o : RecvOrigin) : Running (roundFailed o s) := by
  cases o with
  | joining => exact hs.enterState (by decide)
  | discord => exact hs
  | missedEntry => exact hs

theorem Running.failAttempt (hs : Running s) (cause : AttemptCause) : Running (failAttempt cause s) := by
  unfold Machine.failAttempt
  split
  · exact hs
  next c hc =>
    dsimp only
    split
    · have frame (x : Option RecvCtx) := withAttempt_frame x (s.serial + 1) s
      refine Running.offerRequest (hs.of_contexts (frame _) (.of_receiving (frame _) fun d hd => ⟨c, hc, ?_⟩) rfl)
      obtain rfl := Option.some.inj hd
      rfl
    · exact Running.roundFailed (Running.raise (hs.withReceiving (by simp)) _) _

/-! ### Sending a recital (R128 to R131) -/

theorem recitalOfferFailed_contexts (s : State) : ContextsFrom s (recitalOfferFailed s) := by
  refine .of_sending (recitalOfferFailed_frame s) fun d hd => ?_
  unfold recitalOfferFailed at hd
  split at hd
  next none => rw [none] at hd; cases hd
  next c hc =>
    split at hd
    · cases hd
    · obtain rfl := Option.some.inj hd
      exact ⟨c, hc, rfl, rfl⟩

theorem Running.offerRecitalFrame (hs : Running s) : Running (offerRecitalFrame s) := by
  unfold Machine.offerRecitalFrame
  split
  · exact hs
  next c hc =>
    have frame := offer_frame (assembleRecital s c) s
    have offered := hs.of_frame frame
    dsimp only
    split
    · refine offered.withSending fun d hd => ⟨c, frame.sending.trans hc, ?_⟩
      obtain rfl := Option.some.inj hd
      exact ⟨rfl, rfl⟩
    · exact offered.of_contexts (recitalOfferFailed_frame _) (recitalOfferFailed_contexts _)
        (congrArg Station.state (recitalOfferFailed_frame _).station)

/-- A recital is started in ACTIVE, with nobody deferred (R128). -/
theorem Running.startRecital (hs : Running s) (active : s.station.state = .active) (audience : StationSet) :
    Running (startRecital audience s) := by
  refine Running.offerRecitalFrame ⟨hs.started, ⟨fun d hd => ?_, hs.contexts.2⟩, hs.roster⟩
  obtain rfl := Option.some.inj hd
  exact ⟨active, by simp [noStations]⟩

theorem Running.setRequest (hs : Running s) (serial : Nat) (req : ReqState) : Running (setRequest serial req s) := by
  have frame := setRequest_frame serial req s
  refine hs.of_contexts frame (.of_receiving frame fun d hd => ?_) (congrArg Station.state frame.station)
  rw [setRequest_receiving] at hd
  obtain ⟨c, hc, rfl⟩ := Option.map_eq_some_iff.1 hd
  refine ⟨c, hc, ?_⟩
  split <;> rfl

theorem Running.recitalFrameSent (hs : Running s) : Running (recitalFrameSent s) := by
  unfold Machine.recitalFrameSent
  split
  · exact hs
  next c hc =>
    refine Running.offerRecitalFrame (hs.withSending fun d hd => ⟨c, hc, ?_⟩)
    obtain rfl := Option.some.inj hd
    exact ⟨rfl, rfl⟩

theorem Running.recitalEnded (hs : Running s) : Running (recitalEnded s) := by
  unfold Machine.recitalEnded
  split
  · exact hs
  next c hc =>
    have ended : Running { s with sending := none } := hs.withSending (by simp)
    split
    · exact ended
    · exact ended.startRecital (hs.contexts.1 c hc).1 _

theorem Running.reportSent (hs : Running s) (f : Frame) : Running (reportSent s f) := by
  unfold Machine.reportSent
  split
  · exact hs.of_frame (moveMark_frame _ _ _ s)
  · exact hs.of_frame (moveMark_frame _ _ _ s)
  · exact hs.setRequest _ _
  · split
    · exact hs.recitalFrameSent
    · exact hs
  · split
    · exact hs.recitalEnded
    · exact hs
  · exact hs

/-! ### The merge of recital records (R132, R135 to R138) -/

theorem Running.tally (hs : Running s) (f : Tallies → Tallies) : Running (tally f s) :=
  hs.withReceiving fun d hd => by
    obtain ⟨c, hc, rfl⟩ := Option.map_eq_some_iff.1 hd
    exact ⟨c, hc, rfl⟩

theorem Running.skipConflict (hs : Running s) (r : Record) : Running (skipConflict r s) :=
  Running.tally ((hs.raise _).of_frame (drawn_frame _)) _

theorem Running.advanceEntry (hs : Running s) (rr : RecitalRecord) : Running (advanceEntry rr s) := by
  unfold Machine.advanceEntry
  refine Running.tally ?_ _
  have advanced (f : Entry → Entry) (n : Notice) : Running (Machine.raise n (s.modify rr.record.id f)) :=
    (hs.of_frame (modify_frame _ f s)).raise n
  split
  · exact (advanced _ _).of_frame (lapseOvertaken_frame _ _)
  · exact advanced _ _

theorem Running.insertRecord (hs : Running s) (rr : RecitalRecord) : Running (insertRecord rr s) := by
  unfold Machine.insertRecord
  refine Running.tally ?_ _
  have stored := hs.of_frame (storeEntry_frame rr.record (insertionState s rr) rr.endorsers []
    (if insertionState s rr = .proposed then some (s.clock.label + rr.remaining) else none) .none .merge s)
  split
  · exact stored.of_frame (lapseOvertaken_frame _ _)
  · exact stored

theorem Running.mergeHeld (hs : Running s) (rr : RecitalRecord) (e : Entry) : Running (mergeHeld rr e s) := by
  unfold Machine.mergeHeld
  split
  · split
    · exact hs.tally _
    · split
      · exact hs.advanceEntry rr
      · exact hs.skipConflict _
  · split
    · exact (hs.tally _).of_frame (addEndorsers_frame _ _ _)
    · exact hs.tally _

theorem Running.mergeNew (hs : Running s) (rr : RecitalRecord) : Running (mergeNew rr s) := by
  unfold Machine.mergeNew
  dsimp only
  split
  · exact hs.tally _
  · split
    · exact hs.tally _
    · split
      · exact hs.tally _
      · split
        · exact hs.skipConflict _
        · split
          · exact hs.failAttempt _
          · exact hs.insertRecord rr

theorem Running.mergeRecord (hs : Running s) (rr : RecitalRecord) : Running (mergeRecord rr s) := by
  have recovered := hs.of_frame (recoverSequences_frame rr.record s)
  unfold Machine.mergeRecord
  dsimp only
  split
  · exact recovered.mergeHeld rr _
  · exact recovered.mergeNew rr

theorem Running.recitalDone (hs : Running s) (source : Nat) : Running (recitalDone source s) := by
  unfold Machine.recitalDone
  split
  · exact hs
  next c _ =>
    have done : Running (Machine.raise (.recitalDone source c.origin c.tallies) { s with receiving := none }) :=
      (hs.withReceiving (by simp)).raise _
    dsimp only
    split
    · exact done.enterState (attState_ne _)
    · exact done

theorem Running.takeInOrder (hs : Running s) (k : FrameKind) (p : Nat) (b : List Byte) {c : RecvCtx} (n : Nat)
    (held : ∃ d ∈ s.receiving, c.origin = d.origin) : Running (takeInOrder k p b c n s) := by
  unfold Machine.takeInOrder
  split
  · exact (hs.raise _).failAttempt _
  · have taken : Running { s with receiving := some { c with wait := 0, expected := c.expected + 1 } } :=
      hs.withReceiving fun d hd => by obtain rfl := Option.some.inj hd; exact held
    dsimp only
    split
    · exact taken
    · exact taken.mergeRecord _
    · unfold handScales
      split
      · exact Running.recitalDone (taken.of_frame (adoptScales_frame _ _)) _
      · exact taken.failAttempt _

theorem Running.takeRecitalFrame (hs : Running s) (k : FrameKind) (p : Nat) (b : List Byte) :
    Running (takeRecitalFrame k p b s) := by
  unfold Machine.takeRecitalFrame
  split
  · exact hs
  next c hc =>
    split
    · exact hs
    · dsimp only
      split
      · split
        · refine Running.takeInOrder (hs.withReceiving fun d hd => ⟨c, hc, ?_⟩) k p b _ ⟨_, rfl, rfl⟩
          obtain rfl := Option.some.inj hd
          rfl
        · exact hs
      · split
        · exact hs
        · split
          · exact hs.takeInOrder k p b _ ⟨c, hc, rfl⟩
          · exact hs.failAttempt _

end

end Sys2Proof.Machine
end

section
/-! SUPPORT. The Station Controller, the boundary, the line and the frames after START: contexts in their station states and
vacant slots ABSENT (R105 to R122). -/

namespace Sys2Proof.Machine

set_option Elab.async false

section
variable {s t : State} {ps : List Part}

/-! ### The roster (R110 to R112) -/

/-- A slot replaced: one that stands for no other station by an ABSENT one. -/
theorem Running.setSlot (hs : Running s) (p : Nat) {sl : Slot} (h : Vacant s p → sl.state = .absent) :
    Running (s.setSlot p sl) := by
  refine ⟨hs.started, hs.contexts, fun q hq vacant => ?_⟩
  rw [setSlot_slot hq]
  split
  next same => exact h (same ▸ vacant)
  next => exact hs.roster q hq vacant

theorem Running.changeSlot (hs : Running s) (p : Nat) {sl : Slot} (h : Vacant s p → sl.state = .absent)
    (cause : PeerCause) : Running (changeSlot p sl cause s) := by
  unfold Machine.changeSlot
  dsimp only
  split
  · exact hs.setSlot p h
  · exact (hs.setSlot p h).raise _

/-- A vacant slot is ABSENT, whatever its number. -/
theorem Running.vacant (hs : Running s) {p : Nat} (h : Vacant s p) : (s.slot p).state = .absent := by
  by_cases hp : p < 16
  · exact hs.roster p hp h
  · rw [State.slot, Vector.getElem?_eq_none (Nat.not_lt.1 hp)]
    rfl

theorem jumped_absent {sl : Slot} (h : sl.state = .absent) (jump : Int) : (sl.jumped jump).state = .absent := by
  unfold Slot.jumped
  split
  · exact h
  · simp [h]

theorem silenced_absent {sl : Slot} (h : sl.state = .absent) : sl.silenced.state = .absent := by
  simp [Slot.silenced, h]

theorem Running.silenceSlot (hs : Running s) (p : Nat) : Running (silenceSlot p s) :=
  hs.changeSlot p (fun vacant => silenced_absent (hs.vacant vacant)) .silence

theorem Running.advanceSilence (hs : Running s) (p : Nat) : Running (advanceSilence s p) := by
  unfold Machine.advanceSilence
  dsimp only
  split
  · exact Running.silenceSlot (hs.setSlot (sl := { s.slot p with silence := (s.slot p).silence + 1 }) p hs.vacant) p
  · exact hs

theorem Running.advanceSilences (hs : Running s) : Running (advanceSilences s) :=
  hs.foldl fun _ ht p _ => ht.advanceSilence p

theorem Running.aged (hs : Running s) : Running { s with roster := s.roster.map Slot.older } := by
  refine ⟨hs.started, hs.contexts, fun p hp vacant => ?_⟩
  rw [older_slot (s := s) rfl hp, older_state]
  exact hs.roster p hp vacant

/-- The sender that is reported is another station of the shelf (R111). -/
theorem Running.reportSender (hs : Running s) {p : Nat} (member : ¬ Vacant s p) : Running (reportSender p s) := by
  unfold Machine.reportSender
  dsimp only
  split
  · exact hs.changeSlot p (fun vacant => absurd vacant member) _
  · exact hs

/-! ### The evaluations and the beacon time (R108, R113 to R119) -/

theorem Running.evaluatePlan (hs : Running s) : Running (evaluatePlan s) := by
  unfold Machine.evaluatePlan
  dsimp only
  split
  · exact (hs.raise _).enterState (by decide)
  · exact hs

theorem Running.armAdoption (hs : Running s) : Running (armAdoption s) :=
  hs.of_state (armAdoption_frame s) (armAdoption_state s)

theorem Running.evaluateLabel (hs : Running s) : Running (evaluateLabel s) := by
  unfold Machine.evaluateLabel
  dsimp only
  split
  · split
    · exact ((hs.raise _).enterState (by decide)).armAdoption
    · split
      · exact hs.armAdoption
      · exact hs
  · split
    · exact hs.enterState (by decide)
    · exact hs

theorem Running.evaluateDiscord (hs : Running s) : Running (evaluateDiscord s) := by
  unfold Machine.evaluateDiscord
  dsimp only
  generalize (if evaluationLost (discordSides s).1 (discordSides s).2 = true then EvalResult.lost else .won) = r
  have noted : Running { s with station := { s.station with history := appendResult s.station.history r } } :=
    hs.withStation rfl
  split
  next active =>
    split
    · refine Running.withStation (noted.askRecital (o := .discord) _ (.inr ⟨active.1, by decide⟩)) ?_
      rw [(askRecital_frame _ _ _).station]
    · exact noted
  next => exact noted

theorem Running.endListeningIfDue (hs : Running s) : Running (endListeningIfDue s) := by
  unfold Machine.endListeningIfDue
  split
  · unfold endListening
    split
    · exact Running.askRecital (hs.enterState (by decide)) _ (.inl ⟨enterState_state _ _, rfl⟩)
    · exact hs.enterState (attState_ne s)
  · exact hs

theorem Running.advanceListening (hs : Running s) : Running (advanceListening s) := by
  unfold Machine.advanceListening
  split
  · exact Running.endListeningIfDue (hs.withStation (x := { s.station with listen := s.station.listen + 1 }) rfl)
  · exact hs

theorem Running.beaconWork (hs : Running s) : Running (beaconWork s) :=
  (((((hs.advanceSilences).evaluatePlan).evaluateLabel).evaluateDiscord).advanceListening).of_frame
    (offerBeacon_frame _)

/-! ### Adoption (R116) -/

theorem Running.afterAdoption (hs : Running s) : Running (afterAdoption s) := by
  unfold Machine.afterAdoption
  split
  · exact hs.enterState (by decide)
  · exact hs.withStation rfl
  · exact hs

theorem Running.takeReport (hs : Running s) (rep : LabelReport) : Running (takeReport rep s) := by
  have cleared {t : State} (ht : Running t) : Running (clearAdoption t) := ht.withStation rfl
  unfold Machine.takeReport
  split
  · exact Running.afterAdoption (cleared (hs.foldl fun _ ht p _ =>
      ht.changeSlot p (fun vacant => jumped_absent (ht.vacant vacant) _) _))
  · exact cleared hs
  · exact hs

theorem Running.stationWork (hs : Running s) (rep : LabelReport) : Running (stationWork rep s) := by
  have counted := (hs.aged.takeReport rep).of_state (advanceAdoption_frame _) (advanceAdoption_state _)
  unfold Machine.stationWork
  dsimp only
  split
  · exact hs
  · split
    · exact counted.beaconWork
    · exact counted

/-! ### The boundary -/

theorem Running.receiveWork (hs : Running s) : Running (receiveWork s) := by
  unfold Machine.receiveWork
  split
  · exact hs
  next c hc =>
    have waited : Running { s with receiving := some { c with wait := c.wait + 1 } } :=
      hs.withReceiving fun d hd => ⟨c, hc, by obtain rfl := Option.some.inj hd; rfl⟩
    dsimp only
    split
    · split
      · exact waited.failAttempt _
      · split
        · exact waited.offerRequest
        · exact waited
    · exact hs

theorem Running.reofferRecital (hs : Running s) : Running (reofferRecital s) := by
  unfold Machine.reofferRecital
  split
  · split
    · exact hs.offerRecitalFrame
    · exact hs
  · exact hs

theorem Running.runStage (hs : Running s) (rep : LabelReport) (st : Stage) : Running (runStage rep st s) := by
  cases st with
  | apply => exact hs.of_frame (applyPass_frame s)
  | expiry => exact hs.of_frame (expireWindows_frame s)
  | station => exact hs.stationWork rep
  | retest => exact hs.of_frame (retestQuorum_frame s)
  | ratifyOffers => exact hs.of_frame (reofferRatify_frame s)
  | proposeOffers => exact hs.of_frame (reofferPropose_frame s)
  | recitalSend => exact hs.reofferRecital
  | recitalReceive => exact hs.receiveWork

theorem Running.boundary (hs : Running s) (ord : BoundaryOrder) (c : Clock) : Running (boundary ord (s.setClock c)) := by
  have labelled := ((hs.of_frame (setClock_frame c s)).of_frame (takeLabel_frame ord.passBeforeTest _)).of_frame
    (moveWindows_frame (takeLabel ord.passBeforeTest (s.setClock c)).1.jump _)
  have worked : Running (runStages ord (takeLabel ord.passBeforeTest (s.setClock c)).1 _) :=
    labelled.foldl fun _ ht st _ => ht.runStage _ st
  exact (worked.of_frame (realignIfAdopted_frame _ _)).of_frame (outputsBoundary_frame _)

theorem Running.secinEdge (hs : Running s) (ord : BoundaryOrder) : Running (secinEdge ord s) := by
  unfold Machine.secinEdge
  split
  · split
    · unfold spuriousEdge
      dsimp only
      split
      · exact hs.raise _
      · split
        · exact (hs.boundary ord _).raise _
        · exact Running.raise (hs.of_frame (setClock_frame _ s)) _
    · exact hs.boundary ord _
  · exact hs.boundary ord _

theorem Running.substitutedBoundary (hs : Running s) (ord : BoundaryOrder) : Running (substitutedBoundary ord s) := by
  unfold Machine.substitutedBoundary
  split
  · exact (hs.boundary ord _).raise _
  · exact hs

/-! ### The line and its reset -/

theorem Running.onLine (hs : Running s) (l : Line) (q : List Frame) : Running ((s.setLine l).setQueue q) :=
  (hs.of_frame (setLine_frame l s)).of_frame (setQueue_frame q _)

theorem Running.frameBegin (hs : Running s) : Running (frameBegin s) := by
  unfold Machine.frameBegin
  split
  · have purged := (hs.of_frame (setQueue_frame (s.line.queue.dropWhile s.headPurged) s)).foldl
      (l := s.line.queue.takeWhile s.headPurged) fun _ ht f _ => ht.reportPurged f
    unfold beginHead
    split
    · exact purged
    · split
      · exact purged.of_frame (setLine_frame _ _)
      · exact purged
  · exact hs

theorem Running.frameSent (hs : Running s) : Running (frameSent s) := by
  unfold Machine.frameSent
  split
  · split
    · unfold unlessSilent
      split
      · exact hs.onLine _ _
      · exact (hs.onLine _ _).reportSent _
    · exact hs
  · exact hs

theorem Running.clashNow (hs : Running s) : Running (clashNow s) := by
  unfold Machine.clashNow
  split
  · split
    · dsimp only
      split
      · exact hs.onLine _ _
      · exact (hs.onLine _ _).reportPurged _
      · split
        · exact (hs.onLine _ _).abandonFrame _
        · exact hs.onLine _ _
    · exact hs
  · exact hs

theorem Running.abandonNow (hs : Running s) : Running (abandonNow s) := by
  unfold Machine.abandonNow
  split
  · unfold abandonStanding
    split
    · exact Running.abandonFrame (hs.of_frame (setQueue_frame _ s)) _
    · exact hs
  · split
    · exact hs.clashNow
    · exact hs

theorem Running.joinAfterReset (hs : Running s) : Running (joinAfterReset s) := by
  unfold Machine.joinAfterReset
  split
  · exact hs
  · exact Running.withStation (hs.enterState (new := .joining) (by decide)) rfl

/-- A line reset drops both contexts and empties the roster (R122, R131, R139). -/
theorem Running.lineReset (hs : Running s) (source : ResetSource) : Running (lineReset source s) := by
  unfold Machine.lineReset
  split
  · exact hs
  · have reset : Running (unitsReset s) :=
      ⟨hs.started, contextsPlaced_none rfl rfl, fun p hp _ => congrArg Slot.state (slot_replicate rfl ⟨p, hp⟩)⟩
    exact (reset.joinAfterReset).raise _

/-! ### Received frames -/

theorem Running.missEntry (hs : Running s) (id : Ident) (set : StationSet) : Running (missEntry id set s) := by
  unfold Machine.missEntry
  dsimp only
  split
  next active => exact (hs.raise _).askRecital _ (.inr ⟨active, by decide⟩)
  next => exact hs.raise _

theorem Running.takeRatify (hs : Running s) (p : Nat) (b : List Byte) : Running (takeRatify p b s) := by
  unfold Machine.takeRatify
  split
  · exact hs
  · dsimp only
    split
    · exact hs.raise _
    · split
      · exact hs.missEntry _ _
      · split
        · exact hs.of_frame (ratifyClaim_frame _ _ s)
        · exact hs

/-- A requester that joins the deferred audience leaves the audience (R127). -/
theorem moved_disjoint {a d : StationSet} (h : a &&& d = 0) (p : Nat) : dropStation a p &&& addStation d p = 0 := by
  apply BitVec.eq_of_getLsbD_eq
  intro i _
  have apart := congrArg (BitVec.getLsbD · i) h
  simp only [BitVec.getLsbD_and] at apart
  simp only [dropStation, addStation, BitVec.getLsbD_and, BitVec.getLsbD_or, BitVec.getLsbD_not]
  grind

theorem Running.placeRequester (hs : Running s) (active : s.station.state = .active) (p : Nat) :
    Running (placeRequester p s) := by
  unfold Machine.placeRequester
  split
  · exact hs.startRecital active _
  next c hc =>
    refine ⟨hs.started, ⟨fun d hd => ?_, hs.contexts.2⟩, hs.roster⟩
    obtain rfl := Option.some.inj hd
    exact ⟨active, moved_disjoint (hs.contexts.1 c hc).2 p⟩

theorem Running.takeReciteReq (hs : Running s) (p : Nat) (b : List Byte) : Running (takeReciteReq p b s) := by
  unfold Machine.takeReciteReq
  dsimp only
  split
  · exact hs.raise _
  · split
    · exact hs
    next served =>
      simp only [not_or, Decidable.not_not] at served
      exact hs.placeRequester served.2.1 p

theorem Running.takeBeacon (hs : Running s) {p : Nat} (member : ¬ Vacant s p) (b : List Byte) :
    Running (takeBeacon p b s) := by
  unfold Machine.takeBeacon
  split
  · exact hs.raise _
  · exact Running.of_state (hs.changeSlot p (fun vacant => absurd vacant member) _) (meetBeacon_frame _ _ _)
      (meetBeacon_state _ _ _)

theorem Running.deliver (hs : Running s) (w : VerdictTime) (k : FrameKind) {p : Nat} (member : ¬ Vacant s p)
    (b : List Byte) : Running (deliver w k p b s) := by
  cases k with
  | beacon => exact hs.takeBeacon member b
  | propose => exact hs.of_frame (takePropose_frame w p b s)
  | endorse => exact hs.of_frame (takeEndorse_frame p b s)
  | object => exact hs.of_frame (takeObject_frame p b s)
  | ratify => exact hs.takeRatify p b
  | reciteReq => exact hs.takeReciteReq p b
  | recital => exact hs.takeRecitalFrame _ p b
  | scaleState => exact hs.takeRecitalFrame _ p b

theorem Running.handOn (hs : Running s) (w : VerdictTime) (k : FrameKind) {p : Nat} (member : ¬ Vacant s p)
    (b : List Byte) : Running (handOn w k p b s) := by
  have read : Running (s.setLine (s.line.toIdle 0)) := hs.of_frame (setLine_frame _ s)
  refine Running.deliver (read.reportSender member) w k ?_ b
  rwa [Vacant, (reportSender_frame p _).pins, (reportSender_frame p _).plan]

/-- The sender of a frame that passes tests 4 and 5 is another station of the shelf (R67). -/
theorem senderFault_member {p : Nat} (h : senderFault s p = none) : ¬ Vacant s p := by
  obtain ⟨own, range⟩ := senderFault_none h
  exact not_or.2 ⟨own, Nat.not_le.2 range⟩

theorem typedFault_member {k : FrameKind} {p : Nat} {b : List Byte} (h : typedFault s k p b = none) :
    ¬ Vacant s p := by
  unfold typedFault at h
  split at h
  · cases h
  · split at h
    · cases h
    next passes => exact senderFault_member passes

theorem rawFault_member {f : RawFrame} {k : FrameKind} (h : rawFault s f = .ok k) : ¬ Vacant s f.sender.toNat := by
  unfold rawFault at h
  split at h
  · cases h
  · split at h
    · cases h
    · split at h
      · cases h
      · split at h
        · cases h
        next passes => exact senderFault_member passes

theorem Running.receiveTyped (hs : Running s) (w : VerdictTime) (k : FrameKind) (p : Nat) (b : List Byte) :
    Running (receiveTyped w k p b s) := by
  unfold Machine.receiveTyped
  split
  · split
    · exact hs.of_frame (discardFrame_frame _ _ _ _ _ s)
    next passes => exact hs.handOn w k (typedFault_member passes) b
  · exact hs

theorem Running.receiveRaw (hs : Running s) (f : RawFrame) : Running (receiveRaw f s) := by
  unfold Machine.receiveRaw
  split
  · split
    · exact hs.of_frame (discardFrame_frame _ _ _ _ _ s)
    next passes => exact hs.handOn _ _ (rawFault_member passes) _
  · exact hs

/-! ### The commands -/

theorem Running.respond (hs : Running s) (code : Byte) (st : Status) (r : Nat) (d : Data) :
    Running (respond code st r d s) := hs.of_frame (respond_frame code st r d s)

/-- The level of an input pin is no matter of the contexts or the roster. -/
theorem Running.withLevels (hs : Running s) {x : Pins} (stn : x.stn = s.pins.stn) : Running { s with pins := x } :=
  ⟨hs.started, hs.contexts, fun p hp vacant => hs.roster p hp (by rwa [Vacant, stn] at vacant)⟩

theorem Running.attChange (hs : Running s) (high : Bool) (h : execAttChange high s = .next t) : Running t := by
  have level : Running { s with pins := { s.pins with att := high } } := hs.withLevels rfl
  unfold execAttChange at h
  dsimp only at h
  split at h
  · exact of_next h hs
  · split at h
    · exact of_next h (level.enterState (by decide))
    · refine of_next h (level.enterState ?_)
      unfold riseTarget
      split <;> decide
    · exact of_next h level

theorem Running.driveQuench (hs : Running s) (g : Group) (active : Bool) : Running (driveQuench g active s) := by
  have level (high : Bool) : Running (s.setQuenchLevel g high) := by
    cases g with
    | qa => exact hs.withLevels rfl
    | qb => exact hs.withLevels rfl
  unfold Machine.driveQuench
  dsimp only
  split
  · exact (level _).of_frame (quenchWhere_frame _ _ _)
  · exact level _

/-- After START every command but RESET keeps the contexts in their station states and the vacant slots ABSENT. -/
theorem Running.exec {c : Instr} (hs : Running s) (reset : ∀ stn lrate, c ≠ .reset stn lrate)
    (h : exec c s = .next t) : Running t := by
  cases c with
  | reset stn lrate => exact absurd rfl (reset stn lrate)
  | setPlan a =>
    rw [show Machine.exec (.setPlan a) s = execSetPlan a s from rfl, execSetPlan, configure_started hs.started] at h
    exact of_next h (hs.respond _ _ _ _)
  | start =>
    rw [show Machine.exec .start s = execStart s from rfl, execStart, if_pos hs.started] at h
    exact of_next h (hs.respond _ _ _ _)
  | rejoin =>
    rw [show Machine.exec .rejoin s = execRejoin s from rfl, execRejoin, if_neg hs.started] at h
    exact of_next h ((hs.lineReset _).respond _ _ _ _)
  | lreset => exact of_next h (hs.lineReset _)
  | attChange high => exact hs.attChange high h
  | quenchAssertion g => exact of_next h (hs.driveQuench g true)
  | quenchInputInactive g => exact of_next h (hs.driveQuench g false)
  | secinEdge ord => exact of_next h (hs.secinEdge ord)
  | substitutedBoundary ord => exact of_next h (hs.substitutedBoundary ord)
  | peerSilence p => exact of_next h (hs.silenceSlot p.val)
  | endOfListening => exact of_next h hs.endListeningIfDue
  | adoptionRequest => exact of_next h (hs.of_state (requestIfDue_frame s) (requestIfDue_state s))
  | recitalTimeout =>
    refine of_next h ?_
    unfold timeoutIfDue
    split
    · split
      · exact hs.failAttempt _
      · exact hs
    · exact hs
  | frameBegin => exact of_next h hs.frameBegin
  | frameSent => exact of_next h hs.frameSent
  | clash => exact of_next h hs.clashNow
  | frameAbandoned => exact of_next h hs.abandonNow
  | rxFrameInvalid f => exact of_next h (hs.receiveRaw f)
  | beacon sender body => exact of_next h (hs.receiveTyped _ _ _ _)
  | propose sender body => exact of_next h (hs.receiveTyped _ _ _ _)
  | endorse sender body => exact of_next h (hs.receiveTyped _ _ _ _)
  | object sender body => exact of_next h (hs.receiveTyped _ _ _ _)
  | ratify sender body => exact of_next h (hs.receiveTyped _ _ _ _)
  | reciteReq sender body => exact of_next h (hs.receiveTyped _ _ _ _)
  | recital sender body => exact of_next h (hs.receiveTyped _ _ _ _)
  | scaleState sender body => exact of_next h (hs.receiveTyped _ _ _ _)
  | recitalAbandon =>
    refine of_next h ?_
    split
    · exact hs.withSending (by simp)
    · exact hs
  | _ =>
    exact hs.of_frame (exec_frame _ h) (by simp [touches]) (by simp [touches]) (by simp [touches]) (by simp [touches])
      (by simp [touches]) (by simp [touches])

end

end Sys2Proof.Machine
end

section
/-! SUPPORT. The part before START, in which no unit does anything for the shelf, and the invariant of steps that holds before
and after START (R41, R60, R110, R125, R131, R139). -/

namespace Sys2Proof.Machine

set_option Elab.async false

/-! ### Before START -/

/-- Before START: the line DETACHED, no entry, no recital context, and every slot ABSENT (R41, R60, R110, R125). -/
structure Dormant (s : State) : Prop where
  unconfigured : s.station.state = .unconfigured
  detached : s.line.state = .detached
  table : s.table.entries = []
  sending : s.sending = none
  receiving : s.receiving = none
  roster : ∀ p < 16, (s.slot p).state = .absent

section
variable {s t : State} {ps : List Part}

theorem Dormant.of_frame (hs : Dormant s) (h : ChangesOnly ps s t) (station : Part.station ∉ ps := by decide)
    (line : Part.line ∉ ps := by decide) (table : Part.table ∉ ps := by decide)
    (sending : Part.sending ∉ ps := by decide) (receiving : Part.receiving ∉ ps := by decide)
    (roster : Part.roster ∉ ps := by decide) : Dormant t where
  unconfigured := h.station station ▸ hs.unconfigured
  detached := h.line line ▸ hs.detached
  table := h.table table ▸ hs.table
  sending := h.sending sending ▸ hs.sending
  receiving := h.receiving receiving ▸ hs.receiving
  roster p hp := slot_of_roster (h.roster roster) p ▸ hs.roster p hp

theorem Dormant.unheld (hs : Dormant s) (id : Ident) : s.find id = none := by
  rw [State.find, hs.table, List.find?_nil]

theorem Dormant.noIds (hs : Dormant s) (p : Entry → Bool) : s.idsWhere p = [] := by
  simp [State.idsWhere, hs.table]

theorem Dormant.inactive (hs : Dormant s) (f : State → State) : whenActive f s = s := by
  simp [whenActive, hs.unconfigured]

/-! ### The commands that do nothing before START -/

theorem Dormant.runStage (hs : Dormant s) (rep : LabelReport) (st : Stage) : runStage rep st s = s := by
  cases st with
  | apply => exact if_pos hs.unconfigured
  | expiry => simp [Machine.runStage, expireWindows, hs.noIds]
  | station => exact if_pos hs.unconfigured
  | retest => simp [Machine.runStage, retestQuorum, hs.inactive]
  | ratifyOffers => simp [Machine.runStage, reofferRatify, hs.inactive]
  | proposeOffers => simp [Machine.runStage, reofferPropose, hs.inactive]
  | recitalSend => simp [Machine.runStage, reofferRecital, hs.sending]
  | recitalReceive => simp [Machine.runStage, receiveWork, hs.receiving]

/-- A boundary before START takes a label and reaches the outputs, and no unit works at it. -/
theorem Dormant.boundary (hs : Dormant s) (ord : BoundaryOrder) (c : Clock) : Dormant (boundary ord (s.setClock c)) := by
  have labelled := (hs.of_frame (setClock_frame c s)).of_frame (takeLabel_frame ord.passBeforeTest _)
  have moved (j : Int) : Dormant (moveWindows j (takeLabel ord.passBeforeTest (s.setClock c)).2) := by
    rw [moveWindows, if_neg (by simp [labelled.table])]
    exact labelled
  have worked (rep : LabelReport) (j : Int) :
      Dormant (runStages ord rep (moveWindows j (takeLabel ord.passBeforeTest (s.setClock c)).2)) :=
    List.foldlRecOn (motive := Dormant) _ _ (moved j) fun t ht st _ => by rw [ht.runStage]; exact ht
  exact ((worked _ _).of_frame (realignIfAdopted_frame _ _)).of_frame (outputsBoundary_frame _)

theorem Dormant.secinEdge (hs : Dormant s) (ord : BoundaryOrder) : Dormant (secinEdge ord s) := by
  unfold Machine.secinEdge
  split
  · split
    · unfold spuriousEdge
      dsimp only
      split
      · exact hs.of_frame (raise_frame _ s)
      · split
        · exact (hs.boundary ord _).of_frame (raise_frame _ _)
        · exact (hs.of_frame (setClock_frame _ s)).of_frame (raise_frame _ _)
    · exact hs.boundary ord _
  · exact hs.boundary ord _

theorem Dormant.substitutedBoundary (hs : Dormant s) (ord : BoundaryOrder) : Dormant (substitutedBoundary ord s) := by
  unfold Machine.substitutedBoundary
  split
  · exact (hs.boundary ord _).of_frame (raise_frame _ _)
  · exact hs

theorem Dormant.silenceSlot (hs : Dormant s) (p : Fin 16) : Dormant (silenceSlot p.val s) := by
  have same : (s.slot p.val).silenced = s.slot p.val := by simp [Slot.silenced, hs.roster p.val p.isLt]
  refine ⟨?_, ?_, ?_, ?_, ?_, fun q hq => ?_⟩
  · rw [(silenceSlot_frame _ s).station]; exact hs.unconfigured
  · rw [(silenceSlot_frame _ s).line]; exact hs.detached
  · rw [(silenceSlot_frame _ s).table]; exact hs.table
  · rw [(silenceSlot_frame _ s).sending]; exact hs.sending
  · rw [(silenceSlot_frame _ s).receiving]; exact hs.receiving
  · rw [Machine.silenceSlot, changeSlot_slot hq, same]
    split <;> exact hs.roster _ (by omega)

theorem reportAbandoned_sameButMarks (s : State) (f : Frame) : sameButMarks s (reportAbandoned s f) := by
  unfold reportAbandoned
  split
  · exact moveMark_sameButMarks _ _ _ _
  · exact moveMark_sameButMarks _ _ _ _
  · exact .of_table (setRequest_frame f.serial .due s).table
  · exact .of_table (offerFailed_told f.serial s).1.table
  · exact .of_table (offerFailed_told f.serial s).1.table
  · exact .of_table rfl

theorem Dormant.requestIfDue (hs : Dormant s) : Dormant (requestIfDue s) := by
  have frame := requestIfDue_frame s
  refine ⟨?_, ?_, ?_, ?_, ?_, fun p hp => ?_⟩
  · rw [requestIfDue_state]; exact hs.unconfigured
  · rw [frame.line]; exact hs.detached
  · rw [frame.table]; exact hs.table
  · rw [frame.sending]; exact hs.sending
  · rw [frame.receiving]; exact hs.receiving
  · rw [slot_of_roster frame.roster]; exact hs.roster p hp

/-- A frame that stands at its eighth clash leaves the queue of a line that is DETACHED too (R75). -/
theorem Dormant.abandonNow (hs : Dormant s) : Dormant (abandonNow s) := by
  have clash : clashNow s = s := by simp [clashNow, hs.detached]
  unfold Machine.abandonNow
  split
  · unfold abandonStanding
    split
    next f _ =>
      generalize s.line.queue.eraseP _ = q
      have frame : ChangesOnly [.table, .line, .sending, .receiving, .notices] s (abandonFrame f (s.setQueue q)) :=
        (setQueue_frame q s).then (abandonFrame_frame f _)
      obtain ⟨-, -, -, receiving, sending⟩ := reportAbandoned_told (s.setQueue q) f
      have line : (abandonFrame f (s.setQueue q)).line = { s.line with queue := q } := (abandonFrame_frame f _).line
      refine ⟨?_, ?_, ?_, ?_, ?_, fun p hp => ?_⟩
      · rw [frame.station]; exact hs.unconfigured
      · rw [line]; exact hs.detached
      · have marks := (reportAbandoned_sameButMarks (s.setQueue q) f).1
        rw [setQueue_table, hs.table] at marks
        exact List.map_eq_nil_iff.1 marks
      · exact sending.trans (by simp [hs.sending])
      · exact receiving.trans (by simp [hs.receiving])
      · rw [slot_of_roster frame.roster]; exact hs.roster p hp
    next => exact hs
  · split
    · rw [clash]; exact hs
    · exact hs

theorem Dormant.proposeOwn (hs : Dormant s) (w : VerdictTime) (code : Byte) (mk : Option (Word → Record)) :
    Dormant (proposeOwn w code mk s) := by
  unfold Machine.proposeOwn
  rw [if_pos (by simp [hs.unconfigured])]
  exact hs.of_frame (respond_frame _ _ _ _ s)

theorem Dormant.attChange (hs : Dormant s) (high : Bool) (h : execAttChange high s = .next t) : Dormant t := by
  have level : Dormant { s with pins := { s.pins with att := high } } :=
    ⟨hs.unconfigured, hs.detached, hs.table, hs.sending, hs.receiving, hs.roster⟩
  unfold execAttChange at h
  dsimp only at h
  split at h
  · exact of_next h hs
  · split at h
    next active _ => simp [hs.unconfigured] at active
    next listening _ => simp [hs.unconfigured] at listening
    next => exact of_next h level

theorem Dormant.deaf (hs : Dormant s) (w : VerdictTime) (k : FrameKind) (p : Nat) (b : List Byte) :
    Dormant (receiveTyped w k p b s) := by
  rw [receiveTyped_deaf hs.detached]
  exact hs

theorem dormant_reset {stn : BitVec 4} {lrate : BitVec 2} (h : execReset stn lrate s = .next t) : Dormant t :=
  of_next h ⟨rfl, rfl, rfl, rfl, rfl, fun p hp => congrArg Slot.state (slot_replicate rfl ⟨p, hp⟩)⟩

/-- Before START every command but START itself leaves the part as it is before START. -/
theorem Dormant.exec {c : Instr} (hs : Dormant s) (start : c ≠ .start) (h : exec c s = .next t) : Dormant t := by
  cases c with
  | start => exact absurd rfl start
  | reset stn lrate => exact dormant_reset h
  | proposeLeap scale kind turn => exact of_next h (hs.proposeOwn _ _ _)
  | proposeOffset scale turn offset => exact of_next h (hs.proposeOwn _ _ _)
  | proposeCustody scale custodian => exact of_next h (hs.proposeOwn _ _ _)
  | proposeWithdraw proposer seq => exact of_next h (hs.proposeOwn _ _ _)
  | rejoin =>
    rw [show Machine.exec .rejoin s = execRejoin s from rfl, execRejoin, if_pos hs.unconfigured] at h
    exact of_next h (hs.of_frame (respond_frame _ _ _ _ s))
  | lreset => exact of_next h (by rw [lineReset, if_pos hs.unconfigured]; exact hs)
  | attChange high => exact hs.attChange high h
  | secinEdge ord => exact of_next h (hs.secinEdge ord)
  | substitutedBoundary ord => exact of_next h (hs.substitutedBoundary ord)
  | windowExpiry id => exact of_next h (by rw [expireEntry, hs.unheld]; exact hs)
  | peerSilence p => exact of_next h (hs.silenceSlot p)
  | endOfListening => exact of_next h (by rw [endListeningIfDue, if_neg (by simp [hs.unconfigured])]; exact hs)
  | adoptionRequest => exact of_next h hs.requestIfDue
  | recitalTimeout => exact of_next h (by rw [timeoutIfDue, hs.receiving]; exact hs)
  | lineSynchronised => exact of_next h (by rw [synchronise, if_neg (by simp [hs.detached])]; exact hs)
  | frameBegin => exact of_next h (by rw [frameBegin, if_neg (by simp [hs.detached])]; exact hs)
  | frameDefer => exact of_next h (by rw [deferTo, if_neg (by simp [hs.detached])]; exact hs)
  | frameSent => exact of_next h (by simpa [frameSent, hs.detached] using hs)
  | clash => exact of_next h (by simpa [clashNow, hs.detached] using hs)
  | frameAbandoned => exact of_next h hs.abandonNow
  | rxFrameInvalid f => exact of_next h (by rw [receiveRaw_deaf hs.detached]; exact hs)
  | beacon sender body => exact of_next h (hs.deaf _ _ _ _)
  | propose sender body => exact of_next h (hs.deaf _ _ _ _)
  | endorse sender body => exact of_next h (hs.deaf _ _ _ _)
  | object sender body => exact of_next h (hs.deaf _ _ _ _)
  | ratify sender body => exact of_next h (hs.deaf _ _ _ _)
  | reciteReq sender body => exact of_next h (hs.deaf _ _ _ _)
  | recital sender body => exact of_next h (hs.deaf _ _ _ _)
  | scaleState sender body => exact of_next h (hs.deaf _ _ _ _)
  | recitalAbandon =>
    refine of_next h ?_
    split
    · exact ⟨hs.unconfigured, hs.detached, hs.table, rfl, hs.receiving, hs.roster⟩
    · exact hs
  | _ =>
    exact hs.of_frame (exec_frame _ h) (by simp [touches]) (by simp [touches]) (by simp [touches]) (by simp [touches])
      (by simp [touches]) (by simp [touches])

end

end Sys2Proof.Machine
end

section
/-! SUPPORT. The steps of the part before START and after it, and START and RESET between the two (R60, R110, R125, R131,
R139). -/

namespace Sys2Proof.Machine

set_option Elab.async false

section
variable {s t : State}

/-! ### Claims, ticks and START before START -/

/-- A verdict that arrives before START does nothing but answer a proposal (R83, R88). -/
theorem Dormant.take (hs : Dormant s) (v : PendingVerdict) : Dormant (v.take s) := by
  cases v with
  | line r v =>
    change Dormant (takeVerdict r v s)
    rwa [takeVerdict_drops (by rw [hs.unconfigured]; rfl)]
  | port code r v =>
    change Dormant (takeOwnVerdict false code r v s)
    unfold takeOwnVerdict
    rw [if_pos (by simp [hs.unconfigured])]
    exact hs.of_frame (respond_frame _ _ _ _ s)
  | ratify id =>
    change Dormant (ratifyStored id s)
    rwa [ratifyStored_gone (by simp [hs.unheld])]

theorem Dormant.tick (hs : Dormant s) : Dormant (tick s) where
  unconfigured := hs.unconfigured
  detached := (lineTick_state s.line _ _).trans hs.detached
  table := hs.table
  sending := hs.sending
  receiving := hs.receiving
  roster := hs.roster

/-- START configures a station that holds no context and has every slot ABSENT (R187). -/
theorem Dormant.startUp (hs : Dormant s) : Running (startUp s) where
  started := by
    have joining : (Machine.startUp s).station.state = .joining := by
      rw [Machine.startUp, ((quenchAtStart_frame .qa _).trans (quenchAtStart_frame .qb _)).station]
    simp [State.started, joining]
  contexts := contextsPlaced_none (by rw [(startUp_frame s).sending]; exact hs.sending)
    (by rw [(startUp_frame s).receiving]; exact hs.receiving)
  roster p hp _ := by rw [slot_of_roster (startUp_frame s).roster]; exact hs.roster p hp

/-! ### The two parts of a run -/

/-- The part before START, or after START with the line attached (R60). -/
def Placed (s : State) : Prop := Dormant s ∨ (Running s ∧ s.line.state ≠ .detached)

theorem slot_beyond {p : Nat} (h : 16 ≤ p) : s.slot p = Slot.absent := by
  simp [State.slot, Vector.getElem?_eq_none h]

theorem Dormant.slot_absent (hs : Dormant s) (p : Nat) : (s.slot p).state = .absent := by
  by_cases h : p < 16
  · exact hs.roster p h
  · rw [slot_beyond (by omega)]; rfl

theorem Running.slot_absent (hs : Running s) {p : Nat} (vacant : Vacant s p) : (s.slot p).state = .absent := by
  by_cases h : p < 16
  · exact hs.roster p h vacant
  · rw [slot_beyond (by omega)]; rfl

theorem Placed.sound (hs : Placed s) : Quiescent s ∧ ContextsPlaced s ∧ RosterSound s := by
  obtain dormant | ⟨running, attached⟩ := hs
  · exact ⟨⟨by simp [dormant.detached, dormant.unconfigured], .inr dormant.table⟩,
      contextsPlaced_none dormant.sending dormant.receiving,
      dormant.slot_absent _, fun p _ => dormant.slot_absent _⟩
  · refine ⟨⟨⟨fun h => absurd h attached, fun h => absurd h running.started⟩, .inl running.started⟩, running.contexts,
      running.slot_absent (.inl rfl), fun p beyond => running.slot_absent (.inr ?_)⟩
    exact beyond.resolve_right running.started

theorem Placed.of_sound (quiescent : Quiescent s) (contexts : ContextsPlaced s) (roster : RosterSound s) : Placed s := by
  obtain ⟨detached, table⟩ := quiescent
  obtain ⟨own, others⟩ := roster
  by_cases un : s.station.state = .unconfigured
  · refine .inl ⟨un, detached.2 un, table.resolve_left (not_not_intro un), ?_, ?_, fun p hp => others ⟨p, hp⟩ (.inr un)⟩
    · exact Option.eq_none_iff_forall_ne_some.2 fun c hc => absurd (contexts.1 c hc).1 (by simp [un])
    · exact Option.eq_none_iff_forall_ne_some.2 fun c hc =>
        absurd (contexts.2 c hc) (by simp [un])
  · refine .inr ⟨⟨un, contexts, fun p hp vacant => ?_⟩, fun h => un (detached.1 h)⟩
    obtain rfl | beyond := vacant
    · exact own
    · exact others ⟨p, hp⟩ (.inl beyond)

theorem Placed.of_frame {ps : List Part} (hs : Placed s) (h : ChangesOnly ps s t)
    (free : ∀ p ∈ [Part.station, .line, .table, .sending, .receiving, .roster, .pins, .plan], p ∉ ps := by decide) :
    Placed t := by
  simp only [List.forall_mem_cons] at free
  obtain ⟨station, line, table, sending, receiving, roster, pins, plan, -⟩ := free
  obtain dormant | ⟨running, attached⟩ := hs
  · exact .inl (dormant.of_frame h station line table sending receiving roster)
  · exact .inr ⟨running.of_frame h station sending receiving roster pins plan, by rwa [h.line line]⟩

/-! ### Every step -/

theorem Placed.start (hs : Placed s) (h : execStart s = .next t) : Placed t := by
  unfold execStart at h
  split at h
  · exact of_next h (hs.of_frame (respond_frame _ _ _ _ s))
  next un =>
    have dormant : Dormant s := hs.resolve_right fun running => un running.1.started
    split at h
    · exact of_next h (.inl ((dormant.of_frame (drawn_frame s)).of_frame (respond_frame _ _ _ _ _)))
    · refine of_next h (Placed.of_frame (.inr ⟨dormant.startUp, ?_⟩) (respond_frame _ _ _ _ _))
      simp [startUp_line, Line.toHunting]

theorem Placed.exec {c : Instr} (hs : Placed s) (h : exec c s = .next t) : Placed t := by
  by_cases start : c = .start
  · subst start
    exact hs.start h
  by_cases reset : ∃ stn lrate, c = .reset stn lrate
  · obtain ⟨stn, lrate, rfl⟩ := reset
    exact .inl (dormant_reset h)
  have only : ∀ stn lrate, c ≠ .reset stn lrate := fun stn lrate hc => reset ⟨stn, lrate, hc⟩
  obtain dormant | ⟨running, attached⟩ := hs
  · exact .inl (dormant.exec start h)
  · exact .inr ⟨running.exec only h, fun detached => attached ((exec_follows start only h).detached.1 detached)⟩

theorem Placed.take (hs : Placed s) (v : PendingVerdict) : Placed (v.take s) := by
  obtain dormant | ⟨running, attached⟩ := hs
  · exact .inl (dormant.take v)
  · exact .inr ⟨running.of_frame (take_frame v s), fun detached => attached ((take_follows v s).detached.1 detached)⟩

theorem Placed.tick (hs : Placed s) : Placed (tick s) := by
  obtain dormant | ⟨running, attached⟩ := hs
  · exact .inl dormant.tick
  · exact .inr ⟨running.of_frame (tick_frame s), fun detached => attached ((tick_follows s).detached.1 detached)⟩

end

/-- Settles O56: before START nothing is held, every slot is ABSENT and no command but START attaches the line; after START
each unit keeps the contexts in their station states and changes no vacant slot; RESET returns to the first. -/
theorem stepsKeepLineContextsAndRosterPlaced : Obligations.StepsKeepLineContextsAndRosterPlaced := by
  intro s t quiescent contexts roster h
  exact Placed.sound <| step_keeps (I := Placed) (J := Placed)
    (fun _ _ frame hs => hs.of_frame frame)
    (fun _ _ _ hs hc => hs.exec hc)
    (fun s v vs hs _ => (hs.of_frame (withVerdicts_frame vs s)).take v)
    (fun _ hs _ => hs.tick)
    (.of_sound quiescent contexts roster) h

end Sys2Proof.Machine
end

section
/-! SUPPORT. What synchronisation, the begin of a frame and a start mark read make of the line (R65, R66, R69, R70). -/

namespace Sys2Proof.Machine

set_option Elab.async false

section
variable {s : State} {f : Frame} {q : List Frame}

/-- CLD is released in every line state but SENDING (R59, R60). -/
theorem cld_released (h : s.line.state ≠ .sending) : s.cld = true := by
  unfold State.cld
  split
  next sending _ => exact absurd sending h
  next => rfl

/-- The first bit of a frame is its start mark, which is driven (R59, R61). -/
theorem sentBit_startMark (first : s.line.bitPos = 1) (f : Frame) : sentBit s f = false := by
  simp [sentBit, first, frameBits, fieldBits]

/-- A head frame that is not purged is the one that may begin (R70). -/
theorem frameBegin_kept (idle : s.line.state = .idle) (queue : s.line.queue = f :: q) (kept : s.headPurged f = false) :
    frameBegin s = beginHead s := by
  have unchanged : s.setQueue (f :: q) = s := by rw [← queue]; rfl
  rw [frameBegin, if_pos idle, queue, List.takeWhile_cons_of_neg (by simp [kept]),
    List.dropWhile_cons_of_neg (by simp [kept]), unchanged, List.foldl_nil]

theorem gapReached_iff : s.gapReached f = true ↔ 8 + 16 * (7 - f.cls) + s.pins.stn ≤ s.line.idle := by
  rw [State.gapReached, gap, decide_eq_true_iff]

/-- A permitted head frame begins once its gap is reached (R69). -/
theorem frameBegin_begins (idle : s.line.state = .idle) (queue : s.line.queue = f :: q) (reached : s.gapReached f = true)
    (permitted : kindPermitted s.station.state f.kind = true) :
    frameBegin s =
      s.setLine { s.line with state := .sending, bitPos := 1, phase := 0, queue := { f with inTx := true } :: q } := by
  rw [frameBegin_kept idle queue (by simp [State.headPurged, permitted]), beginHead, queue]
  exact if_pos reached

/-- Before its gap a head frame waits, permitted or not (R69, R70). -/
theorem frameBegin_waits (idle : s.line.state = .idle) (queue : s.line.queue = f :: q) (early : s.gapReached f = false) :
    frameBegin s = s := by
  rw [frameBegin_kept idle queue (by simp [State.headPurged, early]), beginHead, queue]
  exact if_neg (by simp [early])

/-- A forbidden head frame with none behind it is removed at its gap, and its unit told (R70). -/
theorem frameBegin_purges (idle : s.line.state = .idle) (queue : s.line.queue = [f]) (reached : s.gapReached f = true)
    (forbidden : kindPermitted s.station.state f.kind = false) :
    frameBegin s = reportPurged (s.setQueue []) f := by
  have purged : s.headPurged f = true := by simp [State.headPurged, reached, forbidden]
  have emptied : (reportPurged (s.setQueue []) f).line.queue = [] := by rw [(reportPurged_frame f _).line]; rfl
  rw [frameBegin, if_pos idle, queue, List.takeWhile_cons_of_pos purged, List.dropWhile_cons_of_pos purged,
    List.takeWhile_nil, List.dropWhile_nil, List.foldl_cons, List.foldl_nil, beginHead, emptied]

end

/-- Settles O35: each of the three commands acts in its line state alone, and the head frame is judged at its gap. -/
theorem lineSynchronisesBeginsAndDefers : Obligations.LineSynchronisesBeginsAndDefers := by
  refine ⟨fun s => ⟨fun hunting quiet => ?_, fun waits => ?_, fun idle => ?_, fun busy => ?_, cld_released⟩,
    fun s f q idle queue => ⟨fun reached permitted => ?_, fun early => ?_, fun reached forbidden last => ?_⟩⟩
  · exact ⟨_, congrArg Host.Outcome.next (if_pos ⟨hunting, quiet⟩), rfl, rfl, rfl, setLine_frame _ s⟩
  · exact congrArg Host.Outcome.next (if_neg fun ⟨hunting, quiet⟩ => waits.elim (absurd hunting) (Nat.not_lt.2 quiet))
  · exact ⟨_, congrArg Host.Outcome.next (if_pos idle), rfl, rfl, rfl, rfl, setLine_frame _ s⟩
  · exact congrArg Host.Outcome.next (if_neg busy)
  · have begun := frameBegin_begins idle queue (gapReached_iff.2 reached) permitted
    refine ⟨_, congrArg Host.Outcome.next begun, rfl, rfl, ?_, rfl, setLine_frame _ s⟩
    exact sentBit_startMark rfl { f with inTx := true }
  · exact congrArg Host.Outcome.next (frameBegin_waits idle queue (by simpa [← Bool.not_eq_true, gapReached_iff] using early))
  · subst last
    have removed := frameBegin_purges idle queue (gapReached_iff.2 reached) forbidden
    have line := (reportPurged_frame f (s.setQueue [])).line
    refine ⟨_, congrArg Host.Outcome.next removed, ?_, ?_, (setQueue_frame [] s).then (reportPurged_frame f _)⟩
    · rw [line]; exact idle
    · rw [line]; rfl

end Sys2Proof.Machine
end

section
/-! SUPPORT. A frame read back to its end: the queue and the line it leaves, and what its unit does when it is told SENT (R73,
R81, R126, R129, R130). -/

namespace Sys2Proof.Machine

set_option Elab.async false

section
variable {s t u : State} {f : Frame} {c : SendCtx}

/-! ### The end of a frame -/

/-- A recital is offered where its kind is permitted and a frame of class 0 has room (R62, R76). -/
def RecitalRoom (s : State) : Prop := s.station.state = .active ∧ roomFor s.line.queue 0 = true

/-- The state that a frame read back to its end leaves to its unit (R73). -/
def afterSent (s : State) : State := (s.setLine (s.line.toIdle 0)).setQueue (dropInTx s.line.queue)

theorem afterSent_frame (s : State) : ChangesOnly [.line] s (afterSent s) := (setLine_frame _ s).then (setQueue_frame _ _)

theorem frameSent_ended (sending : s.line.state = .sending) (found : s.inTx = some f)
    (ended : frameLength f < s.line.bitPos) : frameSent s = unlessSilent reportSent (afterSent s) f := by
  simp only [frameSent, sending, found]
  exact if_pos ended

theorem frameSent_stands (h : s.line.state ≠ .sending ∨ ∀ f, s.inTx = some f → s.line.bitPos ≤ frameLength f) :
    frameSent s = s := by
  unfold frameSent
  split
  next f sending found =>
    have early := h.resolve_left (not_not_intro sending) f found
    exact if_neg (Nat.not_lt.2 early)
  next => rfl

theorem unlessSilent_told {report : State → Frame → State} (h : f.removal ≠ .silent) :
    unlessSilent report u f = report u f := by
  unfold unlessSilent
  split
  next silent => exact absurd silent h
  next => rfl

theorem unlessSilent_silent {report : State → Frame → State} (h : f.removal = .silent) : unlessSilent report u f = u := by
  rw [unlessSilent, h]

/-! ### Each unit told SENT -/

theorem reportSent_none (h : f.kind = .beacon ∨ f.kind = .endorse ∨ f.kind = .object) : reportSent u f = u := by
  obtain h | h | h := h <;> simp [reportSent, h]

theorem reportSent_propose (h : f.kind = .propose) :
    reportSent u f = f.ident.elim u fun id => u.moveMark id .proposeQueued .none := by
  cases ident : f.ident <;> simp [reportSent, h, ident]

theorem reportSent_ratify (h : f.kind = .ratify) :
    reportSent u f = f.ident.elim u fun id => u.moveMark id .ratifyQueued .none := by
  cases ident : f.ident <;> simp [reportSent, h, ident]

theorem reportSent_reciteReq (h : f.kind = .reciteReq) : reportSent u f = setRequest f.serial .sent u := by
  simp [reportSent, h]

theorem setRequest_present {c : RecvCtx} {k : Nat} (req : ReqState) (receiving : u.receiving = some c)
    (present : c.serial = k) : setRequest k req u = { u with receiving := some { c with req := req } } := by
  simp only [setRequest, receiving]
  exact if_pos present

theorem setRequest_earlier {k : Nat} (req : ReqState) (earlier : ∀ c, u.receiving = some c → c.serial ≠ k) :
    setRequest k req u = u := by
  unfold setRequest
  split
  next c receiving => exact if_neg (earlier c receiving)
  next => rfl

theorem ofSending_present {k : Nat} (sending : u.sending = some c) (present : c.serial = k) : ofSending k u = true := by
  simp [ofSending, sending, present]

theorem ofSending_stale {k : Nat} (stale : ∀ c, u.sending = some c → c.serial ≠ k) : ofSending k u = false := by
  unfold ofSending
  split
  next c sending => simpa using stale c sending
  next => rfl

theorem reportSent_stale (h : f.kind = .recital ∨ f.kind = .scaleState)
    (stale : ∀ c, u.sending = some c → c.serial ≠ f.serial) : reportSent u f = u := by
  obtain h | h := h <;> simp [reportSent, h, ofSending_stale stale]

theorem reportSent_recital (h : f.kind = .recital) (sending : u.sending = some c) (present : c.serial = f.serial) :
    reportSent u f = offerRecitalFrame { u with sending := some { c with next := c.next + 1, failed := 0 } } := by
  simp [reportSent, h, ofSending_present sending present, recitalFrameSent, sending]

theorem reportSent_scaleState (h : f.kind = .scaleState) (sending : u.sending = some c) (present : c.serial = f.serial) :
    reportSent u f =
      if c.deferred = noStations then { u with sending := none } else startRecital c.deferred { u with sending := none } := by
  simp [reportSent, h, ofSending_present sending present, recitalEnded, sending]

/-- An owed announcement that was sent is owed no more, and nothing else of the table changes (R81). -/
theorem moveMark_told (left : ChangesOnly [.line] s u) (id : Ident) (old : Mark) :
    (u.moveMark id old .none).line = u.line ∧
    (∀ e, s.find id = some e →
      (u.moveMark id old .none).find id = some (if e.mark = old then { e with mark := .none } else e)) ∧
    (∀ x, x ≠ id → (u.moveMark id old .none).find x = s.find x) ∧ sameButMarks s (u.moveMark id old .none) ∧
    ChangesOnly [.table, .line] s (u.moveMark id old .none) := by
  have same (x : Ident) : u.find x = s.find x := by rw [State.find, left.table]; rfl
  obtain ⟨own, others, marks⟩ := moveMark_due (s := u) (id := id) (a := old) (b := .none)
  refine ⟨(moveMark_frame _ _ _ u).line, fun e he => own e ((same id).trans he), fun x hx => (others x hx).trans (same x),
    (sameButMarks.of_table left.table).trans marks, left.then (moveMark_frame _ _ _ u)⟩

/-! ### The frame of a recital offered -/

theorem assembleRecital_cls (s : State) (c : SendCtx) : (assembleRecital s c).cls = 0 := by
  unfold assembleRecital
  split <;> rfl

theorem assembleRecital_serial (s : State) (c : SendCtx) : (assembleRecital s c).serial = c.serial := by
  unfold assembleRecital
  split <;> rfl

theorem assembleRecital_kind (s : State) (c : SendCtx) :
    (assembleRecital s c).kind = if c.next ≤ c.snapshot.length then .recital else .scaleState := by
  unfold assembleRecital
  split <;> rfl

theorem kindPermitted_recital (st : StationState) (s : State) (c : SendCtx) :
    kindPermitted st (assembleRecital s c).kind = true ↔ st = .active := by
  rw [assembleRecital_kind]
  split <;> cases st <;> decide

theorem wouldQueue_recital : s.wouldQueue (assembleRecital s c) = true ↔ RecitalRoom s := by
  rw [State.wouldQueue, Bool.and_eq_true, kindPermitted_recital, assembleRecital_cls, RecitalRoom]

theorem offerRecitalFrame_queued (sending : s.sending = some c) (room : RecitalRoom s) :
    offerRecitalFrame s =
      { s.setQueue (insertFrame (assembleRecital s c) s.line.queue) with sending := some { c with offer := .queued } } := by
  have would := wouldQueue_recital (c := c).2 room
  simp only [offerRecitalFrame, sending, offer, would, if_true]

/-- Without room the offer fails once more, and an ACTIVE station is told TXQ_FULL (R76, R130). -/
theorem offerRecitalFrame_dropped (sending : s.sending = some c) (few : c.failed < 3) (full : ¬ RecitalRoom s) :
    (offerRecitalFrame s).sending = some { c with offer := .due, failed := c.failed + 1 } ∧
    (offerRecitalFrame s).line = s.line ∧
    (s.station.state = .active → noticed (offerRecitalFrame s) .txqFull) ∧
    ChangesOnly [.sending, .notices] s (offerRecitalFrame s) := by
  have would : ¬ s.wouldQueue (assembleRecital s c) = true := mt wouldQueue_recital.1 full
  have counted (v : State) (held : v.sending = some c) :
      recitalOfferFailed v = { v with sending := some { c with offer := .due, failed := c.failed + 1 } } := by
    simp only [recitalOfferFailed, held]
    exact if_neg (by omega)
  by_cases active : s.station.state = .active
  · have offered : offerRecitalFrame s =
        { raise (.txqFull (assembleRecital s c).kind (assembleRecital s c).cls (assembleRecital s c).ident) s with
          sending := some { c with offer := .due, failed := c.failed + 1 } } := by
      simp only [offerRecitalFrame, sending, offer, would, (kindPermitted_recital _ s c).2 active, if_true]
      exact counted _ sending
    rw [offered]
    exact ⟨rfl, rfl, fun _ => raise_noticed _ s, (raise_frame _ s).then (withSending_frame _ _)⟩
  · have offered : offerRecitalFrame s = { s with sending := some { c with offer := .due, failed := c.failed + 1 } } := by
      simp only [offerRecitalFrame, sending, offer, would, mt (kindPermitted_recital _ s c).1 active]
      exact counted _ sending
    rw [offered]
    exact ⟨rfl, rfl, fun h => absurd h active, (withSending_frame _ s).mono (by decide)⟩

/-- The next frame of a recital whose last frame was sent (R129, R130). -/
theorem recital_told (left : ChangesOnly [.line] s u) (kind : f.kind = .recital) (sending : s.sending = some c)
    (present : c.serial = f.serial) :
    (RecitalRoom u → ∃ g, (reportSent u f).sending = some { c with next := c.next + 1, failed := 0, offer := .queued } ∧
      (reportSent u f).line = { u.line with queue := insertFrame g u.line.queue } ∧ g.cls = 0 ∧ g.serial = c.serial ∧
      g.kind = (if c.next < c.snapshot.length then .recital else .scaleState) ∧
      ChangesOnly [.line, .sending] s (reportSent u f)) ∧
    (¬ RecitalRoom u → (reportSent u f).sending = some { c with next := c.next + 1, failed := 1, offer := .due } ∧
      (reportSent u f).line = u.line ∧ (s.station.state = .active → noticed (reportSent u f) .txqFull) ∧
      ChangesOnly [.line, .sending, .notices] s (reportSent u f)) := by
  rw [reportSent_recital kind (left.sending.trans sending) present]
  generalize advanced : { u with sending := some { c with next := c.next + 1, failed := 0 } } = v
  have line : v.line = u.line := by rw [← advanced]
  have station : v.station = u.station := by rw [← advanced]
  have held : v.sending = some { c with next := c.next + 1, failed := 0 } := by rw [← advanced]
  have frame : ChangesOnly [.line, .sending] s v := advanced ▸ left.then (withSending_frame _ u)
  have same : RecitalRoom v ↔ RecitalRoom u := by rw [RecitalRoom, RecitalRoom, line, station]
  refine ⟨fun room => ?_, fun full => ?_⟩
  · refine ⟨assembleRecital v { c with next := c.next + 1, failed := 0 }, ?_⟩
    rw [offerRecitalFrame_queued held (same.2 room)]
    refine ⟨rfl, by rw [← line]; rfl, assembleRecital_cls _ _, assembleRecital_serial _ _, assembleRecital_kind _ _, ?_⟩
    exact frame.then ((setQueue_frame _ v).then (rs := [.line, .sending]) (withSending_frame _ _))
  · obtain ⟨failed, kept, told, offered⟩ := offerRecitalFrame_dropped held (Nat.zero_lt_succ _) (mt same.1 full)
    exact ⟨failed, kept.trans line, fun active => told (by rw [station, left.station]; exact active), frame.then offered⟩

/-- The sending context with which a recital starts (R128). -/
def newRecital (audience : StationSet) (s : State) : SendCtx where
  snapshot := s.table.entries.map fun e => e.id
  next := 1
  offer := .queued
  failed := 0
  audience := audience
  deferred := noStations
  serial := s.serial

theorem startRecital_next (audience : StationSet) (s : State) :
    startRecital audience { s with sending := none } =
      offerRecitalFrame { s with serial := s.serial + 1, sending := some (newRecital audience s) } := rfl

/-- The recital that starts for a deferred audience when one has ended (R128, R130). -/
theorem startRecital_told (left : ChangesOnly [.line] s u) (audience : StationSet) :
    let t := startRecital audience { u with sending := none }
    ∃ d, t.sending = some d ∧ d.snapshot = s.table.entries.map (fun e => e.id) ∧ d.next = 1 ∧ d.audience = audience ∧
      d.deferred = 0 ∧
      (RecitalRoom u → d.offer = .queued ∧ d.failed = 0 ∧
        ∃ g, t.line = { u.line with queue := insertFrame g u.line.queue } ∧ g.cls = 0 ∧ g.serial = d.serial ∧
          g.kind = if s.table.entries = [] then .scaleState else .recital) ∧
      (¬ RecitalRoom u → d.offer = .due ∧ d.failed = 1 ∧ t.line = u.line) := by
  dsimp only
  rw [startRecital_next]
  have snapshot : (newRecital audience u).snapshot = s.table.entries.map fun e => e.id := by
    rw [← left.table]; rfl
  generalize begun : ({ u with serial := u.serial + 1, sending := some (newRecital audience u) } : State) = v
  have held : v.sending = some (newRecital audience u) := by rw [← begun]
  have line : v.line = u.line := by rw [← begun]
  have same : RecitalRoom v ↔ RecitalRoom u := by rw [RecitalRoom, RecitalRoom, ← begun]
  by_cases room : RecitalRoom u
  · rw [offerRecitalFrame_queued held (same.2 room)]
    refine ⟨_, rfl, snapshot, rfl, rfl, rfl, fun _ => ⟨rfl, rfl, assembleRecital v (newRecital audience u),
      by rw [← line]; rfl, assembleRecital_cls v _, assembleRecital_serial v _, ?_⟩, absurd room⟩
    rw [assembleRecital_kind, snapshot]
    cases s.table.entries <;> simp [newRecital]
  · obtain ⟨failed, kept, -, -⟩ := offerRecitalFrame_dropped held (Nat.zero_lt_succ _) (mt same.1 room)
    exact ⟨_, failed, snapshot, rfl, rfl, rfl, fun h => absurd h room, fun _ => ⟨rfl, rfl, kept.trans line⟩⟩

end

/-- Settles O36: a frame read back to its end is told to its unit kind by kind, and a recital goes on or ends. -/
theorem sentFrameLeavesTheQueue : Obligations.SentFrameLeavesTheQueue := by
  intro s
  refine ⟨fun h => congrArg Host.Outcome.next (frameSent_stands h), fun f sending found ended => ?_⟩
  have ran : exec .frameSent s = .next (unlessSilent reportSent (afterSent s) f) :=
    congrArg Host.Outcome.next (frameSent_ended sending found ended)
  have left := afterSent_frame s
  refine ⟨fun silent => by rw [ran, unlessSilent_silent silent]; rfl, fun heard => ?_⟩
  rw [unlessSilent_told heard] at ran
  have announced (id : Ident) (old : Mark) := moveMark_told left id old
  refine ⟨fun kind => ?_, fun kind => ?_, fun kind => ?_, fun kind => ⟨fun c receiving present => ?_, fun earlier => ?_⟩,
    fun kind stale => ?_, fun c kind sending present => ⟨fun room => ?_, fun full => ?_⟩,
    fun c kind sending present => ⟨fun nobody => ?_, fun deferred => ?_⟩⟩
  · rw [ran, reportSent_none kind]; rfl
  · rw [ran, reportSent_propose kind]
    exact ⟨fun ident => by rw [ident]; rfl, fun id ident => by rw [ident]; exact ⟨_, rfl, announced id _⟩⟩
  · rw [ran, reportSent_ratify kind]
    exact ⟨fun ident => by rw [ident]; rfl, fun id ident => by rw [ident]; exact ⟨_, rfl, announced id _⟩⟩
  · rw [ran, reportSent_reciteReq kind, setRequest_present .sent (left.receiving.trans receiving) present]; rfl
  · rw [ran, reportSent_reciteReq kind, setRequest_earlier .sent (by rwa [left.receiving])]; rfl
  · rw [ran, reportSent_stale kind (by rwa [left.sending])]; rfl
  · obtain ⟨g, told⟩ := (recital_told left kind sending present).1 room
    exact ⟨_, g, ran, told⟩
  · exact ⟨_, ran, (recital_told left kind sending present).2 full⟩
  · rw [ran, reportSent_scaleState kind (left.sending.trans sending) present,
      if_pos (show c.deferred = noStations from nobody)]
    rfl
  · rw [ran, reportSent_scaleState kind (left.sending.trans sending) present,
      if_neg (show ¬ c.deferred = noStations from deferred)]
    have stopped : ChangesOnly [.line, .sending] s { afterSent s with sending := none } :=
      left.then (withSending_frame none _)
    obtain ⟨d, held, snapshot, first, audience, nobody, queued, dropped⟩ := startRecital_told left c.deferred
    exact ⟨_, d, rfl, held, snapshot, first, audience, nobody, queued, dropped,
      stopped.then (startRecital_frame _ _)⟩

end Sys2Proof.Machine
end

section
/-! SUPPORT. A mismatch of the frame in transmission: the line and the queue it leaves, and the frame that is abandoned (R72, R74,
R75, R77). -/

namespace Sys2Proof.Machine

set_option Elab.async false

section
variable {s t u v : State} {f g : Frame} {q : List Frame}

/-! ### A frame abandoned -/

/-- A unit is told of a frame by its kind, its identifier and its serial, and by no other part than its own. -/
theorem toldUnsent.transport {abandoned : Bool} (told : toldUnsent abandoned g u t) (kind : g.kind = f.kind)
    (ident : g.ident = f.ident) (serial : g.serial = f.serial) (before : ChangesOnly [.line] s u)
    (after : ChangesOnly [.notices] t v) : toldUnsent abandoned f s v := by
  simpa only [toldUnsent, sameButMarks, State.find, kind, ident, serial, before.table, before.receiving, before.sending,
    after.table, after.receiving, after.sending] using told

/-- LINE_FAULT is raised for a frame that is abandoned, after its unit was told (R75). -/
theorem abandonFrame_told (left : ChangesOnly [.line] s u) (kind : g.kind = f.kind) (ident : g.ident = f.ident)
    (serial : g.serial = f.serial) :
    toldUnsent true f s (abandonFrame g u) ∧
    raised (.lineFault g.kind g.cls g.ident g.lastMismatch) s (abandonFrame g u) ∧
    ChangesOnly [.table, .line, .sending, .receiving, .notices] s (abandonFrame g u) := by
  have reported := reportAbandoned_frame g u
  refine ⟨(reportAbandoned_told u g).transport kind ident serial left (raise_frame _ _), ?_,
    left.then (abandonFrame_frame g u)⟩
  rw [raised, abandonFrame, raise_notices, reported.notices, reported.clock, left.notices, left.clock]

theorem abandonFrame_line (g : Frame) (u : State) : (abandonFrame g u).line = u.line := (abandonFrame_frame g u).line

/-! ### A mismatch -/

/-- The state after a mismatch of the frame in transmission, with the queue that it leaves. -/
def stopped (s : State) (f : Frame) (q : List Frame) : State := (s.setLine (lineAfterClash s f)).setQueue q

theorem stopped_frame (s : State) (f : Frame) (q : List Frame) : ChangesOnly [.line] s (stopped s f q) :=
  (setLine_frame _ s).then (setQueue_frame _ _)

theorem stopped_line (s : State) (f : Frame) (q : List Frame) :
    (stopped s f q).line = { lineAfterClash s f with queue := q } := rfl

/-- What a mismatch does with the frame that it stops (R72, R75, R77). -/
theorem clashNow_transmitting (sending : s.line.state = .sending) (found : s.inTx = some f)
    (within : s.line.bitPos ≤ frameLength f) :
    clashNow s =
      match f.removal with
      | .silent => stopped s f (dropInTx s.line.queue)
      | .marked => reportPurged (stopped s f (dropInTx s.line.queue)) f
      | .none =>
        if 8 ≤ f.clash + 1 then
          abandonFrame (f.clashed (mismatchOf s f) s.line.bitPos) (stopped s f (dropInTx s.line.queue))
        else stopped s f (updateInTx (fun x => x.clashed (mismatchOf s f) s.line.bitPos) s.line.queue) := by
  simp only [clashNow, sending, found]
  exact if_pos within

/-- The line after a mismatch is that of R72, whatever becomes of the frame. -/
theorem clashNow_line (sending : s.line.state = .sending) (found : s.inTx = some f)
    (within : s.line.bitPos ≤ frameLength f) : ∃ q, (clashNow s).line = { lineAfterClash s f with queue := q } := by
  rw [clashNow_transmitting sending found within]
  split
  · exact ⟨_, stopped_line s f _⟩
  · exact ⟨_, (reportPurged_frame f _).line.trans (stopped_line s f _)⟩
  · split
    · exact ⟨_, (abandonFrame_line _ _).trans (stopped_line s f _)⟩
    · exact ⟨_, stopped_line s f _⟩

theorem lineAfterClash_taking (released : sentBit s f = true) (early : s.line.bitPos + 3 ≤ frameLength f) :
    (lineAfterClash s f).state = .taking := by
  rw [lineAfterClash, if_pos ⟨released, early⟩]
  rfl

theorem lineAfterClash_hunting (h : sentBit s f = false ∨ frameLength f < s.line.bitPos + 3) :
    (lineAfterClash s f).state = .hunting ∧ (lineAfterClash s f).quiet = 0 := by
  have not_taking : ¬ (sentBit s f = true ∧ s.line.bitPos + 3 ≤ frameLength f) := fun ⟨released, early⟩ =>
    h.elim (fun driven => Bool.noConfusion (released.symm.trans driven)) (Nat.not_lt.2 early)
  rw [lineAfterClash, if_neg not_taking]
  exact ⟨rfl, rfl⟩

/-! ### FRAME_ABANDONED (R75) -/

theorem abandonNow_standing (found : s.line.queue.find? (fun x => !x.inTx && decide (8 ≤ x.clash)) = some f) :
    abandonNow s =
      abandonFrame f (s.setQueue (s.line.queue.eraseP fun x => !x.inTx && decide (8 ≤ x.clash))) := by
  have stands := List.find?_some found
  have held : s.line.queue.any (fun x => !x.inTx && decide (8 ≤ x.clash)) = true :=
    List.any_eq_true.2 ⟨f, List.mem_of_find?_eq_some found, stands⟩
  rw [abandonNow, if_pos held]
  simp only [abandonStanding, found]

/-- Where no held frame stands at 8, only the eighth mismatch of the frame in transmission abandons one. -/
theorem abandonNow_held (few : ∀ x ∈ s.line.queue, x.inTx = true ∨ x.clash < 8) :
    abandonNow s = if s.eighthNext then clashNow s else s := by
  refine if_neg fun held => ?_
  obtain ⟨x, hx, stands⟩ := List.any_eq_true.1 held
  simp only [Bool.and_eq_true, Bool.not_eq_true', decide_eq_true_eq] at stands
  exact (few x hx).elim (fun inTx => Bool.noConfusion (stands.1.symm.trans inTx)) (Nat.not_lt.2 stands.2)

end

/-- Settles O37: a mismatch is judged by the removal mark and the clash count of the frame it stops, and FRAME_ABANDONED by
the frame that stands at 8. -/
theorem clashStopsTheFrameAndEightAbandonIt : Obligations.ClashStopsTheFrameAndEightAbandonIt := by
  refine ⟨fun s f c event sending found first within => ?_, fun s f found => ?_, fun s few eighth => ?_⟩
  · have clashed : exec c s = .next (clashNow s) := by
      obtain rfl | ⟨rfl, seven, few⟩ := event
      · rfl
      · have next : s.eighthNext = true := by
          rw [State.eighthNext, show s.inTx = some f from found]
          simp [seven]
        exact congrArg Host.Outcome.next ((abandonNow_held few).trans (if_pos next))
    have judged := clashNow_transmitting sending found within
    obtain ⟨q, line⟩ := clashNow_line sending found within
    refine ⟨_, clashed, fun released early => ?_, fun late => ?_, fun unmarked few => ?_, fun unmarked eighth => ?_,
      fun marked => ?_, fun silent => ?_⟩
    · rw [line]
      exact lineAfterClash_taking released (by unfold frameLength; omega)
    · rw [line]
      exact lineAfterClash_hunting (late.imp_right fun _ => by unfold frameLength; omega)
    · simp only [unmarked] at judged
      rw [if_neg (by omega)] at judged
      rw [judged]
      exact ⟨rfl, stopped_frame s f _⟩
    · simp only [unmarked] at judged
      rw [if_pos (by omega)] at judged
      rw [judged, abandonFrame_line]
      exact ⟨rfl, abandonFrame_told (stopped_frame s f _) rfl rfl rfl⟩
    · simp only [marked] at judged
      rw [judged, (reportPurged_frame f _).line]
      have left := stopped_frame s f (dropInTx s.line.queue)
      exact ⟨rfl, (reportPurged_told _ f).transport rfl rfl rfl left (.refl _ _),
        left.then (reportPurged_frame f _)⟩
    · simp only [silent] at judged
      rw [judged]
      exact ⟨rfl, stopped_frame s f _⟩
  · have left := setQueue_frame (s.line.queue.eraseP fun x => !x.inTx && decide (8 ≤ x.clash)) s
    exact ⟨_, congrArg Host.Outcome.next (abandonNow_standing found), abandonFrame_line _ _,
      abandonFrame_told left rfl rfl rfl⟩
  · have other : s.eighthNext = false := by
      rw [State.eighthNext, Option.any_eq_false]
      exact fun f found => beq_false_of_ne (eighth f found)
    exact congrArg Host.Outcome.next ((abandonNow_held few).trans (if_neg (by simp [other])))

end Sys2Proof.Machine
end

section
/-! SUPPORT. The receive checks in their order, and the line after each (R65, R66, R67). -/

namespace Sys2Proof.Machine

set_option Elab.async false

section
variable {s : State} {f : RawFrame} {cause : RxCause}

/-! ### A frame discarded -/

theorem receiveRaw_unheard (h : s.hears f = false) : receiveRaw f s = s := by simp [receiveRaw, h]

theorem receiveRaw_discards (heard : s.hears f = true) (fails : rawFault s f = .error cause) :
    receiveRaw f s = discardFrame cause f.endMark f.sender.toNat f.kind.toNat f.length.toNat s := by
  simp [receiveRaw, heard, fails]

/-- The line hunts after the first three tests, with the end mark read as quiet bits, and is IDLE after the others (R65,
R66). -/
theorem afterFault_placed (l : Line) (whole : Bool) (torn : cause = .endMark → whole = false) :
    if cause = .length ∨ cause = .check ∨ cause = .endMark then
      (l.afterFault cause whole).state = .hunting ∧ (l.afterFault cause whole).quiet = if whole then 3 else 0
    else (l.afterFault cause whole).state = .idle ∧ (l.afterFault cause whole).idle = 0 := by
  cases cause
  case endMark =>
    rw [torn rfl]
    simp [Line.afterFault, Line.toHunting]
  all_goals simp [Line.afterFault, Line.toHunting, Line.toIdle]

theorem afterFault_queue (l : Line) (cause : RxCause) (whole : Bool) : (l.afterFault cause whole).queue = l.queue := by
  cases cause <;> rfl

/-! ### The tests in their order -/

theorem rawFault_length (long : 28 < f.length.toNat) : rawFault s f = .error .length := if_pos long

/-- A frame of a permitted length whose check field is that of R63. -/
def Checked (f : RawFrame) : Prop :=
  f.length.toNat ≤ 28 ∧ frameCheck f.cls f.sender f.kind f.length f.body = f.check

theorem rawFault_check (short : f.length.toNat ≤ 28) (unchecked : ¬ Checked f) : rawFault s f = .error .check := by
  rw [rawFault, if_neg (Nat.not_lt.2 short), if_pos fun check => unchecked ⟨short, check⟩]

theorem rawFault_endMark (checked : Checked f) (torn : f.endMark = false) : rawFault s f = .error .endMark := by
  rw [rawFault, if_neg (Nat.not_lt.2 checked.1), if_neg (not_not_intro checked.2), if_pos (by simp [torn])]

theorem rawFault_sender (checked : Checked f) (whole : f.endMark = true)
    (fails : senderFault s f.sender.toNat = some cause) : rawFault s f = .error cause := by
  rw [rawFault, if_neg (Nat.not_lt.2 checked.1), if_neg (not_not_intro checked.2), if_neg (by simp [whole]), fails]

theorem rawFault_form (checked : Checked f) (whole : f.endMark = true) (own : f.sender.toNat ≠ s.pins.stn)
    (inRange : f.sender.toNat < s.plan.n) (fails : rawForm f = none) : rawFault s f = .error .form := by
  rw [rawFault, if_neg (Nat.not_lt.2 checked.1), if_neg (not_not_intro checked.2), if_neg (by simp [whole]),
    senderFault_eq_none own inRange, fails]

theorem rawForm_unknown (h : FrameKind.ofCode f.kind.toNat = none) : rawForm f = none := by simp [rawForm, h]

theorem rawForm_misshapen {k : FrameKind} (known : FrameKind.ofCode f.kind.toNat = some k)
    (h : f.cls.toNat + frameClass k f.body ≠ 7 ∨ lengthPermitted k f.body = false) : rawForm f = none := by
  have misshapen : ¬ (f.cls.toNat + frameClass k f.body = 7 ∧ lengthPermitted k f.body = true) := fun ⟨cls, length⟩ =>
    h.elim (absurd cls) fun short => Bool.noConfusion (short.symm.trans length)
  simp only [rawForm, known]
  exact if_neg misshapen

end

/-- Settles O38: each test of R67 in its order, with the tests before it passed. -/
theorem invalidFrameIsDiscardedByTheFirstTest : Obligations.InvalidFrameIsDiscardedByTheFirstTest := by
  refine fun s f => ⟨fun unheard => congrArg Host.Outcome.next (receiveRaw_unheard unheard), fun heard => ?_⟩
  have discarded {cause : RxCause} (fails : rawFault s f = .error cause) (torn : cause = .endMark → f.endMark = false) :
      ∃ t, exec (.rxFrameInvalid f) s = .next t ∧
        raised (.rxError cause f.sender.toNat f.kind.toNat f.length.toNat s.clock.label) s t ∧
        t.line.queue = s.line.queue ∧
        (if cause = .length ∨ cause = .check ∨ cause = .endMark then
          t.line.state = .hunting ∧ t.line.quiet = if f.endMark then 3 else 0
         else t.line.state = .idle ∧ t.line.idle = 0) ∧
        ChangesOnly [.line, .notices] s t :=
    ⟨_, congrArg Host.Outcome.next (receiveRaw_discards heard fails), rfl, afterFault_queue _ _ _,
      afterFault_placed s.line f.endMark torn, discardFrame_frame _ _ _ _ _ s⟩
  refine ⟨fun long => discarded (rawFault_length long) (by simp),
    fun short unchecked => discarded (rawFault_check short fun checked => unchecked checked.2) (by simp),
    fun short checked torn => discarded (rawFault_endMark ⟨short, checked⟩ torn) fun _ => torn,
    fun short checked whole => ?_⟩
  have sound : Checked f := ⟨short, checked⟩
  refine ⟨fun own => ?_, fun other beyond => ?_, fun other member => ⟨fun unknown => ?_, fun k known misshapen => ?_⟩⟩
  · exact discarded (rawFault_sender sound whole (if_pos own)) (by simp)
  · exact discarded (rawFault_sender sound whole ((if_neg other).trans (if_pos beyond))) (by simp)
  · exact discarded (rawFault_form sound whole other member (rawForm_unknown unknown)) (by simp)
  · exact discarded (rawFault_form sound whole other member (rawForm_misshapen known misshapen)) (by simp)

end Sys2Proof.Machine
end

section
/-! SUPPORT. An ENDORSE, OBJECT or RATIFY delivered to the Agreement Engine, and the frames that a freed entry leaves in
the queue (R35, R68, R77, R82). -/

namespace Sys2Proof.Machine

set_option Elab.async false

section
variable {s : State} {sender : BitVec 4} {body : List Byte} {id : Ident} {f : Frame} {q : List Frame}

/-! ### The queue after an entry was freed (R77) -/

theorem namesEntry_iff :
    namesEntry f id = true ↔ f.ident = some id ∧ (f.kind = .endorse ∨ f.kind = .object ∨ f.kind = .ratify) := by
  simp [namesEntry, and_comm, or_assoc]

theorem marked_removal (f : Frame) : f.marked.removal ≠ .none := by
  unfold Frame.marked
  cases f.removal <;> simp

/-- A frame that names the freed entry is left in transmission alone, with its removal mark. -/
theorem purgeNaming_named (h : f ∈ purgeNaming id q) (names : namesEntry f id = true) :
    f.inTx = true ∧ f.removal ≠ .none := by
  obtain ⟨g, hg, rfl⟩ := List.mem_map.1 h
  by_cases own : namesEntry g id = true
  · rw [if_pos own]
    have begun : g.inTx = true := by simpa [own] using (List.mem_filter.1 hg).2
    exact ⟨begun, marked_removal g⟩
  · rw [if_neg own] at names
    exact absurd names own

/-- A frame that does not name the freed entry stands. -/
theorem purgeNaming_other (h : f ∈ q) (other : namesEntry f id ≠ true) : f ∈ purgeNaming id q :=
  List.mem_map.2 ⟨f, List.mem_filter.2 ⟨h, by simp [other]⟩, if_neg other⟩

theorem freeEntry_queue (id : Ident) (n : Notice) (s : State) :
    (freeEntry id n s).line.queue = purgeNaming id s.line.queue := rfl

/-- Where an entry is freed, a frame stands unless it is an ENDORSE, OBJECT or RATIFY that names the entry. -/
theorem freeEntry_frames (n : Notice) (h : f ∈ s.line.queue)
    (other : f.ident ≠ some id ∨ (f.kind ≠ .endorse ∧ f.kind ≠ .object ∧ f.kind ≠ .ratify)) :
    f ∈ (freeEntry id n s).line.queue := by
  refine purgeNaming_other h fun names => ?_
  obtain ⟨ident, kind⟩ := namesEntry_iff.1 names
  obtain no | ⟨endorse, object, ratify⟩ := other
  · exact no ident
  · obtain k | k | k := kind
    · exact endorse k
    · exact object k
    · exact ratify k

/-! ### The state that a delivered frame meets (R65, R111) -/

theorem afterReport_queue (s : State) (sender : BitVec 4) : (afterReport s sender).line.queue = s.line.queue := by
  unfold afterReport
  rw [(reportSender_frame sender.toNat (s.setLine (s.line.toIdle 0))).line]
  rfl

theorem afterReport_find (s : State) (sender : BitVec 4) (id : Ident) : (afterReport s sender).find id = s.find id :=
  find_of_table afterReport_frame.table id

theorem settledConflicts_of_table {t : State} (rules : SameRules s t) (table : t.table = s.table) (r : Record) :
    t.settledConflicts r = s.settledConflicts r := by
  simp only [State.settledConflicts, rules.conflicts, table]

theorem afterReport_conflicts (s : State) (sender : BitVec 4) (r : Record) :
    (afterReport s sender).settledConflicts r = s.settledConflicts r :=
  settledConflicts_of_table (.of_frame afterReport_frame) afterReport_frame.table r

/-! ### Admission (R82) -/

/-- The station takes ENDORSE, OBJECT and RATIFY frames of a sender (R82). -/
def Admits (s : State) (sender : Nat) : Prop := (!s.station.state.takes || s.disagreeing sender) = false

theorem takes_of {st : StationState} (started : st ≠ .unconfigured) (isolated : st ≠ .isolated) : st.takes = true := by
  cases st <;> simp_all [StationState.takes]

theorem afterReport_admits (isolated : s.station.state ≠ .isolated) (started : s.started)
    (divergent : (s.slot sender.toNat).state ≠ .divergent) (mismatched : (s.slot sender.toNat).state ≠ .mismatched) :
    Admits (afterReport s sender) sender.toNat := by
  have station : (afterReport s sender).station = s.station := afterReport_frame.station
  unfold Admits
  rw [station, takes_of started isolated, afterReport_agreeing divergent mismatched]
  rfl

theorem contentError_raised (cause : RxCause) (k : FrameKind) (sender : Nat) (body : List Byte) (s : State) :
    raised (.rxError cause sender k.code body.length s.clock.label) s (contentError cause k sender body s) := rfl

/-! ### Delivery (R68) -/

theorem exec_endorse (heard : audible s .endorse sender body) (length : body.length = 3) :
    exec (.endorse sender body) s = .next (takeEndorse sender.toNat body (afterReport s sender)) :=
  congrArg Host.Outcome.next (receiveTyped_audible heard (by omega) (by simp [lengthPermitted, length]) _)

theorem exec_object (heard : audible s .object sender body) (length : body.length = 4) :
    exec (.object sender body) s = .next (takeObject sender.toNat body (afterReport s sender)) :=
  congrArg Host.Outcome.next (receiveTyped_audible heard (by omega) (by simp [lengthPermitted, length]) _)

theorem exec_ratify (heard : audible s .ratify sender body) (length : body.length = 5) :
    exec (.ratify sender body) s = .next (takeRatify sender.toNat body (afterReport s sender)) :=
  congrArg Host.Outcome.next (receiveTyped_audible heard (by omega) (by simp [lengthPermitted, length]) _)

end

end Sys2Proof.Machine
end

section
/-! SUPPORT. An OBJECT at the Agreement Engine (R92). -/

namespace Sys2Proof.Machine

set_option Elab.async false

section
variable {s : State} {sender : Nat} {body : List Byte} {reason : Reason} {e : Entry}

theorem reason_ofCode_code (r : Reason) : Reason.ofCode r.code = some r := by cases r <;> rfl

theorem reason_code_range (r : Reason) : 1 ≤ r.code ∧ r.code ≤ 14 := by cases r <;> decide

theorem reason_ofCode_none {n : Nat} (h : n = 0 ∨ 14 < n) : Reason.ofCode n = none := by
  obtain rfl | high := h
  · rfl
  · obtain ⟨k, rfl⟩ := Nat.exists_eq_add_of_le' (Nat.succ_le_of_lt high)
    rfl

theorem takeObject_malformed (admits : Admits s sender) (code : Reason.ofCode (field body 3 1) = none) :
    takeObject sender body s = contentError .formContent .object sender body s := by
  rw [takeObject, if_neg (Bool.eq_false_iff.1 admits), code]

theorem takeObject_unheld (admits : Admits s sender) (code : Reason.ofCode (field body 3 1) = some reason)
    (unheld : s.find (identAt body 0) = none) : takeObject sender body s = s := by
  rw [takeObject, if_neg (Bool.eq_false_iff.1 admits), code]
  dsimp only
  rw [unheld]

theorem takeObject_settled (admits : Admits s sender) (code : Reason.ofCode (field body 3 1) = some reason)
    (held : s.find (identAt body 0) = some e) (settled : e.state ≠ .proposed) :
    takeObject sender body s = raise (.lateObjection e.id sender reason) s := by
  rw [takeObject, if_neg (Bool.eq_false_iff.1 admits), code]
  dsimp only
  rw [held]
  exact if_neg settled

theorem takeObject_proposed (admits : Admits s sender) (code : Reason.ofCode (field body 3 1) = some reason)
    (held : s.find (identAt body 0) = some e) (proposed : e.state = .proposed) :
    takeObject sender body s = freeEntry e.id (.refused e.id reason sender) s := by
  rw [takeObject, if_neg (Bool.eq_false_iff.1 admits), code]
  dsimp only
  rw [held]
  exact if_pos proposed

end

/-- Settles O43: the reason code, then what is held under the identifier, decide what an OBJECT does. -/
theorem objectRefusesTheProposal : Obligations.ObjectRefusesTheProposal := by
  intro s sender body heard length isolated started divergent mismatched u id
  have admits : Admits u sender.toNat := afterReport_admits isolated started divergent mismatched
  have report : ChangesOnly [.line, .roster, .notices] s u := afterReport_frame
  have found (x : Ident) : u.find x = s.find x := afterReport_find s sender x
  rw [exec_object heard length]
  refine ⟨fun code => ⟨_, rfl, ?malformed, ?_⟩, fun reason code => ?formed⟩
  case malformed =>
    have raises := contentError_raised .formContent .object sender.toNat body u
    rw [length, report.clock] at raises
    rw [takeObject_malformed admits (reason_ofCode_none code)]
    exact raises
  · rw [takeObject_malformed admits (reason_ofCode_none code)]
    exact raise_frame _ u
  case formed =>
    have known : Reason.ofCode (field body 3 1) = some reason := code ▸ reason_ofCode_code reason
    refine ⟨fun unheld => congrArg _ (takeObject_unheld admits known ((found id).trans unheld)), fun e held => ?_⟩
    have own : e.id = id := find_id held
    have held' : u.find id = some e := (found id).trans held
    refine ⟨fun settled => ⟨_, rfl, ?_⟩, fun proposed => ⟨_, rfl, ?_⟩⟩
    · rw [takeObject_settled admits known held' settled, own]
      exact ⟨rfl, raise_frame _ u⟩
    · rw [takeObject_proposed admits known held' proposed, own]
      refine ⟨rfl, ?_, fun x other => ?_, fun f hf names kind => ?_, fun f hf other => ?_, freeEntry_frame _ _ u⟩
      · rw [find_freeEntry, if_pos rfl]
      · rw [find_freeEntry, if_neg other, found]
      · exact purgeNaming_named hf (namesEntry_iff.2 ⟨names, kind⟩)
      · exact freeEntry_frames _ ((afterReport_queue s sender).symm ▸ hf) (.inl other)

end Sys2Proof.Machine
end

section
/-! SUPPORT. The ratification claim with an endorser set that is given: what it leaves under each identifier, the notice it
raises and the parts it touches (R31). -/

namespace Sys2Proof.Machine

set_option Elab.async false

section
variable {s : State} {e : Entry} (set : StationSet)

/-! ### A scheduled entry -/

section
variable (scheduled : e.kind.scheduled = true)

section
variable (free : s.settledConflicts e.toRecord = [])
include scheduled free

theorem find_claim_free (he : s.find e.id = some e) (x : Ident) :
    (ratifyClaim e set s).find x =
      if x = e.id then some { e with state := .ratified, endorsers := set, window := none } else s.find x := by
  rw [ratifyClaim_free scheduled free]
  refine (find_modify s e.id _ (by simp) x).trans ?_
  split
  next own => rw [own, he]; rfl
  next => rfl

theorem claim_free_raised : raised (.ratified e.id set .none) s (ratifyClaim e set s) := by
  rw [ratifyClaim_free scheduled free]
  rfl

theorem claim_free_frame : ChangesOnly [.table, .notices] s (ratifyClaim e set s) := by
  rw [ratifyClaim_free scheduled free]
  exact (modify_frame _ _ s).then (raise_frame _ _)

end

section
variable (conflict : s.settledConflicts e.toRecord ≠ [])
include scheduled conflict

theorem find_claim_conflict (x : Ident) :
    (ratifyClaim e set s).find x = if x = e.id then none else s.find x := by
  rw [ratifyClaim_conflict scheduled conflict, find_freeEntry]

theorem claim_conflict_raised : raised (.refused e.id .spacing s.pins.stn) s (ratifyClaim e set s) := by
  rw [ratifyClaim_conflict scheduled conflict]
  exact freeEntry_raised _ s

theorem claim_conflict_frame : ChangesOnly [.table, .line, .notices] s (ratifyClaim e set s) := by
  rw [ratifyClaim_conflict scheduled conflict]
  exact freeEntry_frame _ _ s

end

end

/-! ### A CUSTODY -/

section
variable (custody : e.kind = .custody)
include custody

theorem find_claim_custody (x : Ident) :
    (ratifyClaim e set s).find x = if x = e.id then none else s.find x := by
  rw [ratifyClaim_custody custody, find_freeExecuted, find_of_table (setScale_table _ _ _)]

theorem claim_custody_raised : raised (.ratified e.id set .executed) s (ratifyClaim e set s) := by
  have same (k : Nat) (sc : Scale) :
      raised (.ratified e.id set .executed) (s.setScale k sc) (freeExecuted e.id set (s.setScale k sc)) := rfl
  rw [ratifyClaim_custody custody]
  simpa only [raised, setScale_notices, setScale_clock] using same _ _

theorem claim_custody_frame : ChangesOnly [.scales, .table, .notices] s (ratifyClaim e set s) := by
  rw [ratifyClaim_custody custody]
  exact (setScale_frame _ _ s).then (freeExecuted_frame _ _ _)

theorem claim_custody_scale {k : Nat} {v : Int} (scale : e.scale = some k) (value : e.value = some v) (lo : 1 ≤ k)
    (hi : k ≤ 5) : (ratifyClaim e set s).scale k = { s.scale k with custodian := some v.toNat } := by
  rw [ratifyClaim_custody custody, scale, value, scale_of_scales (freeExecuted_frame _ _ _).scales]
  exact setScale_scale lo hi _

end

/-! ### A WITHDRAW -/

section
variable (withdraw : e.kind = .withdraw) {x : Ident} (target : e.target = some x)
include withdraw target

theorem claim_withdraw_gone : (ratifyClaim e set s).find e.id = none := by
  rw [ratifyClaim_withdraw withdraw target, find_freeExecuted, if_pos rfl]

theorem claim_withdraw_frame : ChangesOnly [.table, .line, .notices] s (ratifyClaim e set s) := by
  rw [ratifyClaim_withdraw withdraw target]
  exact (withdrawTarget_frame _ _ s).then (freeExecuted_frame _ _ _)

theorem claim_withdraw_noticed : noticed (ratifyClaim e set s) .ratified := by
  rw [ratifyClaim_withdraw withdraw target]
  exact freeExecuted_noticed _ _ _

theorem claim_withdraw_other {y : Ident} (own : y ≠ e.id) (other : y ≠ x) :
    (ratifyClaim e set s).find y = s.find y := by
  rw [ratifyClaim_withdraw withdraw target, find_freeExecuted, if_neg own, withdrawTarget_other other]

/-- A target in APPLYING is kept, with WITHDRAW_TOO_LATE (R99). -/
theorem claim_withdraw_late {w : Entry} (own : x ≠ e.id) (held : s.find x = some w) (late : w.state = .applying) :
    (ratifyClaim e set s).find x = some w ∧ noticed (ratifyClaim e set s) .withdrawTooLate := by
  rw [ratifyClaim_withdraw withdraw target, find_freeExecuted, if_neg own, withdrawTarget_applying held late]
  exact ⟨held, (freeExecuted_remains _ _ _).noticed _ (raise_noticed (.withdrawTooLate x e.id) s)⟩

/-- Another target is freed WITHDRAWN (R31). -/
theorem claim_withdraw_early {w : Entry} (held : s.find x = some w) (early : w.state ≠ .applying) :
    (ratifyClaim e set s).find x = none ∧ noticed (ratifyClaim e set s) .withdrawn := by
  rw [ratifyClaim_withdraw withdraw target, find_freeExecuted, withdrawTarget_held held early, find_freeEntry,
    if_pos rfl, ite_self]
  exact ⟨rfl, (freeExecuted_remains _ _ _).noticed _ (freeEntry_noticed x (.withdrawn x e.id) s)⟩

/-- A target that is not held stays so. -/
theorem claim_withdraw_unheld (unheld : s.find x = none) : (ratifyClaim e set s).find x = none := by
  rw [ratifyClaim_withdraw withdraw target, find_freeExecuted, withdrawTarget, unheld]
  exact (congrArg _ unheld).trans (ite_self _)

/-- A frame that does not name the target stands. -/
theorem claim_withdraw_frames {f : Frame} (h : f ∈ s.line.queue) (other : f.ident ≠ some x) :
    f ∈ (ratifyClaim e set s).line.queue := by
  rw [ratifyClaim_withdraw withdraw target, (freeExecuted_frame _ _ _).line, withdrawTarget]
  split
  · exact h
  · split
    · exact h
    · exact freeEntry_frames _ h (.inl other)

end

end

end Sys2Proof.Machine
end

section
/-! SUPPORT. A RATIFY at the Agreement Engine: its tests in their order, what is held under its identifier, and the recital
that a missed entry asks for (R94, R95, R126). -/

namespace Sys2Proof.Machine

set_option Elab.async false

section
variable {s : State} {sender : Nat} {body : List Byte} {id : Ident} {set : StationSet} {e : Entry}

/-! ### The tests of R94 -/

/-- The stations of a set are below `n` where its value as a number is below 2^n. -/
theorem stationsBelow_iff {n : Nat} :
    stationsBelow n set = true ↔ ∀ k : Fin 16, set.getLsbD k.val = true → k.val < n := by
  unfold stationsBelow
  rw [decide_eq_true_eq]
  constructor
  · intro below k member
    by_contra high
    have clear : set.toNat.testBit k.val = false :=
      Nat.testBit_lt_two_pow (below.trans_le (Nat.pow_le_pow_right (by decide) (Nat.not_lt.1 high)))
    exact absurd member (by rw [BitVec.getLsbD, clear]; decide)
  · intro members
    refine Nat.lt_pow_two_of_testBit _ fun k high => ?_
    by_cases small : k < 16
    · rw [← Bool.not_eq_true]
      exact fun member => absurd (members ⟨k, small⟩ member) (Nat.not_lt.2 high)
    · exact BitVec.getLsbD_of_ge set k (Nat.not_lt.1 small)

theorem ratifyFault_proposer (other : sender ≠ id.proposer) : ratifyFault s sender id set = some .notProposer :=
  if_pos other

section
variable (own : sender = id.proposer)
include own

theorem ratifyFault_range (out : ¬ stationsBelow s.plan.n set = true) :
    ratifyFault s sender id set = some .setRange := by
  rw [ratifyFault, if_neg (not_not.2 own), if_pos (by simpa using out)]

theorem ratifyFault_short (below : stationsBelow s.plan.n set = true) (few : countStations set < s.quorum) :
    ratifyFault s sender id set = some .shortSet := by
  rw [ratifyFault, if_neg (not_not.2 own), if_neg (by simp [below]), if_pos few]

theorem ratifyFault_absent (below : stationsBelow s.plan.n set = true) (many : s.quorum ≤ countStations set)
    (absent : hasStation set id.proposer = false) : ratifyFault s sender id set = some .setRange := by
  rw [ratifyFault, if_neg (not_not.2 own), if_neg (by simp [below]), if_neg (Nat.not_lt.2 many),
    if_pos (by simp [absent])]

theorem ratifyFault_passes (below : stationsBelow s.plan.n set = true) (many : s.quorum ≤ countStations set)
    (present : hasStation set id.proposer = true) : ratifyFault s sender id set = none := by
  rw [ratifyFault, if_neg (not_not.2 own), if_neg (by simp [below]), if_neg (Nat.not_lt.2 many),
    if_neg (by simp [present])]

end

/-! ### What the frame does (R95) -/

theorem takeRatify_fails (admits : Admits s sender) {cause : RxCause}
    (fault : ratifyFault s sender (identAt body 0) (BitVec.ofNat 16 (field body 3 2)) = some cause) :
    takeRatify sender body s = contentError cause .ratify sender body s := by
  rw [takeRatify, if_neg (Bool.eq_false_iff.1 admits)]
  dsimp only
  rw [fault]

section
variable (admits : Admits s sender)
  (passes : ratifyFault s sender (identAt body 0) (BitVec.ofNat 16 (field body 3 2)) = none)
include admits passes

theorem takeRatify_unheld (unheld : s.find (identAt body 0) = none) :
    takeRatify sender body s = missEntry (identAt body 0) (BitVec.ofNat 16 (field body 3 2)) s := by
  rw [takeRatify, if_neg (Bool.eq_false_iff.1 admits)]
  dsimp only
  rw [passes]
  dsimp only
  rw [unheld]

theorem takeRatify_settled (held : s.find (identAt body 0) = some e) (settled : e.state ≠ .proposed) :
    takeRatify sender body s = s := by
  rw [takeRatify, if_neg (Bool.eq_false_iff.1 admits)]
  dsimp only
  rw [passes]
  dsimp only
  rw [held]
  exact if_neg settled

theorem takeRatify_proposed (held : s.find (identAt body 0) = some e) (proposed : e.state = .proposed) :
    takeRatify sender body s = ratifyClaim e (BitVec.ofNat 16 (field body 3 2)) s := by
  rw [takeRatify, if_neg (Bool.eq_false_iff.1 admits)]
  dsimp only
  rw [passes]
  dsimp only
  rw [held]
  exact if_pos proposed

end

/-! ### The recital that is asked (R126) -/

theorem askRecital_held {c : RecvCtx} (h : s.receiving = some c) (origin : RecvOrigin) (k : Nat) :
    askRecital origin k s = s := by
  unfold askRecital
  rw [h]

/-- In ACTIVE the request state follows the room for the RECITE_REQ. -/
theorem offerRequest_active {c : RecvCtx} (active : s.station.state = .active) (h : s.receiving = some c) :
    (offerRequest s).receiving = some { c with req := if roomFor s.line.queue 1 then .queued else .due } := by
  simp only [offerRequest, h, wouldQueue_active active]
  rfl

/-- A recital asked in ACTIVE of the Recital Unit without a context: the context of its first attempt. -/
theorem askRecital_new (active : s.station.state = .active) (h : s.receiving = none) (origin : RecvOrigin) (k : Nat) :
    (askRecital origin k s).receiving = some
      { origin := origin, target := k, req := if roomFor s.line.queue 1 then .queued else .due, source := none,
        expected := 1, total := none, wait := 0, tried := noStations, attempts := [], tallies := Tallies.zero,
        serial := s.serial } := by
  unfold askRecital
  rw [h]
  exact offerRequest_active (s := { s with serial := _, receiving := some _ }) active rfl

theorem missEntry_inactive (inactive : s.station.state ≠ .active) :
    missEntry id set s = raise (.missedEntry id set s.clock.label) s := if_neg inactive

theorem missEntry_active (active : s.station.state = .active) :
    missEntry id set s = askRecital .missedEntry id.proposer (raise (.missedEntry id set s.clock.label) s) :=
  if_pos active

end

/-- Settles O44: the tests of R94 in their order, then what is held under the identifier. -/
theorem ratifyIsTestedAndTakesEffect : Obligations.RatifyIsTestedAndTakesEffect := by
  intro s sender body heard length isolated started divergent mismatched u id set error inRange
  have admits : Admits u sender.toNat := afterReport_admits isolated started divergent mismatched
  have report : ChangesOnly [.line, .roster, .notices] s u := afterReport_frame
  have found (x : Ident) : u.find x = s.find x := afterReport_find s sender x
  have run : exec (.ratify sender body) s = .next (takeRatify sender.toNat body u) := exec_ratify heard length
  have below : stationsBelow u.plan.n set = true ↔ inRange := by rw [report.plan]; exact stationsBelow_iff
  have quorum : u.quorum = s.quorum := report.quorum
  have fails (cause : RxCause) (fault : ratifyFault u sender.toNat id set = some cause) : error cause := by
    have raises := contentError_raised cause .ratify sender.toNat body u
    rw [length, report.clock] at raises
    refine ⟨_, run, ?_⟩
    rw [takeRatify_fails admits fault]
    exact ⟨raises, raise_frame _ u⟩
  refine ⟨fun other => fails _ (ratifyFault_proposer other),
    fun own out => fails _ (ratifyFault_range own (mt below.1 out)),
    fun own range few => fails _ (ratifyFault_short own (below.2 range) (quorum ▸ few)),
    fun own range many absent => fails _ (ratifyFault_absent own (below.2 range) (quorum ▸ many) absent),
    fun own range many present => ?passes⟩
  case passes =>
    have passes : ratifyFault u sender.toNat id set = none :=
      ratifyFault_passes own (below.2 range) (quorum ▸ many) present
    have onUnheld : u.find id = none → takeRatify sender.toNat body u = missEntry id set u :=
      takeRatify_unheld admits passes
    have onSettled {e : Entry} : u.find id = some e → e.state ≠ .proposed → takeRatify sender.toNat body u = u :=
      takeRatify_settled admits passes
    have onProposed {e : Entry} :
        u.find id = some e → e.state = .proposed → takeRatify sender.toNat body u = ratifyClaim e set u :=
      takeRatify_proposed admits passes
    rw [run]
    clear_value id set
    refine ⟨fun e held settled => congrArg _ (onSettled ((found id).trans held) settled),
      fun unheld inactive => ⟨_, rfl, ?inactive⟩, fun unheld active => ⟨_, rfl, ?active⟩,
      fun e held proposed scheduled => ⟨_, rfl, ?scheduled⟩, fun e held proposed custody => ⟨_, rfl, ?custody⟩,
      fun e x w held proposed withdraw target other known => ⟨_, rfl, ?withdraw⟩⟩
    case inactive =>
      have inactive' : u.station.state ≠ .active := by rw [report.station]; exact inactive
      rw [onUnheld ((found id).trans unheld), missEntry_inactive inactive', report.clock]
      exact ⟨rfl, raise_frame _ u⟩
    case active =>
      rw [onUnheld ((found id).trans unheld)]
      have active' : u.station.state = .active := by rw [report.station]; exact active
      have frame := missEntry_frame id set u
      rw [missEntry_active active'] at frame ⊢
      have kept : (raise (.missedEntry id set u.clock.label) u).receiving = s.receiving := report.receiving
      refine ⟨(askRecital_remains _ _ _).noticed _ (raise_noticed _ u), fun c held => ?_, fun none => ?_, frame⟩
      · rw [askRecital_held (kept.trans held)]
        exact kept.trans held
      · refine ⟨_, askRecital_new (s := raise _ u) active' (kept.trans none) _ _, rfl, rfl, rfl, rfl, rfl, rfl, ?_⟩
        exact congrArg (fun q => if roomFor q 1 = true then ReqState.queued else .due) (afterReport_queue s sender)
    case scheduled =>
      obtain rfl : e.id = id := find_id held
      have held' : u.find e.id = some e := (found e.id).trans held
      rw [onProposed held' proposed]
      have conflicts : u.settledConflicts e.toRecord = s.settledConflicts e.toRecord :=
        afterReport_conflicts s sender _
      by_cases free : s.settledConflicts e.toRecord = []
      · have free' := conflicts.trans free
        refine ⟨fun _ => ⟨?_, claim_free_raised set scheduled free'⟩, fun conflict => absurd free conflict,
          fun x other => ?_, (claim_free_frame set scheduled free').mono (by decide)⟩
        · rw [find_claim_free set scheduled free' held', if_pos rfl]
        · rw [find_claim_free set scheduled free' held', if_neg other, found]
      · have conflict' : u.settledConflicts e.toRecord ≠ [] := by rw [conflicts]; exact free
        have raises := claim_conflict_raised set scheduled conflict'
        rw [report.pins] at raises
        refine ⟨fun none => absurd none free, fun _ => ⟨?_, raises⟩, fun x other => ?_,
          claim_conflict_frame set scheduled conflict'⟩
        · rw [find_claim_conflict set scheduled conflict', if_pos rfl]
        · rw [find_claim_conflict set scheduled conflict', if_neg other, found]
    case custody =>
      obtain rfl : e.id = id := find_id held
      rw [onProposed ((found e.id).trans held) proposed]
      have frame := claim_custody_frame (s := u) set custody
      refine ⟨?_, claim_custody_raised set custody, fun k v scale value lo hi => ?_, ?_, frame⟩
      · rw [find_claim_custody set custody, if_pos rfl]
      · rw [claim_custody_scale set custody scale value lo hi, scale_of_scales report.scales]
      · rw [frame.line]
        exact afterReport_queue s sender
    case withdraw =>
      obtain rfl : e.id = id := find_id held
      rw [onProposed ((found e.id).trans held) proposed]
      have known' : u.find x = some w := (found x).trans known
      exact ⟨claim_withdraw_gone set withdraw target,
        fun early => (claim_withdraw_early set withdraw target known' early).1,
        fun late => (claim_withdraw_late set withdraw target other known' late).1,
        claim_withdraw_frame set withdraw target⟩

end Sys2Proof.Machine
end

section
/-! SUPPORT. A state in which a window that has not come is freed at a boundary: the retest at the quorum executes an own
WITHDRAW that names no target (R23, R31, R90, R97). -/

namespace Sys2Proof.Machine

set_option Elab.async false

/-- A WITHDRAW that tells no target: R23 keeps such a record out of the table, `TableBounded` does not. -/
def aimlessWithdraw : Entry where
  id := ⟨0, 1⟩
  kind := .withdraw
  scale := none
  turn := none
  value := none
  target := none
  state := .proposed
  endorsers := 0b11
  flags := []
  window := some 1050
  stamp := 0
  mark := .none

/-- An own leap below the quorum, under the identifier that `ratifyClaim` reads where a WITHDRAW tells no target. -/
def bystander : Entry where
  id := ⟨0, 0⟩
  kind := .leapAdd
  scale := some 1
  turn := some 1100
  value := none
  target := none
  state := .proposed
  endorsers := 0b01
  flags := []
  window := some 1050
  stamp := 1
  mark := .none

/-- Station 0 of three, ACTIVE at label 1,000 with the next edge due, holding the two entries. -/
def aimlessState : State :=
  { State.reset with
    clock := { Clock.reset with label := 1000, tick := 10000000, phased := true }
    plan := { Plan.reset with n := 3 }
    quorum := 2
    table := { Table.reset with entries := [aimlessWithdraw, bystander], nextStamp := 2, nextSeq := 2 }
    station := { Station.reset with state := .active } }

/-- The units in the order in which the manual lists them. -/
def listedOrder : BoundaryOrder where
  stages := Stage.all
  passBeforeTest := true

theorem aimlessState_bounded : TableBounded aimlessState := by decide

theorem aimlessState_makesBoundary : makesBoundary aimlessState (.secinEdge listedOrder) :=
  .inr (.inl (by decide))

/-- The boundary takes label 1,001, so no window moves, and the bystander is gone. -/
theorem secinEdge_frees_bystander :
    (secinEdge listedOrder aimlessState).clock.label = 1001 ∧
      (secinEdge listedOrder aimlessState).find bystander.id = none := by
  decide +kernel

/-- Refutes O26: an own WITHDRAW at Q endorsers frees more than the target that it tells. `ratifyClaim` takes the target
as `getD default`, so one that tells none frees ⟨0, 0⟩, whose window of 1,050 has not come at label 1,001. Nothing in
`TableBounded` asks the R23 form that would exclude it. -/
theorem not_windowExpiryFreesTheEntry : ¬ Obligations.WindowExpiryFreesTheEntry := by
  intro ⟨_, atBoundary⟩
  obtain ⟨t, run, windows⟩ :=
    atBoundary aimlessState (.secinEdge listedOrder) aimlessState_makesBoundary aimlessState_bounded
  obtain rfl : secinEdge listedOrder aimlessState = t := Host.Outcome.next.inj run
  obtain ⟨label, gone⟩ := secinEdge_frees_bystander
  obtain ⟨_, stands⟩ := windows bystander 1050 rfl rfl rfl
  rw [label] at stands
  obtain ⟨m, held⟩ := stands (by decide) (by decide) (by decide)
  exact absurd (gone.symm.trans held) (Option.some_ne_none _).symm

end Sys2Proof.Machine
end

section
/-! SUPPORT. An accepted local proposal on a shelf of two or more (R83, R84). -/

namespace Sys2Proof.Machine

set_option Elab.async false

section
variable {s : State} {r : Record} {flags : List CfgRule} {code : Byte}

theorem storeOwn_version (r : Record) (flags : List CfgRule) (s : State) :
    (storeOwn r flags s).table.version = s.table.version + 1 := by
  unfold storeOwn
  rw [raiseFlagged_table]
  rfl

theorem offer_version (f : Frame) (s : State) : (offer f s).table.version = s.table.version :=
  congrArg Table.version (offer_table f s)

theorem offerPropose_version (r : Record) (s : State) : (offerPropose r s).table.version = s.table.version :=
  offer_version (proposeFrame r) s

theorem offerPropose_queue (active : s.station.state = .active) (r : Record) :
    (offerPropose r s).line.queue =
      if roomFor s.line.queue r.kind.proposeClass then insertFrame (proposeFrame r) s.line.queue else s.line.queue :=
  offer_queue_active active (proposeFrame r)

theorem announce_shelf (shelf : 2 ≤ s.plan.n) (whole : Bool) :
    announce whole code r flags s =
      respond code (if s.wouldQueue (proposeFrame r) then .ok else .queueFull) 0 (.proposal r.id flags)
        (offerPropose r s) := if_neg (by omega)

/-- An accepted local proposal on a shelf of two or more is a change of the table, and its announcement is queued where
there is room. -/
theorem takeOwnVerdict_announces (whole : Bool) (active : s.station.state = .active) (shelf : 2 ≤ s.plan.n)
    (free : s.storeRefusal r = none) :
    (takeOwnVerdict whole code r (.accept flags) s).table.version = s.table.version + 1 ∧
      (takeOwnVerdict whole code r (.accept flags) s).line.queue =
        if roomFor s.line.queue r.kind.proposeClass then insertFrame (proposeFrame r) s.line.queue
        else s.line.queue := by
  have own := storeOwn_frame r flags s
  rw [takeOwnVerdict_accept active free, announce_shelf (by rw [own.plan]; exact shelf)]
  constructor
  · exact (offerPropose_version r _).trans (storeOwn_version r flags s)
  · refine (offerPropose_queue (by rw [own.station]; exact active) r).trans ?_
    rw [own.line]

theorem judgeOwn_now {w : VerdictTime} (now : w ≠ .later) (code : Byte) (r : Record) (s : State) :
    ∃ whole, judgeOwn w code r s = takeOwnVerdict whole code r (screen s r) s := by
  cases w with
  | atOnce => exact ⟨true, rfl⟩
  | stored => exact ⟨false, rfl⟩
  | later => exact absurd rfl now

end

/-- Settles O11: the sequence found, the verdict is taken in the state that holds it; the store, then the offer. -/
theorem acceptedProposalIsStoredAndAnnounced : Obligations.AcceptedProposalIsStoredAndAnnounced := by
  intro s i code q r flags proposal now active shelf found formed fields accepts
  obtain ⟨whole, judged⟩ := judgeOwn_now now code r (s.setSeq q)
  have run := proposal_judged proposal active found formed fields
  rw [judged, accepts] at run
  have free := (storeRefusal_of_accept accepts).2.2
  have stored := takeOwnVerdict_storedAndAnnounced (s := s.setSeq q) (code := code) (flags := flags) whole active shelf free
  obtain ⟨version, queue⟩ :=
    takeOwnVerdict_announces (s := s.setSeq q) (code := code) (flags := flags) whole active shelf free
  exact ⟨_, run, stored.stored, stored.others, stored.nextSeq, version, queue, stored.port,
    ((setSeq_frame q s).mono (by decide)).trans stored.frame⟩

end Sys2Proof.Machine
end

section
/-! SUPPORT. A proposal from the line: what its store leaves, and what its rejection draws (R86, R87). -/

namespace Sys2Proof.Machine

set_option Elab.async false

section
variable {s : State} {r : Record} {flags : List CfgRule} {sender : BitVec 4} {body : List Byte}

/-! ### The store -/

theorem raiseFlagged_line (id : Ident) (flags : List CfgRule) (s : State) : (raiseFlagged id flags s).line = s.line :=
  (raiseFlagged_frame id flags s).line

theorem raiseFlagged_remains (id : Ident) (flags : List CfgRule) (s : State) : Remains s (raiseFlagged id flags s) :=
  .ite (.refl s) (raise_remains _ s)

theorem raiseFlagged_noticed (id : Ident) (some : flags ≠ []) (s : State) :
    noticed (raiseFlagged id flags s) .flagged := by
  rw [raiseFlagged, if_neg some]
  exact raise_noticed _ s

theorem storeEntry_noticed (r : Record) (st : EntryState) (set : StationSet) (flags : List CfgRule) (w : Option Nat)
    (m : Mark) (o : StoreOrigin) (s : State) : noticed (storeEntry r st set flags w m o s) .stored :=
  raise_noticed (.stored r.id r.kind o st) _

/-- The entry and its notices, before the ENDORSE is offered. -/
def storedFromLine (r : Record) (flags : List CfgRule) (s : State) : State :=
  raiseFlagged r.id flags
    (storeEntry r .proposed (receivedEndorsers s r.id.proposer) flags (some (s.clock.label + s.plan.e + 2)) .none .line s)

theorem storeProposal_eq (r : Record) (flags : List CfgRule) (s : State) :
    storeProposal r flags s =
      if s.station.state = .active then offer (endorseFrame r.id) (storedFromLine r flags s)
      else storedFromLine r flags s := rfl

theorem storedFromLine_frame (r : Record) (flags : List CfgRule) (s : State) :
    ChangesOnly [.table, .notices] s (storedFromLine r flags s) :=
  (storeEntry_frame _ _ _ _ _ _ _ s).then (raiseFlagged_frame _ _ _)

theorem storeProposal_table (r : Record) (flags : List CfgRule) (s : State) :
    (storeProposal r flags s).table = (storedFromLine r flags s).table := by
  rw [storeProposal_eq]
  split
  · exact offer_table _ _
  · rfl

theorem storedFromLine_counters (r : Record) (flags : List CfgRule) (s : State) :
    (storedFromLine r flags s).table.version = s.table.version + 1 ∧
      (storedFromLine r flags s).table.nextStamp = s.table.nextStamp + 1 ∧
      (storedFromLine r flags s).table.nextSeq = s.table.nextSeq := by
  unfold storedFromLine
  rw [raiseFlagged_table]
  exact ⟨rfl, rfl, rfl⟩

theorem storeProposal_queue (r : Record) (flags : List CfgRule) (s : State) :
    (storeProposal r flags s).line.queue =
      if s.station.state = .active ∧ roomFor s.line.queue 4 = true then
        insertFrame (endorseFrame r.id) s.line.queue
      else s.line.queue := by
  have frame := storedFromLine_frame r flags s
  rw [storeProposal_eq]
  by_cases active : s.station.state = .active
  · rw [if_pos active, offer_queue_active (by rw [frame.station]; exact active), frame.line]
    simp only [active, true_and]
    rfl
  · rw [if_neg active, if_neg (not_and.2 fun h => absurd h active), frame.line]

theorem storedFromLine_remains (r : Record) (flags : List CfgRule) (s : State) :
    Remains (storedFromLine r flags s) (storeProposal r flags s) := by
  rw [storeProposal_eq]
  exact .ite (offer_remains _ _) (.refl _)

theorem storeProposal_stored (r : Record) (flags : List CfgRule) (s : State) :
    noticed (storeProposal r flags s) .stored :=
  (storedFromLine_remains r flags s).noticed _
    ((raiseFlagged_remains _ _ _).noticed _ (storeEntry_noticed _ _ _ _ _ _ _ s))

theorem storeProposal_flagged (r : Record) (some : flags ≠ []) (s : State) :
    noticed (storeProposal r flags s) .flagged :=
  (storedFromLine_remains r flags s).noticed _ (raiseFlagged_noticed r.id some _)

/-! ### The rejection -/

theorem offer_notices_room {f : Frame} (room : s.wouldQueue f = true) : (offer f s).notices = s.notices := by
  rw [offer, if_pos room]
  rfl

theorem rejectProposal_notices (id : Ident) (reason : Reason) (active : s.station.state = .active)
    (room : roomFor s.line.queue 6 = true) : (rejectProposal id reason s).notices = s.notices := by
  rw [rejectProposal, if_pos active]
  exact offer_notices_room ((wouldQueue_active active _).trans room)

/-! ### The delivery -/

theorem judgeProposal_now {w : VerdictTime} (now : w ≠ .later) (r : Record) (s : State) :
    judgeProposal w r s = takeVerdict r (screen s r) s := by
  cases w with
  | atOnce => rfl
  | stored => rfl
  | later => exact absurd rfl now

/-- A PROPOSE whose record does not meet R23, or is none, is RX_ERROR with cause FORM_CONTENT. -/
theorem takePropose_malformed {p : Nat} (admitted : (!s.station.state.screens || s.disagreeing p) = false)
    (bad : ∀ r, proposeRecord p body = some r → r.fieldsOk s.plan.n = false) (w : VerdictTime) :
    takePropose w p body s = contentError .formContent .propose p body s := by
  rw [takePropose, if_neg (Bool.eq_false_iff.1 admitted)]
  split
  · rfl
  next r formed => exact if_neg (by simp [bad r formed])

theorem afterReport_screens (screens : s.station.state.screens = true)
    (divergent : (s.slot sender.toNat).state ≠ .divergent) (mismatched : (s.slot sender.toNat).state ≠ .mismatched) :
    (!(afterReport s sender).station.state.screens || (afterReport s sender).disagreeing sender.toNat) = false := by
  rw [(afterReport_frame (s := s)).station, screens, afterReport_agreeing divergent mismatched]
  rfl

theorem exec_propose (heard : audible s .propose sender body) (permitted : lengthPermitted .propose body = true)
    (w : VerdictTime) :
    exec (.propose sender ⟨body, w⟩) s = .next (takePropose w sender.toNat body (afterReport s sender)) :=
  congrArg Host.Outcome.next (receiveTyped_audible heard (propose_length_le permitted) permitted w)

end

/-- Settles O41: the record, then its screening, decide what a PROPOSE does. -/
theorem proposalsFromTheLineAreJudged : Obligations.ProposalsFromTheLineAreJudged := by
  refine ⟨fun s sender body v now heard permitted screens divergent mismatched => ?_,
    fun s sender body v r reason now heard permitted divergent mismatched formed fields rejects => ?rejected⟩
  · intro u p
    have report : ChangesOnly [.line, .roster, .notices] s u := afterReport_frame
    have screens' := screens_iff.2 screens
    refine ⟨fun r flags formed fields accepts => ?accepted, fun bad => ?malformed⟩
    case accepted =>
      have proposer : r.id.proposer = p := proposeRecord_proposer formed
      obtain ⟨unheld, -, free⟩ := storeRefusal_of_accept accepts
      have found := find_storeProposal unheld flags
      rw [propose_judged heard permitted screens' divergent mismatched formed fields, judgeProposal_now now, accepts,
        takeVerdict_accept (by rw [report.station]; exact screens') free]
      obtain ⟨version, stamp, seq⟩ := storedFromLine_counters r flags u
      rw [← storeProposal_table, report.table] at version stamp seq
      refine ⟨_, rfl, ?_, fun x other => ?_, version, stamp, seq, ?_, storeProposal_stored r flags u,
        fun some => storeProposal_flagged r some u,
        (report.mono (by decide)).trans ((storeProposal_frame r flags u).mono (by decide))⟩
      · rw [found, if_pos rfl, receivedEndorsers_eq, proposer, report.station, report.pins, report.clock, report.plan,
          report.table]
      · rw [found, if_neg other]
        exact afterReport_find s sender x
      · rw [storeProposal_queue, report.station, afterReport_queue]
        rfl
    case malformed =>
      have raises := contentError_raised .formContent .propose p body u
      rw [report.clock] at raises
      rw [exec_propose heard permitted, takePropose_malformed (afterReport_screens screens' divergent mismatched)
        (by rw [report.plan]; exact bad)]
      exact ⟨_, rfl, raises, raise_frame _ u⟩
  case rejected =>
    have report : ChangesOnly [.line, .roster, .notices] s (afterReport s sender) := afterReport_frame
    have station : (afterReport s sender).station = s.station := report.station
    have run (screens : s.station.state.screens = true) :
        exec (.propose sender ⟨body, v⟩) s = .next (rejectProposal r.id reason (afterReport s sender)) := by
      rw [propose_judged heard permitted screens divergent mismatched formed fields, judgeProposal_now now, rejects,
        takeVerdict_refused (by rw [station]; exact screens) rfl]
    refine ⟨fun quiet => ?_, fun active => ⟨_, run (screens_iff.2 (.inl active)), ?_⟩⟩
    · have inactive : (afterReport s sender).station.state ≠ .active := by
        rw [station]
        obtain h | h := quiet <;> exact fun active => absurd (h.symm.trans active) (by decide)
      rw [run (screens_iff.2 (.inr quiet)), rejectProposal_inactive _ _ inactive]
    · have active' : (afterReport s sender).station.state = .active := by rw [station]; exact active
      have queue := rejectProposal_queue r.id reason active'
      have notices := rejectProposal_notices r.id reason active'
      have rejected := rejectProposal_frame r.id reason (afterReport s sender)
      rw [afterReport_queue] at queue notices
      exact ⟨rejected.table.trans report.table, queue, notices, report.trans (rejected.mono (by decide))⟩

end Sys2Proof.Machine
end

section
/-! SUPPORT. The proposer's ratification of an own entry on a shelf of two or more: the claim, then or before it the RATIFY
that is offered (R90, R98). -/

namespace Sys2Proof.Machine

set_option Elab.async false

section
variable {s : State} {e : Entry}

/-! ### The RATIFY that is offered -/

/-- The mark of a settled entry follows the admission of its RATIFY (R90, R96). -/
theorem find_offerRatify (active : s.station.state = .active) (id : Ident) (set : StationSet) (x : Ident) :
    (offerRatify id set s).find x =
      if x = id then (s.find x).map fun e => { e with mark := if roomFor s.line.queue 5 then .ratifyQueued else .ratifyDue }
      else s.find x := by
  unfold offerRatify
  rw [find_setMark, find_offer, wouldQueue_active active]
  rfl

theorem offerRatify_queue (active : s.station.state = .active) (id : Ident) (set : StationSet) :
    (offerRatify id set s).line.queue =
      if roomFor s.line.queue 5 then insertFrame (ratifyFrame id set) s.line.queue else s.line.queue :=
  offer_queue_active active (ratifyFrame id set)

theorem noticed_of_raised {n : Notice} {t : State} (h : raised n s t) : noticed t n.kind := by
  unfold noticed
  rw [h]
  exact raise_noticed n s

/-! ### The ratification -/

theorem settledId_claim_free (held : s.find e.id = some e) (scheduled : e.kind.scheduled = true)
    (free : s.settledConflicts e.toRecord = []) (set : StationSet) : (ratifyClaim e set s).settledId e.id = true := by
  unfold State.settledId
  rw [find_claim_free set scheduled free held, if_pos rfl]
  rfl

theorem settledId_claim_conflict (scheduled : e.kind.scheduled = true) (conflict : s.settledConflicts e.toRecord ≠ [])
    (set : StationSet) : (ratifyClaim e set s).settledId e.id = false := by
  unfold State.settledId
  rw [find_claim_conflict set scheduled conflict, if_pos rfl]

section
variable (held : s.find e.id = some e) (shelf : 2 ≤ s.plan.n)
include held shelf

theorem ratifyOwn_free_active (scheduled : e.kind.scheduled = true) (free : s.settledConflicts e.toRecord = [])
    (active : s.station.state = .active) :
    ratifyOwn e.id s = offerRatify e.id e.endorsers (ratifyClaim e e.endorsers s) := by
  unfold ratifyOwn
  rw [held]
  dsimp only
  rw [if_pos scheduled, if_neg (by omega), if_pos (settledId_claim_free held scheduled free _), if_pos active]

theorem ratifyOwn_free_inactive (scheduled : e.kind.scheduled = true) (free : s.settledConflicts e.toRecord = [])
    (inactive : s.station.state ≠ .active) :
    ratifyOwn e.id s = (ratifyClaim e e.endorsers s).setMark e.id .ratifyDue := by
  unfold ratifyOwn
  rw [held]
  dsimp only
  rw [if_pos scheduled, if_neg (by omega), if_pos (settledId_claim_free held scheduled free _), if_neg inactive]

theorem ratifyOwn_conflict (scheduled : e.kind.scheduled = true) (conflict : s.settledConflicts e.toRecord ≠ []) :
    ratifyOwn e.id s = ratifyClaim e e.endorsers s := by
  unfold ratifyOwn
  rw [held]
  dsimp only
  rw [if_pos scheduled, if_neg (by omega), settledId_claim_conflict scheduled conflict]
  rfl

/-- A kind without a turn is offered its RATIFY, and then claimed. -/
theorem ratifyOwn_executes (unscheduled : e.kind.scheduled = false) (active : s.station.state = .active) :
    ratifyOwn e.id s = ratifyClaim e e.endorsers (offer (ratifyFrame e.id e.endorsers) s) := by
  unfold ratifyOwn
  rw [held]
  dsimp only
  rw [if_neg (by simp [unscheduled]), if_pos active, if_neg (by omega)]

/-! ### What it leaves -/

/-- An own scheduled entry without a conflict is RATIFIED, and its RATIFY offered where the station is ACTIVE. -/
theorem ratifyOwn_free (scheduled : e.kind.scheduled = true) (free : s.settledConflicts e.toRecord = []) :
    (∀ x, x ≠ e.id → (ratifyOwn e.id s).find x = s.find x) ∧ noticed (ratifyOwn e.id s) .ratified ∧
      (s.station.state = .active →
        (ratifyOwn e.id s).find e.id = some
          { e with
            state := .ratified
            window := none
            mark := if roomFor s.line.queue 5 then .ratifyQueued else .ratifyDue } ∧
        (ratifyOwn e.id s).line.queue =
          (if roomFor s.line.queue 5 then insertFrame (ratifyFrame e.id e.endorsers) s.line.queue else s.line.queue) ∧
        ChangesOnly [.table, .line, .notices] s (ratifyOwn e.id s)) ∧
      (s.station.state ≠ .active →
        (ratifyOwn e.id s).find e.id = some { e with state := .ratified, window := none, mark := .ratifyDue } ∧
        raised (.ratified e.id e.endorsers .none) s (ratifyOwn e.id s) ∧
        ChangesOnly [.table, .notices] s (ratifyOwn e.id s)) := by
  have claimed := find_claim_free e.endorsers scheduled free held
  have raises := claim_free_raised e.endorsers scheduled free
  have frame := claim_free_frame e.endorsers scheduled free
  have tells := noticed_of_raised raises
  by_cases active : s.station.state = .active
  · have active' : (ratifyClaim e e.endorsers s).station.state = .active := by rw [frame.station]; exact active
    have offered := find_offerRatify active' e.id e.endorsers
    rw [frame.line] at offered
    rw [ratifyOwn_free_active held shelf scheduled free active]
    refine ⟨fun x other => ?_, (offerRatify_remains _ _ _).noticed _ tells, fun _ => ⟨?_, ?_,
      (frame.mono (by decide)).trans (offerRatify_frame _ _ _)⟩, fun inactive => absurd active inactive⟩
    · rw [offered, if_neg other, claimed, if_neg other]
    · rw [offered, if_pos rfl, claimed, if_pos rfl]
      rfl
    · rw [offerRatify_queue active', frame.line]
  · rw [ratifyOwn_free_inactive held shelf scheduled free active]
    refine ⟨fun x other => ?_, tells, fun h => absurd h active, fun _ => ⟨?_, raises,
      frame.trans ((setMark_frame _ _ _).mono (by decide))⟩⟩
    · rw [find_setMark, if_neg other, claimed, if_neg other]
    · rw [find_setMark, if_pos rfl, claimed, if_pos rfl]
      rfl

/-- An own scheduled entry in conflict with a settled one is freed REFUSED, and no RATIFY is offered (R32, R98). -/
theorem ratifyOwn_refuses (scheduled : e.kind.scheduled = true) (conflict : s.settledConflicts e.toRecord ≠ []) :
    (ratifyOwn e.id s).find e.id = none ∧ (∀ x, x ≠ e.id → (ratifyOwn e.id s).find x = s.find x) ∧
      raised (.refused e.id .spacing s.pins.stn) s (ratifyOwn e.id s) ∧
      (∀ f ∈ (ratifyOwn e.id s).line.queue, f.kind = .ratify → f.ident = some e.id → f.inTx = true) ∧
      (∀ f ∈ s.line.queue, f.ident ≠ some e.id → f ∈ (ratifyOwn e.id s).line.queue) ∧
      ChangesOnly [.table, .line, .notices] s (ratifyOwn e.id s) := by
  have gone := find_claim_conflict e.endorsers scheduled conflict
  have raises := claim_conflict_raised e.endorsers scheduled conflict
  have frame := claim_conflict_frame e.endorsers scheduled conflict
  rw [ratifyOwn_conflict held shelf scheduled conflict]
  refine ⟨(gone e.id).trans (if_pos rfl), fun x other => (gone x).trans (if_neg other), raises,
    fun f hf ratify names => ?_, fun f hf other => ?_, frame⟩
  · rw [ratifyClaim_conflict scheduled conflict] at hf
    exact (purgeNaming_named hf (namesEntry_iff.2 ⟨names, .inr (.inr ratify)⟩)).1
  · rw [ratifyClaim_conflict scheduled conflict]
    exact freeEntry_frames _ hf (.inl other)

/-- An own CUSTODY gives its scale the custodian and is freed, its RATIFY offered. -/
theorem ratifyOwn_custody (active : s.station.state = .active) (custody : e.kind = .custody) :
    (ratifyOwn e.id s).find e.id = none ∧ (∀ x, x ≠ e.id → (ratifyOwn e.id s).find x = s.find x) ∧
      (∀ k v, e.scale = some k → e.value = some v → 1 ≤ k → k ≤ 5 →
        (ratifyOwn e.id s).scale k = { s.scale k with custodian := some v.toNat }) ∧
      (ratifyOwn e.id s).line.queue =
        (if roomFor s.line.queue 5 then insertFrame (ratifyFrame e.id e.endorsers) s.line.queue else s.line.queue) ∧
      noticed (ratifyOwn e.id s) .ratified ∧
      (roomFor s.line.queue 5 = true → raised (.ratified e.id e.endorsers .executed) s (ratifyOwn e.id s)) ∧
      ChangesOnly [.scales, .table, .line, .notices] s (ratifyOwn e.id s) := by
  have offers := offer_frame (ratifyFrame e.id e.endorsers) s
  have gone := find_claim_custody (s := offer (ratifyFrame e.id e.endorsers) s) e.endorsers custody
  have raises := claim_custody_raised (s := offer (ratifyFrame e.id e.endorsers) s) e.endorsers custody
  have frame := claim_custody_frame (s := offer (ratifyFrame e.id e.endorsers) s) e.endorsers custody
  rw [ratifyOwn_executes held shelf (by rw [custody]; rfl) active]
  refine ⟨(gone e.id).trans (if_pos rfl), fun x other => ?_, fun k v scale value lo hi => ?_, ?_,
    noticed_of_raised raises, fun room => ?_, (offers.mono (by decide)).trans (frame.mono (by decide))⟩
  · rw [gone, if_neg other, find_offer]
  · rw [claim_custody_scale e.endorsers custody scale value lo hi, scale_of_scales offers.scales]
  · rw [frame.line, offer_queue_active active]
    rfl
  · rw [raised, offer_notices_room ((wouldQueue_active active _).trans room), offers.clock] at raises
    exact raises

/-- An own WITHDRAW frees its target unless that is APPLYING, and is freed, its RATIFY offered (R31, R99). -/
theorem ratifyOwn_withdraw (active : s.station.state = .active) (withdraw : e.kind = .withdraw) {x : Ident}
    (target : e.target = some x) (other : x ≠ e.id) :
    (ratifyOwn e.id s).find e.id = none ∧
      (∀ w, s.find x = some w → w.state = .applying →
        (ratifyOwn e.id s).find x = some w ∧ noticed (ratifyOwn e.id s) .withdrawTooLate) ∧
      (∀ w, s.find x = some w → w.state ≠ .applying →
        (ratifyOwn e.id s).find x = none ∧ noticed (ratifyOwn e.id s) .withdrawn) ∧
      (∀ y, y ≠ e.id → y ≠ x → (ratifyOwn e.id s).find y = s.find y) ∧
      (s.find x = none → (ratifyOwn e.id s).find x = none) ∧
      (roomFor s.line.queue 5 = true → ratifyFrame e.id e.endorsers ∈ (ratifyOwn e.id s).line.queue) ∧
      noticed (ratifyOwn e.id s) .ratified ∧ ChangesOnly [.table, .line, .notices] s (ratifyOwn e.id s) := by
  have offers := offer_frame (ratifyFrame e.id e.endorsers) s
  have known (y : Ident) := find_offer (ratifyFrame e.id e.endorsers) s y
  rw [ratifyOwn_executes held shelf (by rw [withdraw]; rfl) active]
  refine ⟨claim_withdraw_gone _ withdraw target,
    fun w held late => claim_withdraw_late _ withdraw target other ((known x).trans held) late,
    fun w held early => claim_withdraw_early _ withdraw target ((known x).trans held) early,
    fun y own apart => (claim_withdraw_other _ withdraw target own apart).trans (known y),
    fun unheld => claim_withdraw_unheld _ withdraw target ((known x).trans unheld), fun room => ?_,
    claim_withdraw_noticed _ withdraw target,
    (offers.mono (by decide)).trans (claim_withdraw_frame _ withdraw target)⟩
  refine claim_withdraw_frames _ withdraw target ?_ fun names => other (Option.some.inj names).symm
  rw [offer_queue_active active]
  exact (if_pos room).symm ▸ mem_insertFrame.2 (.inl rfl)

end

end

end Sys2Proof.Machine
end

section
/-! SUPPORT. An ENDORSE at the Agreement Engine: the set that it adds to, and the quorum test (R89, R90). -/

namespace Sys2Proof.Machine

set_option Elab.async false

section
variable {s : State} {sender : Nat} {body : List Byte} {id : Ident} {e : Entry} {set : StationSet}

/-! ### The set of an entry replaced -/

/-- The state with the endorser set of a held entry replaced. -/
def State.withEndorsers (s : State) (id : Ident) (set : StationSet) : State :=
  s.modify id fun x => { x with endorsers := set }

theorem find_withEndorsers (s : State) (id : Ident) (set : StationSet) (x : Ident) :
    (s.withEndorsers id set).find x =
      if x = id then (s.find x).map fun e => { e with endorsers := set } else s.find x :=
  find_modify s id (fun e => { e with endorsers := set }) (fun _ => rfl) x

theorem withEndorsers_version (s : State) (id : Ident) (set : StationSet) :
    (s.withEndorsers id set).table.version = s.table.version + 1 := rfl

theorem withEndorsers_frame (s : State) (id : Ident) (set : StationSet) :
    ChangesOnly [.table] s (s.withEndorsers id set) := modify_frame id _ s

/-- The endorsers of an entry take no part in the spacing test of its own record (R32). -/
theorem withEndorsers_conflicts {r : Record} (s : State) (set : StationSet) :
    (s.withEndorsers r.id set).settledConflicts r = [] ↔ s.settledConflicts r = [] := by
  have rules : SameRules s (s.withEndorsers r.id set) := .of_frame (withEndorsers_frame s r.id set)
  rw [settledConflicts_nil, settledConflicts_nil]
  constructor
  · intro clear x hx settled other
    rw [← rules.conflicts]
    exact clear x (mem_modify.2 ⟨x, hx, if_neg other⟩) settled other
  · intro clear x hx settled other
    obtain ⟨y, hy, rfl⟩ := mem_modify.1 hx
    by_cases own : y.id = r.id
    · rw [if_pos own] at other
      exact absurd own other
    · rw [if_neg own] at settled other ⊢
      rw [rules.conflicts]
      exact clear y hy settled other

/-! ### A station added to a set -/

theorem or_twoPow_eq_self {k : Nat} (endorsed : set.getLsbD k = true) : set ||| BitVec.twoPow 16 k = set := by
  refine BitVec.eq_of_getLsbD_eq fun i _ => ?_
  rw [BitVec.getLsbD_or, BitVec.getLsbD_twoPow, Bool.or_eq_left_iff_imp]
  intro at_k
  simp only [Bool.and_eq_true, decide_eq_true_eq] at at_k
  exact at_k.2 ▸ endorsed

theorem or_twoPow_ne_self {k : Nat} (small : k < 16) (fresh : set.getLsbD k = false) :
    set ||| BitVec.twoPow 16 k ≠ set := by
  intro same
  have joined : (set ||| BitVec.twoPow 16 k).getLsbD k = true := by simp [small]
  rw [same, fresh] at joined
  exact absurd joined (by decide)

/-! ### The frame -/

section
variable (admits : Admits s sender)
include admits

theorem takeEndorse_ignored (ignored : ∀ e, s.find (identAt body 0) = some e →
    e.state ≠ .proposed ∨ e.endorsers.getLsbD sender = true) : takeEndorse sender body s = s := by
  rw [takeEndorse, if_neg (Bool.eq_false_iff.1 admits)]
  split
  next e held =>
    split
    next proposed =>
      have endorsed := (ignored e held).resolve_left (not_not.2 proposed)
      have known : e.endorsers ||| addStation noStations sender = e.endorsers := by
        simpa [addStation, noStations] using or_twoPow_eq_self endorsed
      rw [addEndorsers, find_id held, held]
      exact if_pos known
    next => rfl
  next => rfl

/-- A PROPOSED entry is joined, and the addition that brings an own set to Q ratifies (R89, R90). -/
theorem takeEndorse_joins (held : s.find (identAt body 0) = some e) (proposed : e.state = .proposed)
    (small : sender < 16) (fresh : e.endorsers.getLsbD sender = false) :
    takeEndorse sender body s =
      if e.id.proposer = s.pins.stn ∧ countStations e.endorsers < s.quorum ∧
          s.quorum ≤ countStations (e.endorsers ||| BitVec.twoPow 16 sender) then
        ratifyOwn e.id (s.withEndorsers e.id (e.endorsers ||| BitVec.twoPow 16 sender))
      else s.withEndorsers e.id (e.endorsers ||| BitVec.twoPow 16 sender) := by
  rw [takeEndorse, if_neg (Bool.eq_false_iff.1 admits), held]
  dsimp only
  have added : e.endorsers ||| addStation noStations sender = e.endorsers ||| BitVec.twoPow 16 sender := by
    simp [addStation, noStations]
  rw [if_pos proposed, addEndorsers, find_id held, held]
  dsimp only
  rw [added, if_neg (or_twoPow_ne_self small fresh), find_id held]
  rfl

end

end

/-- Settles O42: the set that is joined, then the ratification that the quorum test calls. -/
theorem endorseAddsItsSender : Obligations.EndorseAddsItsSender := by
  intro s sender body heard length isolated started divergent mismatched u id joined
  have admits : Admits u sender.toNat := afterReport_admits isolated started divergent mismatched
  have report : ChangesOnly [.line, .roster, .notices] s u := afterReport_frame
  have found (x : Ident) : u.find x = s.find x := afterReport_find s sender x
  have run : exec (.endorse sender body) s = .next (takeEndorse sender.toNat body u) := exec_endorse heard length
  rw [run]
  refine ⟨fun ignored => congrArg _ (takeEndorse_ignored admits fun e held => ignored e ((found id).symm.trans held)), ?_⟩
  intro e held proposed fresh othersStand ratify offered
  have joins := takeEndorse_joins admits ((found id).trans held) proposed sender.isLt fresh
  clear_value id
  obtain rfl : e.id = id := find_id held
  let w : State := u.withEndorsers e.id (joined e)
  let j : Entry := { e with endorsers := joined e }
  have added : ChangesOnly [.table] u w := withEndorsers_frame u e.id (joined e)
  have changed (x : Ident) : w.find x = if x = e.id then some j else s.find x := by
    rw [find_withEndorsers, found]
    split
    next own => rw [own, held]; rfl
    next => rfl
  have joined_held : w.find j.id = some j := (changed e.id).trans (if_pos rfl)
  have others (x : Ident) (other : x ≠ e.id) : w.find x = s.find x := (changed x).trans (if_neg other)
  have queue : w.line.queue = s.line.queue := afterReport_queue s sender
  have station : w.station = s.station := report.station
  refine ⟨fun short => ?short, fun own before reaches shelf => ?reached⟩
  case short =>
    have waits : ¬(e.id.proposer = u.pins.stn ∧ countStations e.endorsers < u.quorum ∧
        u.quorum ≤ countStations (joined e)) := by
      rw [report.pins, report.quorum]
      omega
    refine ⟨w, congrArg _ (joins.trans (if_neg waits)), joined_held, others, ?_, added⟩
    rw [← report.table]
    exact withEndorsers_version u e.id (joined e)
  case reached =>
    have shelf' : 2 ≤ w.plan.n := by rw [added.plan, report.plan]; exact shelf
    have conflicts : w.settledConflicts j.toRecord = [] ↔ s.settledConflicts e.toRecord = [] := by
      rw [← afterReport_conflicts s sender]
      exact withEndorsers_conflicts u (joined e)
    have ratifies : takeEndorse sender.toNat body u = ratifyOwn j.id w :=
      joins.trans (if_pos (by rw [report.pins, report.quorum]; exact ⟨own, before, reaches⟩))
    rw [ratifies]
    refine ⟨fun scheduled free => ⟨_, rfl, ?free⟩, fun scheduled conflict => ⟨_, rfl, ?conflict⟩,
      fun unscheduled inactive => ⟨_, rfl, ?waits⟩, fun active custody => ⟨_, rfl, ?custody⟩,
      fun x active withdraw target other => ⟨_, rfl, ?withdraw⟩⟩
    case free =>
      obtain ⟨stand, tells, inActive, inOther⟩ :=
        ratifyOwn_free joined_held shelf' scheduled (conflicts.2 free)
      rw [station, queue] at inActive
      rw [station] at inOther
      refine ⟨fun x other => (stand x other).trans (others x other), tells, fun active => ?_, fun inactive => ?_⟩
      · obtain ⟨held', queued, frame⟩ := inActive active
        exact ⟨held', queued, (added.mono (by decide)).trans frame⟩
      · obtain ⟨held', raises, frame⟩ := inOther inactive
        exact ⟨held', raises, (added.mono (by decide)).trans frame⟩
    case conflict =>
      have conflict' : w.settledConflicts j.toRecord ≠ [] := mt conflicts.1 conflict
      obtain ⟨gone, stand, raises, unsent, frames, frame⟩ := ratifyOwn_refuses joined_held shelf' scheduled conflict'
      rw [added.pins, report.pins] at raises
      rw [queue] at frames
      exact ⟨gone, fun x other => (stand x other).trans (others x other), raises, unsent, frames,
        (added.mono (by decide)).trans frame⟩
    case waits =>
      rw [ratifyOwn_waits joined_held unscheduled (by rw [station]; exact inactive)]
      exact ⟨joined_held, others, added⟩
    case custody =>
      obtain ⟨gone, stand, scales, queued, tells, raises, frame⟩ :=
        ratifyOwn_custody joined_held shelf' (by rw [station]; exact active) custody
      rw [queue] at queued raises
      refine ⟨gone, fun x other => (stand x other).trans (others x other), fun k v scale value lo hi => ?_, queued, tells,
        raises, (added.mono (by decide)).trans frame⟩
      rw [scales k v scale value lo hi, scale_of_scales added.scales, scale_of_scales report.scales]
    case withdraw =>
      obtain ⟨gone, late, early, stand, unheld, queued, tells, frame⟩ :=
        ratifyOwn_withdraw joined_held shelf' (by rw [station]; exact active) withdraw target other
      rw [others x other] at late early unheld
      rw [queue] at queued
      exact ⟨gone, late, early, fun y own apart => (stand y own apart).trans (others y own), unheld, queued, tells,
        (added.mono (by decide)).trans frame⟩

end Sys2Proof.Machine
end

section
/-! SUPPORT. A station that leaves ACTIVE in a boundary does not come back in it: it would have to listen for three beacon
times, and a boundary has at most one (R108, R119, R120). -/

namespace Sys2Proof.Machine

set_option Elab.async false

section
variable {s t u : State} {ps : List Part} {k : Nat}

/-! ### Away from ACTIVE -/

/-- The station is not ACTIVE, and where it is JOINING it has listened for at most `k` beacon times. -/
def Away (k : Nat) (s : State) : Prop :=
  s.station.state ≠ .active ∧ (s.station.state = .joining → s.station.listen ≤ k)

/-- From `s` to `t` the station stays in its state without listening, or is away from ACTIVE and has not listened. -/
def NoReturn (s t : State) : Prop :=
  (t.station.state = s.station.state ∧ t.station.listen ≤ s.station.listen) ∨ Away 0 t

theorem Away.mono {m : Nat} (h : Away k s) (le : k ≤ m) : Away m s := ⟨h.1, fun joining => (h.2 joining).trans le⟩

theorem NoReturn.of_same (state : t.station.state = s.station.state) (listen : t.station.listen = s.station.listen) :
    NoReturn s t := .inl ⟨state, listen.le⟩

theorem NoReturn.of_station (h : t.station = s.station) : NoReturn s t := .of_same (by rw [h]) (by rw [h])

theorem NoReturn.refl (s : State) : NoReturn s s := .of_station rfl

theorem NoReturn.of_frame (h : ChangesOnly ps s t) (station : Part.station ∉ ps := by decide) : NoReturn s t :=
  .of_station (h.station station)

theorem NoReturn.away (h : NoReturn s t) (away : Away k s) : Away k t := by
  obtain ⟨state, listen⟩ | away0 := h
  · exact ⟨by rw [state]; exact away.1, fun joining => listen.trans (away.2 (state.symm.trans joining))⟩
  · exact away0.mono (Nat.zero_le k)

theorem NoReturn.active (h : NoReturn s t) (active : s.station.state = .active) :
    t.station.state = .active ∨ Away 0 t := h.imp_left fun same => same.1.trans active

theorem NoReturn.trans (h : NoReturn s t) (h' : NoReturn t u) : NoReturn s u := by
  obtain ⟨state, listen⟩ | away := h
  · exact h'.imp_left fun same => ⟨same.1.trans state, same.2.trans listen⟩
  · exact .inr (h'.away away)

theorem NoReturn.ite {c : Prop} [Decidable c] (h : NoReturn s t) (h' : NoReturn s u) :
    NoReturn s (if c then t else u) := by split <;> assumption

/-! ### The changes of station state -/

theorem enterState_noReturn {new : StationState} (other : new ≠ .active) (s : State) : NoReturn s (enterState new s) := by
  by_cases same : s.station.state = new
  · rw [enterState_same same]
    exact .refl s
  · refine .inr ⟨by rw [enterState_state]; exact other, fun joining => ?_⟩
    rw [enterState_state] at joining
    rw [enterState_station same, Station.entered, if_pos joining]

theorem roundFailed_noReturn (origin : RecvOrigin) (s : State) : NoReturn s (roundFailed origin s) := by
  cases origin with
  | joining => exact enterState_noReturn (by decide) s
  | discord => exact .refl s
  | missedEntry => exact .refl s

theorem failAttempt_noReturn (cause : AttemptCause) (s : State) : NoReturn s (failAttempt cause s) := by
  unfold failAttempt
  split
  · exact .refl s
  · dsimp only
    split
    · exact (NoReturn.of_frame (withAttempt_frame _ _ s)).trans (.of_frame (offerRequest_frame _))
    · exact ((NoReturn.of_frame (withReceiving_frame none s)).trans (.of_frame (raise_frame _ _))).trans
        (roundFailed_noReturn _ _)

theorem receiveWork_noReturn (s : State) : NoReturn s (receiveWork s) := by
  unfold receiveWork
  split
  · exact .refl s
  · have counted (c : RecvCtx) := NoReturn.of_frame (withReceiving_frame (some c) s)
    exact .ite (.ite ((counted _).trans (failAttempt_noReturn _ _))
      (.ite ((counted _).trans (.of_frame (offerRequest_frame _))) (counted _))) (.refl s)

/-! ### The Station Controller -/

theorem afterAdoption_noReturn (s : State) : NoReturn s (afterAdoption s) := by
  unfold afterAdoption
  split
  · exact enterState_noReturn (by decide) s
  next joining => exact .inl ⟨rfl, Nat.zero_le _⟩
  · exact .refl s

theorem takeReport_noReturn (rep : LabelReport) (s : State) : NoReturn s (takeReport rep s) := by
  cases rep with
  | adopted jump =>
    have cleared (v : State) : NoReturn v (clearAdoption v) := .of_same rfl rfl
    exact ((NoReturn.of_frame (jumpSlots_frame jump s)).trans (cleared _)).trans (afterAdoption_noReturn _)
  | blocked => exact .of_same rfl rfl
  | plain => exact .refl s
  | set jump => exact .refl s

theorem advanceAdoption_listen (s : State) : (advanceAdoption s).station.listen = s.station.listen := by
  unfold advanceAdoption
  split
  · unfold requestIfDue
    split <;> rfl
  · rfl

theorem armAdoption_listen (s : State) : (armAdoption s).station.listen = s.station.listen := by
  unfold armAdoption
  split
  · split <;> rfl
  · rfl

theorem evaluatePlan_noReturn (s : State) : NoReturn s (evaluatePlan s) :=
  .ite ((NoReturn.of_frame (raise_frame _ s)).trans (enterState_noReturn (by decide) _)) (.refl s)

theorem evaluateLabel_noReturn (s : State) : NoReturn s (evaluateLabel s) := by
  have armed (v : State) : NoReturn v (armAdoption v) := .of_same (armAdoption_state v) (armAdoption_listen v)
  refine .ite (.ite ?_ (.ite (armed s) (.refl s))) (.ite (enterState_noReturn (by decide) s) (.refl s))
  exact ((NoReturn.of_frame (raise_frame _ s)).trans (enterState_noReturn (by decide) _)).trans (armed _)

theorem evaluateDiscord_listen (s : State) : (evaluateDiscord s).station.listen = s.station.listen := by
  unfold evaluateDiscord
  dsimp only
  generalize (if evaluationLost (discordSides s).1 (discordSides s).2 = true then EvalResult.lost else .won) = r
  split
  · split <;> rfl
  · rfl

/-- One beacon time of listening does not end it for a station that has listened for one at most. -/
theorem advanceListening_away (away : Away 1 s) : Away 2 (advanceListening s) := by
  unfold advanceListening
  split
  next joining =>
    have heard := away.2 joining
    rw [endListeningIfDue, if_neg (by simp; omega)]
    exact ⟨away.1, fun _ => Nat.succ_le_succ heard⟩
  next => exact away.mono (by decide)

theorem advanceListening_active (active : s.station.state = .active) : advanceListening s = s :=
  if_neg (by simp [active])

/-- The work of a beacon time before listening. -/
theorem evaluations_noReturn (s : State) :
    NoReturn s (evaluateDiscord (evaluateLabel (evaluatePlan (advanceSilences s)))) :=
  (((NoReturn.of_frame (advanceSilences_frame s)).trans (evaluatePlan_noReturn _)).trans (evaluateLabel_noReturn _)).trans
    (.of_same (evaluateDiscord_state _) (evaluateDiscord_listen _))

theorem offerBeacon_noReturn (s : State) : NoReturn s (offerBeacon s) := .ite (.of_frame (offer_frame _ s)) (.refl s)

theorem beforeBeacon_noReturn (rep : LabelReport) (s : State) :
    NoReturn s (advanceAdoption (takeReport rep { s with roster := s.roster.map Slot.older })) :=
  ((NoReturn.of_frame (aged_frame s)).trans (takeReport_noReturn rep _)).trans
    (.of_same (advanceAdoption_state _) (advanceAdoption_listen _))

theorem beaconWork_away (away : Away 1 s) : Away 2 (beaconWork s) :=
  (offerBeacon_noReturn _).away (advanceListening_away ((evaluations_noReturn s).away away))

theorem beaconWork_active (active : s.station.state = .active) :
    (beaconWork s).station.state = .active ∨ Away 2 (beaconWork s) := by
  unfold beaconWork
  obtain still | away := (evaluations_noReturn s).active active
  · rw [advanceListening_active still]
    exact ((offerBeacon_noReturn _).active still).imp_right (·.mono (by decide))
  · exact .inr ((offerBeacon_noReturn _).away (advanceListening_away (away.mono (by decide))))

theorem stationWork_away (rep : LabelReport) (away : Away 1 s) : Away 2 (stationWork rep s) := by
  have ahead := (beforeBeacon_noReturn rep s).away away
  unfold stationWork
  split
  · exact away.mono (by decide)
  · dsimp only
    split
    · exact beaconWork_away ahead
    · exact ahead.mono (by decide)

theorem stationWork_active (rep : LabelReport) (active : s.station.state = .active) :
    (stationWork rep s).station.state = .active ∨ Away 2 (stationWork rep s) := by
  unfold stationWork
  rw [if_neg (by simp [active])]
  dsimp only
  obtain still | away := (beforeBeacon_noReturn rep s).active active
  · split
    · exact beaconWork_active still
    · exact .inl still
  · split
    · exact .inr (beaconWork_away (away.mono (by decide)))
    · exact .inr (away.mono (by decide))

/-! ### The stages -/

theorem runStage_noReturn {st : Stage} (other : st ≠ .station) (rep : LabelReport) (s : State) :
    NoReturn s (runStage rep st s) := by
  cases st with
  | station => exact absurd rfl other
  | apply => exact .of_frame (applyPass_frame s)
  | expiry => exact .of_frame (expireWindows_frame s)
  | retest => exact .of_frame (retestQuorum_frame s)
  | ratifyOffers => exact .of_frame (reofferRatify_frame s)
  | proposeOffers => exact .of_frame (reofferPropose_frame s)
  | recitalSend => exact .of_frame (reofferRecital_frame s)
  | recitalReceive => exact receiveWork_noReturn s

/-- The beacon times for which a JOINING station may have listened that has still to make the stages of a list. -/
def listenedBefore (l : List Stage) : Nat := if Stage.station ∈ l then 1 else 2

theorem listenedBefore_le (l : List Stage) : listenedBefore l ≤ 2 := by unfold listenedBefore; split <;> decide

variable {st : Stage} {l : List Stage}

/-- A stage that is not repeated keeps the station away, or takes it away, from ACTIVE. -/
theorem runStage_away (once : st ∉ l) (rep : LabelReport) (away : Away (listenedBefore (st :: l)) s) :
    Away (listenedBefore l) (runStage rep st s) := by
  by_cases controller : st = .station
  · subst controller
    rw [listenedBefore, if_neg once]
    exact stationWork_away rep (by simpa [listenedBefore] using away)
  · have same : listenedBefore (st :: l) = listenedBefore l := by simp [listenedBefore, Ne.symm controller]
    exact (runStage_noReturn controller rep s).away (same ▸ away)

theorem runStage_active (once : st ∉ l) (rep : LabelReport) (active : s.station.state = .active) :
    (runStage rep st s).station.state = .active ∨ Away (listenedBefore l) (runStage rep st s) := by
  by_cases controller : st = .station
  · subst controller
    rw [listenedBefore, if_neg once]
    exact stationWork_active rep active
  · exact ((runStage_noReturn controller rep s).active active).imp_right (·.mono (Nat.zero_le _))

theorem stagesFrom_away (rep : LabelReport) (nodup : l.Nodup) (away : Away (listenedBefore l) s) :
    (stagesFrom rep l s).station.state ≠ .active := by
  induction l generalizing s with
  | nil => exact away.1
  | cons st l ih =>
    obtain ⟨once, nodup⟩ := List.nodup_cons.1 nodup
    exact ih nodup (runStage_away once rep away)

/-- A station that is ACTIVE after a stage and the stages that follow it is ACTIVE after the stage. -/
theorem active_of_stagesFrom {rep : LabelReport} (nodup : (st :: l).Nodup) (active : s.station.state = .active)
    (stays : (stagesFrom rep (st :: l) s).station.state = .active) : (runStage rep st s).station.state = .active := by
  obtain ⟨once, nodup⟩ := List.nodup_cons.1 nodup
  exact (runStage_active once rep active).resolve_right fun away => stagesFrom_away rep nodup away stays

/-- What every stage does that an ACTIVE station makes and remains ACTIVE in, its stages do together. -/
theorem stagesFrom_active {rep : LabelReport} {R : State → State → Prop} (refl : ∀ s, R s s)
    (trans : ∀ {s t u}, R s t → R t u → R s u)
    (stage : ∀ st ∈ l, ∀ s, s.station.state = .active → (runStage rep st s).station.state = .active →
      R s (runStage rep st s))
    (nodup : l.Nodup) (active : s.station.state = .active) (stays : (stagesFrom rep l s).station.state = .active) :
    R s (stagesFrom rep l s) := by
  induction l generalizing s with
  | nil => exact refl s
  | cons st l ih =>
    have still := active_of_stagesFrom nodup active stays
    exact trans (stage st (by simp) s active still)
      (ih (fun x hx => stage x (List.mem_cons_of_mem _ hx)) (List.nodup_cons.1 nodup).2 still stays)

/-- It is ACTIVE after every first part of the stages, too. -/
theorem active_of_append {rep : LabelReport} {rest : List Stage} (nodup : (l ++ rest).Nodup)
    (active : s.station.state = .active) (stays : (stagesFrom rep (l ++ rest) s).station.state = .active) :
    (stagesFrom rep l s).station.state = .active := by
  induction l generalizing s with
  | nil => exact active
  | cons st l ih => exact ih (List.nodup_cons.1 nodup).2 (active_of_stagesFrom nodup active stays) stays

end

end Sys2Proof.Machine
end

section
/-! SUPPORT. What an ACTIVE station's work at a boundary keeps: the notices, the frames, and of every entry that stands all
but its state, its window and its mark; a mark that changes is that of an announcement now offered (R81, R84, R96). -/

namespace Sys2Proof.Machine

set_option Elab.async false

section
variable {s t u : State} {ps : List Part} {x y e : Entry} {key : Ident} {f : Frame}

/-! ### The relation -/

/-- No two entries are held under one identifier (R25). -/
def Distinct (s : State) : Prop := (s.table.entries.map fun e => e.id).Nodup

/-- The mark of an entry tells of an announcement that is in the queue, or found no room and raised TXQ_FULL. -/
def Announced (t : State) (y : Entry) : Prop :=
  match y.mark with
  | .none => False
  | .proposeQueued => proposeFrame y.toRecord ∈ t.line.queue
  | .ratifyQueued => ratifyFrame y.id y.endorsers ∈ t.line.queue
  | .proposeDue => noticed t .txqFull
  | .ratifyDue => noticed t .txqFull

/-- An entry `y` of `t` as work at a boundary leaves an entry `x`. -/
structure Carried (t : State) (x y : Entry) : Prop where
  record : y.toRecord = x.toRecord
  endorsers : y.endorsers = x.endorsers
  proposed : y.state = .proposed ↔ x.state = .proposed
  mark : y.mark = x.mark ∨ Announced t y

/-- From `s` to `t` an ACTIVE station does work of a boundary. -/
structure Progress (s t : State) : Prop where
  active : t.station.state = .active
  distinct : Distinct t
  noticed : ∀ k, noticed s k → noticed t k
  entries : ∀ y ∈ t.table.entries, ∃ x ∈ s.table.entries, Carried t x y
  frames : ∀ f ∈ s.line.queue, f ∈ t.line.queue ∨ ∃ id, namesEntry f id = true ∧ t.find id = none

/-- Work of a boundary, made from an ACTIVE station with a table. -/
def Progresses (s t : State) : Prop := s.station.state = .active → Distinct s → Progress s t

theorem find_none_iff : s.find key = none ↔ ∀ e ∈ s.table.entries, e.id ≠ key := lookup_none_iff

theorem Carried.refl (t : State) (x : Entry) : Carried t x x := ⟨rfl, rfl, .rfl, .inl rfl⟩

theorem Carried.id (h : Carried t x y) : y.id = x.id := congrArg Record.id h.record

theorem Carried.settled (h : Carried t x y) (settled : y.settled = true) : x.settled = true := by
  simp only [Entry.settled, bne_iff_ne, ne_eq] at settled ⊢
  exact mt h.proposed.2 settled

theorem Distinct.eq (h : Distinct s) (held : s.find key = some e) (hx : x ∈ s.table.entries) (own : x.id = key) :
    x = e := Option.some.inj ((find_of_mem h hx).symm.trans (own ▸ held))

/-! ### Steps one after the other -/

/-- What is not held is not held later. -/
theorem Progress.gone (h : Progress s t) (unheld : s.find key = none) : t.find key = none :=
  find_none_iff.2 fun y hy own => by
    obtain ⟨x, hx, carried⟩ := h.entries y hy
    exact find_none_iff.1 unheld x hx (carried.id.symm.trans own)

/-- A frame that no freed entry takes out of the queue stays. -/
theorem Progress.frame (h : Progress s t) (hf : f ∈ s.line.queue)
    (free : f.kind ≠ .endorse ∧ f.kind ≠ .object ∧ f.kind ≠ .ratify) : f ∈ t.line.queue := by
  refine (h.frames f hf).resolve_right fun ⟨_, names, _⟩ => ?_
  obtain ⟨endorse, object, ratify⟩ := free
  obtain ⟨-, k | k | k⟩ := namesEntry_iff.1 names
  · exact endorse k
  · exact object k
  · exact ratify k

/-- The RATIFY of an entry that is still held stays. -/
theorem Progress.ratifyFrame (h : Progress s t) {set : StationSet} (hf : ratifyFrame key set ∈ s.line.queue)
    (hy : y ∈ t.table.entries) (own : y.id = key) : Machine.ratifyFrame key set ∈ t.line.queue := by
  refine (h.frames _ hf).resolve_right fun ⟨x, names, gone⟩ => find_none_iff.1 gone y hy ?_
  obtain ⟨ident, -⟩ := namesEntry_iff.1 names
  exact own.trans (Option.some.inj ident)

/-- An announcement that was offered stays so. -/
theorem Announced.onward (h : Announced s x) (p : Progress s t) (hy : y ∈ t.table.entries) (carried : Carried t x y) :
    Announced t y := by
  obtain same | now := carried.mark
  · unfold Announced at h ⊢
    rw [same, carried.record, carried.endorsers]
    cases mark : x.mark with
    | none => rw [mark] at h; exact h
    | proposeQueued =>
      rw [mark] at h
      have kind : (proposeFrame x.toRecord).kind = .propose := rfl
      exact p.frame h (by rw [kind]; decide)
    | ratifyQueued => rw [mark] at h; exact p.ratifyFrame h hy carried.id
    | proposeDue => rw [mark] at h; exact p.noticed _ h
    | ratifyDue => rw [mark] at h; exact p.noticed _ h
  · exact now

theorem Progress.trans (h : Progress s t) (h' : Progress t u) : Progress s u where
  active := h'.active
  distinct := h'.distinct
  noticed k n := h'.noticed k (h.noticed k n)
  entries z hz := by
    obtain ⟨y, hy, later⟩ := h'.entries z hz
    obtain ⟨x, hx, first⟩ := h.entries y hy
    refine ⟨x, hx, later.record.trans first.record, later.endorsers.trans first.endorsers,
      later.proposed.trans first.proposed, ?_⟩
    obtain same | now := first.mark
    · exact later.mark.imp_left (·.trans same)
    · exact .inr (now.onward h' hz later)
  frames f hf := by
    obtain kept | ⟨key, names, gone⟩ := h.frames f hf
    · exact h'.frames f kept
    · exact .inr ⟨key, names, h'.gone gone⟩

theorem Progress.refl (active : s.station.state = .active) (distinct : Distinct s) : Progress s s :=
  ⟨active, distinct, fun _ => id, fun x hx => ⟨x, hx, .refl s x⟩, fun _ => .inl⟩

theorem Progresses.refl (s : State) : Progresses s s := Progress.refl

theorem Progresses.trans (h : Progresses s t) (h' : Progresses t u) : Progresses s u := fun active distinct =>
  have first := h active distinct
  first.trans (h' first.active first.distinct)

theorem Progresses.ite {c : Prop} [Decidable c] (h : Progresses s t) (h' : Progresses s u) :
    Progresses s (if c then t else u) := by split <;> assumption

theorem Progress.foldl {α : Type} {g : State → α → State} {l : List α} (start : Progress s s)
    (h : ∀ t, Progress s t → ∀ a ∈ l, Progresses t (g t a)) : Progress s (l.foldl g s) :=
  List.foldlRecOn l g start fun t ht a ha => ht.trans (h t ht a ha ht.active ht.distinct)

theorem Progresses.foldl {α : Type} {g : State → α → State} (h : ∀ t a, Progresses t (g t a)) (l : List α) (s : State) :
    Progresses s (l.foldl g s) := fun active distinct =>
  .foldl (.refl active distinct) fun t _ a _ => h t a

/-- The step of a fold at one item of its list. -/
theorem Progress.foldl_at {α : Type} {g : State → α → State} {l : List α} (start : Progress s s)
    (h : ∀ t, Progress s t → ∀ a ∈ l, Progresses t (g t a)) {a : α} (ha : a ∈ l) :
    ∃ t, Progress s t ∧ Progress t (g t a) ∧ Progress (g t a) (l.foldl g s) := by
  obtain ⟨l₁, l₂, rfl⟩ := List.append_of_mem ha
  have before : Progress s (l₁.foldl g s) := .foldl start fun t ht b hb => h t ht b (by simp [hb])
  have step := h _ before a ha before.active before.distinct
  refine ⟨_, before, step, ?_⟩
  rw [List.foldl_append, List.foldl_cons]
  exact .foldl (.refl step.active step.distinct) fun t ht b hb => h t ((before.trans step).trans ht) b (by simp [hb])

/-! ### Steps that leave the table -/

theorem Progresses.of_parts (state : t.station.state = s.station.state) (table : t.table = s.table)
    (queue : ∀ f ∈ s.line.queue, f ∈ t.line.queue) (remains : Remains s t) : Progresses s t := fun active distinct => by
  refine ⟨state.trans active, ?_, remains.noticed, ?_, fun f hf => .inl (queue f hf)⟩
  · rw [Distinct, table]; exact distinct
  · rw [table]; exact fun x hx => ⟨x, hx, .refl t x⟩

theorem Progresses.of_frame (h : ChangesOnly ps s t) (remains : Remains s t) (station : Part.station ∉ ps := by decide)
    (table : Part.table ∉ ps := by decide) (line : Part.line ∉ ps := by decide) : Progresses s t :=
  .of_parts (by rw [h.station station]) (h.table table) (fun f hf => by rw [h.line line]; exact hf) remains

theorem offer_keeps_queue (g : Frame) (hf : f ∈ s.line.queue) : f ∈ (offer g s).line.queue := by
  obtain ⟨-, eq⟩ | ⟨-, eq⟩ | ⟨-, eq⟩ := offer_cases g s <;> rw [eq]
  · exact mem_insertFrame.2 (.inr hf)
  · exact hf
  · exact hf

theorem offer_progresses (g : Frame) (s : State) : Progresses s (offer g s) :=
  .of_parts (by rw [(offer_frame g s).station]) (offer_table g s) (fun _ => offer_keeps_queue g) (offer_remains g s)

theorem raise_progresses (n : Notice) (s : State) : Progresses s (raise n s) :=
  .of_frame (raise_frame n s) (raise_remains n s)

/-! ### Entries that leave the table -/

theorem Progresses.of_erase (state : t.station.state = s.station.state)
    (entries : t.table.entries = eraseEntry key s.table.entries)
    (queue : ∀ f ∈ s.line.queue, f ∈ t.line.queue ∨ namesEntry f key = true) (remains : Remains s t) :
    Progresses s t := fun active distinct => by
  refine ⟨state.trans active, ?_, remains.noticed, fun x hx => ?_, fun f hf => (queue f hf).imp_right fun names => ?_⟩
  · rw [Distinct, entries]
    exact distinct.sublist (List.filter_sublist.map _)
  · rw [entries] at hx
    exact ⟨x, List.mem_of_mem_filter hx, .refl t x⟩
  · refine ⟨key, names, find_none_iff.2 fun x hx => ?_⟩
    rw [entries] at hx
    simpa using List.of_mem_filter hx

theorem freeEntry_progresses (id : Ident) (n : Notice) (s : State) : Progresses s (freeEntry id n s) :=
  .of_erase (key := id) rfl rfl
    (fun f hf => (Decidable.em (namesEntry f id = true)).symm.imp_left (purgeNaming_other hf)) (freeEntry_remains id n s)

theorem freeExecuted_progresses (id : Ident) (set : StationSet) (s : State) : Progresses s (freeExecuted id set s) :=
  .of_erase (key := id) rfl rfl (fun _ => .inl) (freeExecuted_remains id set s)

/-! ### Entries that change -/

theorem Progresses.of_map {g : Entry → Entry} (state : t.station.state = s.station.state)
    (entries : t.table.entries = s.table.entries.map g) (ids : ∀ x, (g x).id = x.id)
    (carried : s.station.state = .active → Distinct s → ∀ x ∈ s.table.entries, Carried t x (g x))
    (queue : ∀ f ∈ s.line.queue, f ∈ t.line.queue) (remains : Remains s t) : Progresses s t := fun active distinct => by
  refine ⟨state.trans active, ?_, remains.noticed, fun y hy => ?_, fun f hf => .inl (queue f hf)⟩
  · rw [Distinct, entries, List.map_map]
    have same : (fun x => x.id) ∘ g = fun x : Entry => x.id := funext ids
    rw [same]
    exact distinct
  · rw [entries] at hy
    obtain ⟨x, hx, rfl⟩ := List.mem_map.1 hy
    exact ⟨x, hx, carried active distinct x hx⟩

theorem moveWindow_id (j : Int) (x : Entry) : (x.moveWindow j).id = x.id := by
  unfold Entry.moveWindow
  split <;> rfl

theorem moveWindows_progresses (j : Int) (s : State) : Progresses s (moveWindows j s) := by
  refine .ite (.of_map (g := Entry.moveWindow j) rfl rfl (moveWindow_id j) (fun _ _ x _ => ?_) (fun _ => id)
    (.of_frame (setEntries_frame _ s))) (.refl s)
  unfold Entry.moveWindow
  split
  next proposed => exact ⟨rfl, rfl, .rfl, .inl rfl⟩
  next => exact .refl _ x

/-- An entry that is settled may change its state among the settled ones. -/
theorem applying_progresses (held : s.find key = some e) (settled : e.state ≠ .proposed) :
    Progresses s (s.modify key fun x => { x with state := .applying }) := by
  refine .of_map (g := fun x => if x.id = key then { x with state := .applying } else x) rfl rfl (fun x => ?_)
    (fun _ distinct x hx => ?_) (fun _ => id) (.of_frame (modify_frame _ _ s))
  · split <;> rfl
  · split
    next own =>
      obtain rfl := distinct.eq held hx own
      exact ⟨rfl, rfl, by simp [settled], .inl rfl⟩
    next => exact .refl _ x

end

end Sys2Proof.Machine
end

section
/-! SUPPORT. The stages of a boundary are work that an ACTIVE station progresses by (R84, R90, R96, R97, R108, R126, R130,
R142). -/

namespace Sys2Proof.Machine

set_option Elab.async false

section
variable {s t : State} {x y e : Entry} {key : Ident}

/-! ### Announcements -/

/-- In ACTIVE an offer is queued or raises TXQ_FULL. -/
theorem offer_active (active : s.station.state = .active) (f : Frame) :
    if s.wouldQueue f then f ∈ (offer f s).line.queue else noticed (offer f s) .txqFull := by
  split
  next room =>
    rw [offer, if_pos room]
    exact mem_insertFrame.2 (.inl rfl)
  next full =>
    have permitted : kindPermitted s.station.state f.kind = true := by rw [active]; rfl
    rw [offer, if_neg full, if_pos permitted]
    exact raise_noticed (.txqFull f.kind f.cls f.ident) s

/-- The mark that follows an offer tells of it. -/
theorem setMark_progresses {f : Frame} {m : Mark} (held : s.find key = some e)
    (announced : s.station.state = .active → Announced ((offer f s).setMark key m) { e with mark := m }) :
    Progresses s ((offer f s).setMark key m) := by
  have entries : ((offer f s).setMark key m).table.entries =
      s.table.entries.map fun x => if x.id = key then { x with mark := m } else x :=
    congrArg (updateEntry key _) (congrArg Table.entries (offer_table f s))
  refine .of_map (by exact congrArg Station.state (offer_frame f s).station) entries (fun x => ?_)
    (fun active distinct x hx => ?_) (fun g hg => offer_keeps_queue f hg)
    ((offer_remains f s).trans (.of_frame (setMark_frame _ _ _)))
  · split <;> rfl
  · split
    next own =>
      obtain rfl := distinct.eq held hx own
      exact ⟨rfl, rfl, .rfl, .inr (announced active)⟩
    next => exact .refl _ x

theorem offerPropose_announced (active : s.station.state = .active) (e : Entry) :
    Announced (offerPropose e.toRecord s)
      { e with mark := if s.wouldQueue (proposeFrame e.toRecord) then .proposeQueued else .proposeDue } := by
  have offered := offer_active active (proposeFrame e.toRecord)
  by_cases room : s.wouldQueue (proposeFrame e.toRecord) = true
  · rw [if_pos room] at offered ⊢
    exact offered
  · rw [if_neg room] at offered ⊢
    exact offered

theorem offerRatify_announced (active : s.station.state = .active) (e : Entry) (own : e.id = key) :
    Announced (offerRatify key e.endorsers s)
      { e with mark := if s.wouldQueue (ratifyFrame key e.endorsers) then .ratifyQueued else .ratifyDue } := by
  have offered := offer_active active (ratifyFrame key e.endorsers)
  subst own
  by_cases room : s.wouldQueue (ratifyFrame e.id e.endorsers) = true
  · rw [if_pos room] at offered ⊢
    exact offered
  · rw [if_neg room] at offered ⊢
    exact offered

theorem offerPropose_progresses (held : s.find key = some e) : Progresses s (offerPropose e.toRecord s) := by
  obtain rfl := find_id held
  exact setMark_progresses held fun active => offerPropose_announced active e

theorem offerRatify_progresses (held : s.find key = some e) : Progresses s (offerRatify key e.endorsers s) :=
  setMark_progresses held fun active => offerRatify_announced active e (find_id held)

theorem find_setMark_offer {f : Frame} {m : Mark} (held : s.find key = some e) :
    ((offer f s).setMark key m).find key = some { e with mark := m } := by
  rw [find_setMark, if_pos rfl, find_offer, held]
  rfl

/-- After its announcement the entry, the only one under its identifier, is announced. -/
theorem offerPropose_mem (active : s.station.state = .active) (held : s.find key = some e)
    (after : Distinct (offerPropose e.toRecord s)) (hy : y ∈ (offerPropose e.toRecord s).table.entries)
    (own : y.id = key) : Announced (offerPropose e.toRecord s) y := by
  obtain rfl := find_id held
  obtain rfl := after.eq (find_setMark_offer held) hy own
  exact offerPropose_announced active e

theorem offerRatify_mem (active : s.station.state = .active) (held : s.find key = some e)
    (after : Distinct (offerRatify key e.endorsers s)) (hy : y ∈ (offerRatify key e.endorsers s).table.entries)
    (own : y.id = key) : Announced (offerRatify key e.endorsers s) y := by
  obtain rfl := after.eq (find_setMark_offer held) hy own
  exact offerRatify_announced active e (find_id held)

/-! ### Ratifications without a turn -/

theorem withdrawTarget_progresses (a b : Ident) (s : State) : Progresses s (withdrawTarget a b s) := by
  unfold withdrawTarget
  split
  · exact .refl s
  · exact .ite (raise_progresses _ s) (freeEntry_progresses _ _ s)

theorem ratifyClaim_withdraw_eq (withdraw : e.kind = .withdraw) (set : StationSet) :
    ratifyClaim e set s = freeExecuted e.id set (withdrawTarget (e.target.getD default) e.id s) := by
  unfold ratifyClaim
  rw [withdraw]

theorem ratifyClaim_progresses (unscheduled : e.kind.scheduled = false) (set : StationSet) (s : State) :
    Progresses s (ratifyClaim e set s) := by
  obtain custody | withdraw := unscheduled_cases unscheduled
  · rw [ratifyClaim_custody custody]
    exact (Progresses.of_frame (setScale_frame _ _ s) (.of_frame (setScale_frame _ _ s))).trans
      (freeExecuted_progresses _ _ _)
  · rw [ratifyClaim_withdraw_eq withdraw]
    exact (withdrawTarget_progresses _ _ s).trans (freeExecuted_progresses _ _ _)

theorem ratifyClaim_gone (unscheduled : e.kind.scheduled = false) (set : StationSet) (s : State) :
    (ratifyClaim e set s).find e.id = none := by
  obtain custody | withdraw := unscheduled_cases unscheduled
  · rw [find_claim_custody set custody, if_pos rfl]
  · rw [ratifyClaim_withdraw_eq withdraw, find_freeExecuted, if_pos rfl]

/-- The ratification of an own entry without a turn, in ACTIVE (R90). -/
theorem ratifyOwn_unscheduled_eq (held : s.find key = some e) (unscheduled : e.kind.scheduled = false)
    (active : s.station.state = .active) :
    ratifyOwn key s =
      ratifyClaim e e.endorsers (if s.plan.n ≤ 1 then s else offer (ratifyFrame key e.endorsers) s) := by
  unfold ratifyOwn
  rw [held]
  dsimp only
  rw [if_neg (by simp [unscheduled]), if_pos active]

theorem ratifyOwn_unheld (unheld : s.find key = none) : ratifyOwn key s = s := by
  unfold ratifyOwn
  rw [unheld]

section
variable (unscheduled : ∀ e, s.find key = some e → e.kind.scheduled = false) (active : s.station.state = .active)
include unscheduled active

theorem ratifyOwn_progresses : Progresses s (ratifyOwn key s) := by
  cases held : s.find key with
  | none => rw [ratifyOwn_unheld held]; exact .refl s
  | some e =>
    rw [ratifyOwn_unscheduled_eq held (unscheduled e held) active]
    exact (Progresses.ite (.refl s) (offer_progresses _ s)).trans (ratifyClaim_progresses (unscheduled e held) _ _)

theorem ratifyOwn_gone : (ratifyOwn key s).find key = none := by
  cases held : s.find key with
  | none => rw [ratifyOwn_unheld held]; exact held
  | some e =>
    obtain rfl := find_id held
    rw [ratifyOwn_unscheduled_eq held (unscheduled e held) active]
    exact ratifyClaim_gone (unscheduled e held) _ _

end

/-! ### The pass -/

theorem lapseOvertaken_progresses (key : Ident) (s : State) : Progresses s (lapseOvertaken key s) :=
  .foldl (fun t w => freeEntry_progresses w _ t) _ s

theorem handChange_progresses (c : ScaleChange) (k : Nat) (v : Int) (key : Ident) (s : State) :
    Progresses s (handChange c k v key s) :=
  .of_frame (handChange_frame c k v key s) (.of_frame (handChange_frame c k v key s))

theorem completeEntry_progresses (c : ScaleChange) (e : Entry) (s : State) : Progresses s (completeEntry c e s) :=
  (handChange_progresses _ _ _ _ s).trans (freeEntry_progresses _ _ _)

theorem actWhenDue_progresses (e : Entry) (turn : Nat) (s : State) : Progresses s (actWhenDue e turn s) := by
  unfold actWhenDue
  split
  · exact .ite (handChange_progresses _ _ _ _ s) (.ite (completeEntry_progresses _ e s) (.refl s))
  · exact .ite (completeEntry_progresses _ e s) (.refl s)
  · exact .ite (completeEntry_progresses _ e s) (.refl s)
  · exact .refl s

theorem enterApplying_progresses (held : s.find key = some e) (settled : e.state ≠ .proposed) :
    Progresses s (enterApplying key s) :=
  (applying_progresses held settled).trans (lapseOvertaken_progresses _ _)

theorem applyEntry_progresses (key : Ident) (s : State) : Progresses s (applyEntry key s) := by
  unfold applyEntry
  split
  · exact .refl s
  next e held =>
    split
    · exact .refl s
    · split
      · exact .refl s
      next ratified =>
        exact .ite ((enterApplying_progresses held (by simp [ratified])).trans (actWhenDue_progresses _ _ _)) (.refl s)
      · exact actWhenDue_progresses _ _ s

theorem applyPass_progresses (s : State) : Progresses s (applyPass s) := by
  have cleared := Progresses.of_frame (clearChanges_frame s) (.of_frame (clearChanges_frame s))
  have formed (v : State) := Progresses.of_frame (formReport_frame v) (.of_frame (formReport_frame v))
  exact .ite (.refl s) ((cleared.trans (.foldl (fun t key => applyEntry_progresses key t) _ _)).trans (formed _))

theorem expireWindows_progresses (s : State) : Progresses s (expireWindows s) := by
  refine .foldl (fun t key => ?_) _ s
  unfold expireEntry
  split
  · exact .ite (freeEntry_progresses _ _ t) (.refl t)
  · exact .refl t

/-! ### The Recital Unit -/

theorem offerRequest_progresses (s : State) : Progresses s (offerRequest s) := by
  unfold offerRequest
  split
  · exact .refl s
  · exact (offer_progresses _ s).trans (.of_frame (withReceiving_frame _ _) (.of_frame (withReceiving_frame _ _)))

theorem askRecital_progresses (o : RecvOrigin) (k : Nat) (s : State) : Progresses s (askRecital o k s) := by
  unfold askRecital
  split
  · exact .refl s
  · exact (Progresses.of_frame (withAttempt_frame _ _ s) (.of_frame (withAttempt_frame _ _ s))).trans
      (offerRequest_progresses _)

theorem recitalOfferFailed_progresses (s : State) : Progresses s (recitalOfferFailed s) :=
  .of_frame (recitalOfferFailed_frame s) (.of_frame (recitalOfferFailed_frame s))

theorem reofferRecital_progresses (s : State) : Progresses s (reofferRecital s) := by
  unfold reofferRecital
  split
  · refine .ite ?_ (.refl s)
    unfold offerRecitalFrame
    split
    · exact .refl s
    · have offered (f : Frame) := offer_progresses f s
      have kept (c : Option SendCtx) (v : State) := Progresses.of_frame (withSending_frame c v)
        (.of_frame (withSending_frame c v))
      exact .ite ((offered _).trans (kept _ _)) ((offered _).trans (recitalOfferFailed_progresses _))
  · exact .refl s

/-- An attempt that fails and leaves the station ACTIVE asks another peer or ends the round; the round of a JOINING
station would take it out of ACTIVE (R120, R133). -/
theorem failAttempt_active_cases {cause : AttemptCause} (stays : (failAttempt cause s).station.state = .active) :
    failAttempt cause s = s ∨
      (∃ d k, failAttempt cause s = offerRequest { s with serial := k, receiving := d }) ∨
      ∃ n k, failAttempt cause s = raise n { s with serial := k, receiving := none } := by
  cases receiving : s.receiving with
  | none =>
    rw [failAttempt, receiving]
    exact .inl rfl
  | some c =>
    obtain ⟨d, -, eq⟩ | ⟨n, -, eq⟩ := failAttempt_cases receiving cause
    · exact .inr (.inl ⟨_, _, eq⟩)
    · cases origin : c.origin with
      | joining =>
        rw [eq, origin] at stays
        exact absurd ((enterState_state .joining _).symm.trans stays) (by decide)
      | discord => exact .inr (.inr ⟨n, s.serial, by rw [eq, origin]; rfl⟩)
      | missedEntry => exact .inr (.inr ⟨n, s.serial, by rw [eq, origin]; rfl⟩)

theorem failAttempt_progresses {cause : AttemptCause} (stays : (failAttempt cause s).station.state = .active) :
    Progresses s (failAttempt cause s) := by
  have withContext (d : Option RecvCtx) (k : Nat) := Progresses.of_frame (withAttempt_frame d k s)
    (.of_frame (withAttempt_frame d k s))
  obtain eq | ⟨d, k, eq⟩ | ⟨n, k, eq⟩ := failAttempt_active_cases stays <;> rw [eq]
  · exact .refl s
  · exact (withContext d k).trans (offerRequest_progresses _)
  · exact (withContext none k).trans (raise_progresses n _)

theorem failAttempt_sending {cause : AttemptCause} (stays : (failAttempt cause s).station.state = .active) :
    (failAttempt cause s).sending = s.sending := by
  obtain eq | ⟨d, k, eq⟩ | ⟨n, k, eq⟩ := failAttempt_active_cases stays <;> rw [eq]
  · exact (offerRequest_frame _).sending
  · rfl

theorem receiveWork_progresses (stays : (receiveWork s).station.state = .active) : Progresses s (receiveWork s) := by
  have counted (c : Option RecvCtx) := Progresses.of_frame (withReceiving_frame c s) (.of_frame (withReceiving_frame c s))
  revert stays
  unfold receiveWork
  split
  · exact fun _ => .refl s
  · split
    · split
      · exact fun stays => (counted _).trans (failAttempt_progresses stays)
      · exact fun _ => .ite ((counted _).trans (offerRequest_progresses _)) (counted _)
    · exact fun _ => .refl s

theorem receiveWork_sending (stays : (receiveWork s).station.state = .active) :
    (receiveWork s).sending = s.sending := by
  revert stays
  unfold receiveWork
  split
  · exact fun _ => rfl
  · split
    · split
      · exact fun stays => failAttempt_sending stays
      · intro _
        dsimp only
        split
        · exact (offerRequest_frame _).sending
        · rfl
    · exact fun _ => rfl

end

end Sys2Proof.Machine
end

section
/-! SUPPORT. The Station Controller's work of a station that is and stays ACTIVE (R108, R110, R113 to R117). -/

namespace Sys2Proof.Machine

set_option Elab.async false

section
variable {s : State}

/-! ### The report and the count -/

/-- The Station Controller's work before what a beacon time adds. -/
def counted (rep : LabelReport) (s : State) : State :=
  advanceAdoption (takeReport rep { s with roster := s.roster.map Slot.older })

theorem afterAdoption_active (active : s.station.state = .active) : afterAdoption s = s := by
  unfold afterAdoption
  rw [active]

theorem takeReport_active (rep : LabelReport) (active : s.station.state = .active) :
    (takeReport rep s).station.state = .active ∧ ChangesOnly [.station, .roster, .notices] s (takeReport rep s) := by
  cases rep with
  | adopted jump =>
    have jumped := jumpSlots_frame jump s
    have still : (clearAdoption (jumpSlots jump s)).station.state = .active := by
      rw [clearAdoption_state, jumped.station, active]
    rw [takeReport_adopted_eq, afterAdoption_active still]
    exact ⟨still, jumped.then (withStation_frame _ _)⟩
  | blocked => exact ⟨active, (withStation_frame _ s).mono (by decide)⟩
  | plain => exact ⟨active, .refl _ s⟩
  | set jump => exact ⟨active, .refl _ s⟩

section
variable (rep : LabelReport) (active : s.station.state = .active)
include active

theorem reported_active :
    (takeReport rep { s with roster := s.roster.map Slot.older }).station.state = .active ∧
      ChangesOnly [.station, .roster, .notices] { s with roster := s.roster.map Slot.older }
        (takeReport rep { s with roster := s.roster.map Slot.older }) := takeReport_active rep active

theorem counted_active : (counted rep s).station.state = .active := by
  unfold counted
  rw [advanceAdoption_state]
  exact (reported_active rep active).1

theorem counted_frame : ChangesOnly [.clock, .station, .roster, .notices] s (counted rep s) :=
  ((aged_frame s).then (rs := [.station, .roster, .notices]) (reported_active rep active).2).then
    (advanceAdoption_frame _)

theorem counted_progresses : Progresses s (counted rep s) := by
  have frame := counted_frame rep active
  refine .of_parts ((counted_active rep active).trans active.symm) frame.table (fun f hf => ?_) ?_
  · rw [frame.line]
    exact hf
  · exact ((Remains.of_frame (aged_frame s)).trans (takeReport_remains rep _)).trans (.of_frame (advanceAdoption_frame _))

end

/-! ### A beacon time -/

theorem evaluatePlan_stays (stays : (evaluatePlan s).station.state = .active) : evaluatePlan s = s := by
  revert stays
  unfold evaluatePlan
  dsimp only
  split
  · intro stays
    rw [enterState_state] at stays
    exact absurd stays (by decide)
  · exact fun _ => rfl

theorem evaluateLabel_stays (active : s.station.state = .active) (stays : (evaluateLabel s).station.state = .active) :
    evaluateLabel s = s := by
  revert stays
  unfold evaluateLabel
  dsimp only
  rw [active]
  split
  · intro stays
    rw [if_pos (by decide), armAdoption_state, enterState_state] at stays
    exact absurd stays (by decide)
  · exact fun _ => if_neg (by decide)

theorem offerBeacon_away (away : Away 0 s) : (offerBeacon (advanceListening s)).station.state ≠ .active :=
  ((offerBeacon_noReturn _).away (advanceListening_away (away.mono (by decide)))).1

/-- The beacon time of a station that is and stays ACTIVE: neither evaluation was lost. -/
theorem beaconWork_stays (active : s.station.state = .active) (stays : (beaconWork s).station.state = .active) :
    beaconWork s = offerBeacon (evaluateDiscord (advanceSilences s)) := by
  unfold beaconWork at stays ⊢
  have discord (v : State) : NoReturn v (evaluateDiscord v) := .of_same (evaluateDiscord_state v) (evaluateDiscord_listen v)
  have start : (advanceSilences s).station.state = .active := by rw [(advanceSilences_frame s).station, active]
  have planned : (evaluatePlan (advanceSilences s)).station.state = .active :=
    ((evaluatePlan_noReturn _).active start).resolve_right fun away =>
      offerBeacon_away ((discord _).away ((evaluateLabel_noReturn _).away away)) stays
  have labelled : (evaluateLabel (evaluatePlan (advanceSilences s))).station.state = .active :=
    ((evaluateLabel_noReturn _).active planned).resolve_right fun away => offerBeacon_away ((discord _).away away) stays
  rw [evaluateLabel_stays planned labelled, evaluatePlan_stays planned,
    advanceListening_active ((evaluateDiscord_state _).trans start)]

theorem stationWork_stays {rep : LabelReport} (active : s.station.state = .active)
    (stays : (stationWork rep s).station.state = .active) :
    stationWork rep s = counted rep s ∨
      stationWork rep s = offerBeacon (evaluateDiscord (advanceSilences (counted rep s))) := by
  have eq : stationWork rep s = if (counted rep s).beaconTime then beaconWork (counted rep s) else counted rep s := by
    unfold stationWork
    rw [if_neg (by simp [active])]
    rfl
  by_cases beacon : (counted rep s).beaconTime = true
  · rw [if_pos beacon] at eq
    rw [eq] at stays ⊢
    exact .inr (beaconWork_stays (counted_active rep active) stays)
  · rw [if_neg beacon] at eq
    exact .inl eq

theorem withStation_progresses {x : Station} (same : x.state = s.station.state) :
    Progresses s { s with station := x } :=
  .of_parts same rfl (fun _ => id) (.of_frame (withStation_frame x s))

theorem evaluateDiscord_progresses (s : State) : Progresses s (evaluateDiscord s) := by
  unfold evaluateDiscord
  dsimp only
  generalize (if evaluationLost (discordSides s).1 (discordSides s).2 = true then EvalResult.lost else .won) = r
  have appended : Progresses s { s with station := { s.station with history := appendResult s.station.history r } } :=
    withStation_progresses rfl
  split
  · split
    next p _ _ =>
      refine (appended.trans (askRecital_progresses .discord p _)).trans (withStation_progresses ?_)
      rw [(askRecital_frame .discord p _).station]
    next => exact appended
  · exact appended

theorem askRecital_keeps {c : RecvCtx} (held : s.receiving = some c) (origin : RecvOrigin) (k : Nat) :
    (askRecital origin k s).receiving = some c := by
  rw [askRecital_held held]
  exact held

theorem evaluateDiscord_receiving {c : RecvCtx} (held : s.receiving = some c) :
    (evaluateDiscord s).receiving = some c := by
  unfold evaluateDiscord
  dsimp only
  generalize (if evaluationLost (discordSides s).1 (discordSides s).2 = true then EvalResult.lost else .won) = r
  split
  · split
    next p _ _ =>
      have appended :
          { s with station := { s.station with history := appendResult s.station.history r } }.receiving = some c := held
      exact askRecital_keeps appended .discord p
    next => exact held
  · exact held

theorem stationWork_progresses {rep : LabelReport} (active : s.station.state = .active)
    (stays : (stationWork rep s).station.state = .active) : Progresses s (stationWork rep s) := by
  have first := counted_progresses rep active
  obtain eq | eq := stationWork_stays active stays <;> rw [eq]
  · exact first
  · have silences (v : State) := Progresses.of_frame (advanceSilences_frame v) (advanceSilences_remains v)
    have beacon (v : State) : Progresses v (offerBeacon v) := .ite (offer_progresses _ v) (.refl v)
    exact ((first.trans (silences _)).trans (evaluateDiscord_progresses _)).trans (beacon _)

/-- A station that stays ACTIVE keeps its recital contexts. -/
theorem stationWork_contexts {rep : LabelReport} (active : s.station.state = .active)
    (stays : (stationWork rep s).station.state = .active) :
    (stationWork rep s).sending = s.sending ∧
      ∀ c, s.receiving = some c → (stationWork rep s).receiving = some c := by
  have first := counted_frame rep active
  obtain eq | eq := stationWork_stays active stays <;> rw [eq]
  · exact ⟨first.sending, fun c held => first.receiving.trans held⟩
  · have silences := advanceSilences_frame (counted rep s)
    have discord := evaluateDiscord_frame (advanceSilences (counted rep s))
    have beacon := offerBeacon_frame (evaluateDiscord (advanceSilences (counted rep s)))
    refine ⟨?_, fun c held => ?_⟩
    · rw [beacon.sending, discord.sending, silences.sending, first.sending]
    · rw [beacon.receiving]
      refine evaluateDiscord_receiving ?_
      rw [silences.receiving, first.receiving, held]

end

end Sys2Proof.Machine
end

section
/-! SUPPORT. What each stage of a boundary settles of the work that is owed (R84, R90, R96, R126, R130, R134). -/

namespace Sys2Proof.Machine

set_option Elab.async false

section
variable {s t : State} {x y e : Entry} {st : Stage} {rep : LabelReport}

/-! ### Announcements that are due (R84, R96) -/

theorem Announced.due (h : Announced t y) (due : y.mark = .proposeDue ∨ y.mark = .ratifyDue) : noticed t .txqFull := by
  unfold Announced at h
  obtain due | due := due <;> rw [due] at h <;> exact h

theorem Announced.propose (h : Announced t y) (queued : y.mark = .proposeQueued) :
    proposeFrame y.toRecord ∈ t.line.queue := by
  unfold Announced at h
  rwa [queued] at h

theorem Announced.ratify (h : Announced t y) (queued : y.mark = .ratifyQueued) :
    ratifyFrame y.id y.endorsers ∈ t.line.queue := by
  unfold Announced at h
  rwa [queued] at h

/-- Where each step of a fold announces the entry of its identifier, the fold announces them all. -/
theorem foldl_announces {g : State → Ident → State} {l : List Ident} (start : Progress s s)
    (step : ∀ t key, Progresses t (g t key))
    (announces : ∀ t key, t.station.state = .active → Distinct (g t key) → ∀ y ∈ (g t key).table.entries,
      y.id = key → Announced (g t key) y) :
    ∀ y ∈ (l.foldl g s).table.entries, y.id ∈ l → Announced (l.foldl g s) y := by
  intro y hy listed
  obtain ⟨t, before, now, later⟩ := Progress.foldl_at start (fun t _ key _ => step t key) listed
  obtain ⟨x, hx, carried⟩ := later.entries y hy
  exact (announces t y.id before.active now.distinct x hx carried.id.symm).onward later hy carried

/-- The PROPOSE of a held entry is offered again. -/
def proposeAgain (t : State) (key : Ident) : State :=
  match t.find key with
  | some e => offerPropose e.toRecord t
  | none => t

/-- The RATIFY of a held entry is offered again. -/
def ratifyAgain (t : State) (key : Ident) : State :=
  match t.find key with
  | some e => offerRatify key e.endorsers t
  | none => t

theorem proposeAgain_progresses (t : State) (key : Ident) : Progresses t (proposeAgain t key) := by
  unfold proposeAgain
  split
  next held => exact offerPropose_progresses held
  next => exact .refl t

theorem ratifyAgain_progresses (t : State) (key : Ident) : Progresses t (ratifyAgain t key) := by
  unfold ratifyAgain
  split
  next held => exact offerRatify_progresses held
  next => exact .refl t

theorem proposeAgain_announces (t : State) (key : Ident) (active : t.station.state = .active)
    (after : Distinct (proposeAgain t key)) (y : Entry) (hy : y ∈ (proposeAgain t key).table.entries)
    (own : y.id = key) : Announced (proposeAgain t key) y := by
  cases held : t.find key with
  | none =>
    have same : proposeAgain t key = t := by rw [proposeAgain, held]
    exact absurd own (find_none_iff.1 held y (same ▸ hy))
  | some e =>
    have offers : proposeAgain t key = offerPropose e.toRecord t := by rw [proposeAgain, held]
    rw [offers] at after hy ⊢
    exact offerPropose_mem active held after hy own

theorem ratifyAgain_announces (t : State) (key : Ident) (active : t.station.state = .active)
    (after : Distinct (ratifyAgain t key)) (y : Entry) (hy : y ∈ (ratifyAgain t key).table.entries)
    (own : y.id = key) : Announced (ratifyAgain t key) y := by
  cases held : t.find key with
  | none =>
    have same : ratifyAgain t key = t := by rw [ratifyAgain, held]
    exact absurd own (find_none_iff.1 held y (same ▸ hy))
  | some e =>
    have offers : ratifyAgain t key = offerRatify key e.endorsers t := by rw [ratifyAgain, held]
    rw [offers] at after hy ⊢
    exact offerRatify_mem active held after hy own

theorem reofferPropose_eq (active : s.station.state = .active) :
    reofferPropose s =
      (s.idsWhere fun e => e.mark == .proposeDue && e.state == .proposed && e.id.proposer == s.pins.stn).foldl
        proposeAgain s := if_pos active

theorem reofferRatify_eq (active : s.station.state = .active) :
    reofferRatify s =
      (s.idsWhere fun e => e.mark == .ratifyDue && e.settled && e.id.proposer == s.pins.stn).foldl
        ratifyAgain s := if_pos active

theorem reofferPropose_progresses (s : State) : Progresses s (reofferPropose s) := fun active distinct => by
  rw [reofferPropose_eq active]
  exact Progresses.foldl proposeAgain_progresses _ s active distinct

theorem reofferRatify_progresses (s : State) : Progresses s (reofferRatify s) := fun active distinct => by
  rw [reofferRatify_eq active]
  exact Progresses.foldl ratifyAgain_progresses _ s active distinct

theorem mem_idsWhere {p : Entry → Bool} (hx : x ∈ s.table.entries) (test : p x = true) : x.id ∈ s.idsWhere p :=
  List.mem_map.2 ⟨x, List.mem_filter.2 ⟨hx, test⟩, rfl⟩

/-- After the PROPOSE offers an own entry whose announcement is due has met a full queue. -/
theorem reofferPropose_due (active : s.station.state = .active) (distinct : Distinct s)
    (hy : y ∈ (reofferPropose s).table.entries) (own : y.id.proposer = s.pins.stn) (proposed : y.state = .proposed)
    (due : y.mark = .proposeDue) : noticed (reofferPropose s) .txqFull := by
  obtain ⟨x, hx, carried⟩ := (reofferPropose_progresses s active distinct).entries y hy
  obtain same | now := carried.mark
  · have listed := mem_idsWhere (p := fun e => e.mark == .proposeDue && e.state == .proposed && e.id.proposer == s.pins.stn)
      hx (by simp [← same, due, ← carried.id, own, carried.proposed.1 proposed])
    rw [reofferPropose_eq active] at hy ⊢
    exact (foldl_announces (.refl active distinct) proposeAgain_progresses proposeAgain_announces y hy
      (carried.id ▸ listed)).due (.inl due)
  · exact now.due (.inl due)

/-- After the RATIFY offers an own settled entry whose announcement is due has met a full queue. -/
theorem reofferRatify_due (active : s.station.state = .active) (distinct : Distinct s)
    (hy : y ∈ (reofferRatify s).table.entries) (own : y.id.proposer = s.pins.stn) (settled : y.settled = true)
    (due : y.mark = .ratifyDue) : noticed (reofferRatify s) .txqFull := by
  obtain ⟨x, hx, carried⟩ := (reofferRatify_progresses s active distinct).entries y hy
  obtain same | now := carried.mark
  · have listed := mem_idsWhere (p := fun e => e.mark == .ratifyDue && e.settled && e.id.proposer == s.pins.stn)
      hx (by simp [← same, due, ← carried.id, own, carried.settled settled])
    rw [reofferRatify_eq active] at hy ⊢
    exact (foldl_announces (.refl active distinct) ratifyAgain_progresses ratifyAgain_announces y hy
      (carried.id ▸ listed)).due (.inr due)
  · exact now.due (.inr due)

/-! ### Own entries at the quorum (R90) -/

/-- The own entries without a turn that have come to the quorum. -/
def ripe (s : State) (e : Entry) : Bool :=
  e.state == .proposed && !e.kind.scheduled && e.id.proposer == s.pins.stn &&
    decide (s.quorum ≤ countStations e.endorsers)

theorem retestQuorum_eq (active : s.station.state = .active) :
    retestQuorum s = (s.idsWhere (ripe s)).foldl (fun t key => ratifyOwn key t) s := if_pos active

/-- What is held later under the identifier of a ripe entry has no turn. -/
theorem Progress.ripe_unscheduled (p : Progress s t) (distinct : Distinct s) {key : Ident}
    (listed : key ∈ s.idsWhere (ripe s)) : ∀ e, t.find key = some e → e.kind.scheduled = false := by
  intro e held
  obtain ⟨x, hx, rfl⟩ := List.mem_map.1 listed
  obtain ⟨hx, test⟩ := List.mem_filter.1 hx
  obtain ⟨z, hz, carried⟩ := p.entries e (mem_of_find held)
  obtain rfl : z = x := List.inj_on_of_nodup_map distinct hz hx (carried.id.symm.trans (find_id held))
  have kind : e.kind = z.kind := congrArg Record.kind carried.record
  simp only [ripe, Bool.and_eq_true, Bool.not_eq_true'] at test
  rw [kind]
  exact test.1.1.2

theorem retestQuorum_step (distinct : Distinct s) (t : State) (p : Progress s t) (key : Ident)
    (listed : key ∈ s.idsWhere (ripe s)) : Progresses t (ratifyOwn key t) :=
  ratifyOwn_progresses (p.ripe_unscheduled distinct listed) p.active

theorem retestQuorum_progresses (s : State) : Progresses s (retestQuorum s) := fun active distinct => by
  rw [retestQuorum_eq active]
  exact .foldl (.refl active distinct) (retestQuorum_step distinct)

/-- The retest leaves no own entry without a turn at the quorum. -/
theorem retestQuorum_leaves (active : s.station.state = .active) (distinct : Distinct s)
    (hy : y ∈ (retestQuorum s).table.entries) (own : y.id.proposer = s.pins.stn) (proposed : y.state = .proposed)
    (unscheduled : y.kind.scheduled = false) : countStations y.endorsers < s.quorum := by
  by_contra reached
  obtain ⟨x, hx, carried⟩ := (retestQuorum_progresses s active distinct).entries y hy
  have kind : x.kind = y.kind := congrArg Record.kind carried.record.symm
  have listed : x.id ∈ s.idsWhere (ripe s) := mem_idsWhere hx (by
    simp [ripe, carried.proposed.1 proposed, kind, unscheduled, ← carried.id, own, ← carried.endorsers,
      Nat.not_lt.1 reached])
  rw [retestQuorum_eq active] at hy
  obtain ⟨t, before, now, later⟩ := Progress.foldl_at (.refl active distinct) (retestQuorum_step distinct) listed
  have gone := ratifyOwn_gone (before.ripe_unscheduled distinct listed) before.active
  exact find_none_iff.1 (later.gone gone) y hy carried.id

end

end Sys2Proof.Machine
end

section
/-! SUPPORT. The recital contexts at a boundary of a station that is and stays ACTIVE, and the stages together (R126, R130,
R134). -/

namespace Sys2Proof.Machine

set_option Elab.async false

section
variable {s t : State} {y : Entry} {st : Stage} {rep : LabelReport}

/-! ### A recital frame that is due (R130) -/

/-- What a boundary makes of a recital that it finds with a frame due: the frame is queued, or TXQ_FULL is raised and the
failed offer counted, of which the fourth abandons the recital. -/
def RecitalOffered (d : SendCtx) (t : State) : Prop :=
  (t.sending = some { d with offer := .queued } ∧
    ∃ f ∈ t.line.queue, f.serial = d.serial ∧ (f.kind = .recital ∨ f.kind = .scaleState)) ∨
  (noticed t .txqFull ∧ d.failed < 3 ∧ t.sending = some { d with failed := d.failed + 1 }) ∨
  (noticed t .txqFull ∧ 3 ≤ d.failed ∧ t.sending = none)

theorem RecitalOffered.onward {d : SendCtx} (h : RecitalOffered d s) (p : Progress s t) (kept : t.sending = s.sending) :
    RecitalOffered d t := by
  unfold RecitalOffered at h ⊢
  rw [kept]
  obtain ⟨sending, f, hf, serial, kind⟩ | ⟨full, few⟩ | ⟨full, many⟩ := h
  · refine .inl ⟨sending, f, p.frame hf ?_, serial, kind⟩
    obtain kind | kind := kind <;> rw [kind] <;> decide
  · exact .inr (.inl ⟨p.noticed _ full, few⟩)
  · exact .inr (.inr ⟨p.noticed _ full, many⟩)

theorem recitalOfferFailed_counts {d : SendCtx} (held : s.sending = some d) (few : d.failed < 3) :
    recitalOfferFailed s = { s with sending := some { d with offer := .due, failed := d.failed + 1 } } := by
  simp only [recitalOfferFailed, held]
  exact if_neg (by omega)

theorem recitalOfferFailed_abandons {d : SendCtx} (held : s.sending = some d) (many : 3 ≤ d.failed) :
    recitalOfferFailed s = abandonRecital s := by
  simp only [recitalOfferFailed, held]
  exact if_pos (by omega)

/-- An offer that finds no room is a failed one. -/
theorem offerRecitalFrame_full {d : SendCtx} (held : s.sending = some d)
    (full : ¬ s.wouldQueue (assembleRecital s d) = true) :
    offerRecitalFrame s = recitalOfferFailed (offer (assembleRecital s d) s) := by
  simp only [offerRecitalFrame, held]
  exact if_neg full

theorem reofferRecital_offered {d : SendCtx} (active : s.station.state = .active) (held : s.sending = some d)
    (due : d.offer = .due) : RecitalOffered d (reofferRecital s) := by
  have offers : reofferRecital s = offerRecitalFrame s := by
    simp only [reofferRecital, held]
    exact if_pos due
  rw [offers]
  by_cases room : s.wouldQueue (assembleRecital s d) = true
  · rw [offerRecitalFrame_queued held (wouldQueue_recital.1 room)]
    refine .inl ⟨rfl, assembleRecital s d, mem_insertFrame.2 (.inl rfl), assembleRecital_serial s d, ?_⟩
    rw [assembleRecital_kind]
    split
    · exact .inl rfl
    · exact .inr rfl
  · have full := offer_active active (assembleRecital s d)
    rw [if_neg room] at full
    have held' : (offer (assembleRecital s d) s).sending = some d := (offer_frame _ s).sending.trans held
    rw [offerRecitalFrame_full held room]
    by_cases few : d.failed < 3
    · rw [recitalOfferFailed_counts held' few, ← due]
      exact .inr (.inl ⟨full, few, rfl⟩)
    · rw [recitalOfferFailed_abandons held' (Nat.not_lt.1 few)]
      exact .inr (.inr ⟨full, Nat.not_lt.1 few, rfl⟩)

/-! ### A RECITE_REQ that is due (R126, R134) -/

/-- What a beacon time makes of a request that it finds due: the wait counts, and the frame is queued or TXQ_FULL
raised. -/
def RequestOffered (d : RecvCtx) (t : State) : Prop :=
  (t.receiving = some { d with wait := d.wait + 1, req := .queued } ∧
    ∃ f ∈ t.line.queue, f.kind = .reciteReq ∧ f.serial = d.serial ∧ f.body = reciteReqBody d.target) ∨
  (noticed t .txqFull ∧ t.receiving = some { d with wait := d.wait + 1 })

theorem RequestOffered.onward {d : RecvCtx} (h : RequestOffered d s) (p : Progress s t)
    (kept : ∀ c, s.receiving = some c → t.receiving = some c) : RequestOffered d t := by
  obtain ⟨receiving, f, hf, kind, rest⟩ | ⟨full, receiving⟩ := h
  · exact .inl ⟨kept _ receiving, f, p.frame hf (by rw [kind]; decide), kind, rest⟩
  · exact .inr ⟨p.noticed _ full, kept _ receiving⟩

/-- The RECITE_REQ of a receiving context. -/
def requestFrame (c : RecvCtx) : Frame :=
  newFrame .reciteReq FrameKind.reciteReq.plainClass (reciteReqBody c.target) none c.serial

theorem offerRequest_eq {c : RecvCtx} (held : s.receiving = some c) :
    offerRequest s = { offer (requestFrame c) s with
      receiving := some { c with req := if s.wouldQueue (requestFrame c) then .queued else .due } } := by
  simp only [offerRequest, held]
  rfl

theorem receiveWork_offered {d : RecvCtx} (active : s.station.state = .active) (held : s.receiving = some d)
    (due : d.req = .due) (unanswered : d.source = none) (few : d.wait < 3) (beacon : s.beaconTime = true) :
    RequestOffered d (receiveWork s) := by
  have offers : receiveWork s = offerRequest { s with receiving := some { d with wait := d.wait + 1 } } := by
    simp only [receiveWork, held]
    rw [if_pos ⟨beacon, by simp [active]⟩, if_neg (by omega), if_pos ⟨due, unanswered⟩]
  rw [offers, offerRequest_eq rfl]
  have offered := offer_active (s := { s with receiving := some { d with wait := d.wait + 1 } }) active
    (requestFrame { d with wait := d.wait + 1 })
  split at offered
  next room =>
    rw [if_pos room]
    exact .inl ⟨rfl, _, offered, rfl, rfl, rfl⟩
  next full =>
    rw [if_neg full, ← due]
    exact .inr ⟨offered, rfl⟩

/-! ### The stages -/

theorem runStage_progresses (active : s.station.state = .active) (stays : (runStage rep st s).station.state = .active) :
    Progresses s (runStage rep st s) := by
  cases st with
  | apply => exact applyPass_progresses s
  | expiry => exact expireWindows_progresses s
  | station => exact stationWork_progresses active stays
  | retest => exact retestQuorum_progresses s
  | ratifyOffers => exact reofferRatify_progresses s
  | proposeOffers => exact reofferPropose_progresses s
  | recitalSend => exact reofferRecital_progresses s
  | recitalReceive => exact receiveWork_progresses stays

theorem runStage_sending (other : st ≠ .recitalSend) (active : s.station.state = .active)
    (stays : (runStage rep st s).station.state = .active) : (runStage rep st s).sending = s.sending := by
  cases st with
  | recitalSend => exact absurd rfl other
  | apply => exact (applyPass_frame s).sending
  | expiry => exact (expireWindows_frame s).sending
  | station => exact (stationWork_contexts active stays).1
  | retest => exact (retestQuorum_frame s).sending
  | ratifyOffers => exact (reofferRatify_frame s).sending
  | proposeOffers => exact (reofferPropose_frame s).sending
  | recitalReceive => exact receiveWork_sending stays

theorem runStage_receiving (other : st ≠ .recitalReceive) (active : s.station.state = .active)
    (stays : (runStage rep st s).station.state = .active) (c : RecvCtx) (held : s.receiving = some c) :
    (runStage rep st s).receiving = some c := by
  cases st with
  | recitalReceive => exact absurd rfl other
  | apply => exact (applyPass_frame s).receiving.trans held
  | expiry => exact (expireWindows_frame s).receiving.trans held
  | station => exact (stationWork_contexts active stays).2 c held
  | retest => exact (retestQuorum_frame s).receiving.trans held
  | ratifyOffers => exact (reofferRatify_frame s).receiving.trans held
  | proposeOffers => exact (reofferPropose_frame s).receiving.trans held
  | recitalSend => exact (reofferRecital_frame s).receiving.trans held

section
variable {l : List Stage} (nodup : l.Nodup) (active : s.station.state = .active)
  (stays : (stagesFrom rep l s).station.state = .active)
include nodup active stays

theorem stagesFrom_progresses : Progresses s (stagesFrom rep l s) :=
  stagesFrom_active .refl .trans (fun _ _ _ => runStage_progresses) nodup active stays

theorem stagesFrom_sending (others : Stage.recitalSend ∉ l) : (stagesFrom rep l s).sending = s.sending :=
  stagesFrom_active (R := fun s t => t.sending = s.sending) (fun _ => rfl) (fun h h' => h'.trans h)
    (fun _ hst _ => runStage_sending (ne_of_mem_of_not_mem hst others)) nodup active stays

theorem stagesFrom_receiving (others : Stage.recitalReceive ∉ l) :
    ∀ c, s.receiving = some c → (stagesFrom rep l s).receiving = some c :=
  stagesFrom_active (R := fun s t => ∀ c, s.receiving = some c → t.receiving = some c) (fun _ _ => id)
    (fun h h' c held => h' c (h c held))
    (fun _ hst _ => runStage_receiving (ne_of_mem_of_not_mem hst others)) nodup active stays

end

/-- A boundary around one of its stages. -/
theorem runStages_around (ord : BoundaryOrder) (st : Stage) (active : s.station.state = .active)
    (stays : (runStages ord rep s).station.state = .active) :
    ∃ before after, st ∉ before ∧ st ∉ after ∧ before.Nodup ∧ after.Nodup ∧
      (stagesFrom rep before s).station.state = .active ∧
      (runStage rep st (stagesFrom rep before s)).station.state = .active ∧
      runStages ord rep s = stagesFrom rep after (runStage rep st (stagesFrom rep before s)) := by
  obtain ⟨before, after, eq⟩ := List.append_of_mem (mem_completeOrder ord.stages st)
  have nodup : (before ++ st :: after).Nodup := eq ▸ completeOrder_nodup ord.stages
  have run : runStages ord rep s = stagesFrom rep (before ++ st :: after) s := by rw [runStages, eq]
  rw [run] at stays ⊢
  obtain ⟨first, rest, apart⟩ := List.nodup_append.1 nodup
  obtain ⟨once, last⟩ := List.nodup_cons.1 rest
  have ahead := active_of_append nodup active stays
  have split : stagesFrom rep (before ++ st :: after) s = stagesFrom rep (st :: after) (stagesFrom rep before s) :=
    List.foldl_append
  exact ⟨before, after, fun h => apart st h st (by simp) rfl, once, first, last, ahead,
    active_of_stagesFrom rest ahead (split ▸ stays), split⟩

theorem stagesFrom_frame (rep : LabelReport) (l : List Stage) (s : State) :
    ChangesOnly [.clock, .scales, .table, .line, .station, .roster, .sending, .receiving, .report, .outputs, .notices,
      .serial] s (stagesFrom rep l s) := ChangesOnly.foldl (fun t st => runStage_frame rep st t) l s

/-! ### What the stages settle -/

section
variable (ord : BoundaryOrder) (active : s.station.state = .active) (distinct : Distinct s)
  (stays : (runStages ord rep s).station.state = .active)
include active distinct stays

theorem runStages_progress : Progress s (runStages ord rep s) :=
  stagesFrom_progresses (completeOrder_nodup ord.stages) active stays active distinct

/-- The stages around one of them, as progress. -/
theorem runStages_at (st : Stage) :
    ∃ u, Progress s u ∧ Progress (runStage rep st u) (runStages ord rep s) ∧ u.pins = s.pins ∧ u.quorum = s.quorum := by
  obtain ⟨before, after, -, -, first, last, ahead, still, run⟩ := runStages_around ord st active stays
  have start := stagesFrom_progresses first active ahead active distinct
  have step := runStage_progresses ahead still start.active start.distinct
  have frame := stagesFrom_frame rep before s
  rw [run] at stays ⊢
  exact ⟨_, start, stagesFrom_progresses last still stays still step.distinct, frame.pins, frame.quorum⟩

/-- No own entry without a turn is left at the quorum (R90). -/
theorem runStages_executes (hy : y ∈ (runStages ord rep s).table.entries) (own : y.id.proposer = s.pins.stn)
    (proposed : y.state = .proposed) (unscheduled : y.kind.scheduled = false) :
    countStations y.endorsers < s.quorum := by
  obtain ⟨u, start, last, pins, quorum⟩ := runStages_at ord active distinct stays .retest
  obtain ⟨x, hx, carried⟩ := last.entries y hy
  have kind : x.kind = y.kind := congrArg Record.kind carried.record.symm
  rw [carried.endorsers, ← quorum]
  exact retestQuorum_leaves start.active start.distinct hx (by rw [← carried.id, pins, own])
    (carried.proposed.1 proposed) (by rw [kind]; exact unscheduled)

/-- A PROPOSE that is still due found no room (R84). -/
theorem runStages_propose_due (hy : y ∈ (runStages ord rep s).table.entries) (own : y.id.proposer = s.pins.stn)
    (proposed : y.state = .proposed) (due : y.mark = .proposeDue) : noticed (runStages ord rep s) .txqFull := by
  obtain ⟨u, start, last, pins, -⟩ := runStages_at ord active distinct stays .proposeOffers
  obtain ⟨x, hx, carried⟩ := last.entries y hy
  obtain same | now := carried.mark
  · exact last.noticed _ (reofferPropose_due start.active start.distinct hx (by rw [← carried.id, pins, own])
      (carried.proposed.1 proposed) (same.symm.trans due))
  · exact now.due (.inl due)

/-- A RATIFY that is still due found no room (R96). -/
theorem runStages_ratify_due (hy : y ∈ (runStages ord rep s).table.entries) (own : y.id.proposer = s.pins.stn)
    (settled : y.settled = true) (due : y.mark = .ratifyDue) : noticed (runStages ord rep s) .txqFull := by
  obtain ⟨u, start, last, pins, -⟩ := runStages_at ord active distinct stays .ratifyOffers
  obtain ⟨x, hx, carried⟩ := last.entries y hy
  obtain same | now := carried.mark
  · exact last.noticed _ (reofferRatify_due start.active start.distinct hx (by rw [← carried.id, pins, own])
      (carried.settled settled) (same.symm.trans due))
  · exact now.due (.inr due)

theorem runStages_recital {d : SendCtx} (held : s.sending = some d) (due : d.offer = .due) :
    RecitalOffered d (runStages ord rep s) := by
  obtain ⟨before, after, earlier, later, first, last, ahead, still, run⟩ :=
    runStages_around ord .recitalSend active stays
  have start := stagesFrom_progresses first active ahead active distinct
  have step := runStage_progresses ahead still start.active start.distinct
  have held' := (stagesFrom_sending first active ahead earlier).trans held
  rw [run] at stays ⊢
  exact (reofferRecital_offered ahead held' due).onward (stagesFrom_progresses last still stays still step.distinct)
    (stagesFrom_sending last still stays later)

theorem runStages_request {d : RecvCtx} (held : s.receiving = some d) (due : d.req = .due) (unanswered : d.source = none)
    (few : d.wait < 3) (beacon : s.beaconTime = true) : RequestOffered d (runStages ord rep s) := by
  obtain ⟨before, after, earlier, later, first, last, ahead, still, run⟩ :=
    runStages_around ord .recitalReceive active stays
  have start := stagesFrom_progresses first active ahead active distinct
  have step := runStage_progresses ahead still start.active start.distinct
  have held' := stagesFrom_receiving first active ahead earlier d held
  have beacon' : (stagesFrom rep before s).beaconTime = true := by
    rw [State.beaconTime, (stagesFrom_asks rep before s).label, (stagesFrom_frame rep before s).plan]
    exact beacon
  rw [run] at stays ⊢
  exact (receiveWork_offered ahead held' due unanswered few beacon').onward
    (stagesFrom_progresses last still stays still step.distinct) (stagesFrom_receiving last still stays later)

end

end

end Sys2Proof.Machine
end

section
/-! SUPPORT. The boundary around its stages: the label before them, and the outputs after them (R8, R157). -/

namespace Sys2Proof.Machine

set_option Elab.async false

theorem takeLabel_remains (b : Bool) (s : State) : Remains s (takeLabel b s).2 := by
  have labelled (v : Nat) : Remains s (s.withLabel v) := .of_eq rfl rfl
  unfold takeLabel
  dsimp only
  split
  · exact labelled _
  · exact labelled _
  · split
    · exact labelled _
    · exact (labelled _).trans ((Remains.of_frame (drawn_frame _)).trans (raise_remains _ _))

/-- The state that the stages of a boundary meet. -/
def stagesMeet (ord : BoundaryOrder) (s : State) : State :=
  moveWindows (takeLabel ord.passBeforeTest s).1.jump (takeLabel ord.passBeforeTest s).2

theorem stagesMeet_frame (ord : BoundaryOrder) (s : State) :
    ChangesOnly [.clock, .table, .notices, .free] s (stagesMeet ord s) :=
  ((takeLabel_frame ord.passBeforeTest s).mono (by decide)).trans ((moveWindows_frame _ _).mono (by decide))

theorem stagesMeet_progresses (ord : BoundaryOrder) (s : State) : Progresses s (stagesMeet ord s) :=
  (Progresses.of_frame (takeLabel_frame ord.passBeforeTest s) (takeLabel_remains _ s)).trans (moveWindows_progresses _ _)

/-- The outputs and a notice close a boundary, whose stages have made its work. -/
theorem boundary_closes {ord : BoundaryOrder} {s t : State} (after : ChangesOnly [.notices] (boundary ord s) t)
    (remains : Remains (boundary ord s) t) :
    ChangesOnly [.outputs, .notices] (runStages ord (takeLabel ord.passBeforeTest s).1 (stagesMeet ord s)) t ∧
      Remains (runStages ord (takeLabel ord.passBeforeTest s).1 (stagesMeet ord s)) t := by
  have realigned := realignIfAdopted_frame (takeLabel ord.passBeforeTest s).1
    (runStages ord (takeLabel ord.passBeforeTest s).1 (stagesMeet ord s))
  exact ⟨((realigned.mono (by decide)).trans (outputsBoundary_frame _)).trans (after.mono (by decide)),
    ((realignIfAdopted_remains _ _).trans (outputsBoundary_remains _)).trans remains⟩

/-- An announcement that was due and is queued now has its frame in the queue (R84, R96). -/
theorem Progress.announced {s t : State} (p : Progress s t) (distinct : Distinct s) {e e' : Entry} {key : Ident}
    (held : s.find key = some e) (held' : t.find key = some e') (moved : e'.mark ≠ e.mark) :
    Announced t e' ∧ e'.toRecord = e.toRecord ∧ e'.endorsers = e.endorsers := by
  obtain ⟨x, hx, carried⟩ := p.entries e' (mem_of_find held')
  obtain rfl := distinct.eq held hx (carried.id.symm.trans (find_id held'))
  exact ⟨carried.mark.resolve_left moved, carried.record, carried.endorsers⟩

/-- Settles O27: from the state that the stages meet, each stage settles the work that is its own, and the stages after
it keep what it has settled while the station stays ACTIVE. -/
theorem owedWorkIsDoneAtABoundary : Obligations.OwedWorkIsDoneAtABoundary := by
  intro s c makes bounded active
  obtain ⟨t, run, made⟩ := exec_makesBoundary makes
  obtain ⟨ord, clock, -, -, after, remains⟩ := boundaryMade_cases made
  refine ⟨t, run, fun stays => ?_⟩
  have distinct : Distinct s := bounded.1
  have clocked : ChangesOnly [.clock] s (s.setClock clock) := setClock_frame clock s
  have meets : ChangesOnly [.clock, .table, .notices, .free] s (stagesMeet ord (s.setClock clock)) :=
    (clocked.mono (by decide)).trans (stagesMeet_frame ord _)
  have start : Progress s (stagesMeet ord (s.setClock clock)) :=
    (Progresses.of_frame clocked (.of_frame clocked)).trans (stagesMeet_progresses ord _) active distinct
  obtain ⟨closes, remains⟩ := boundary_closes after remains
  have still := closes.station ▸ stays
  have work := runStages_progress ord start.active start.distinct still
  have outputs : Progresses _ t := .of_frame closes remains
  have last := outputs still work.distinct
  have whole := (start.trans work).trans last
  refine ⟨fun e he own => ?entries, fun e e' held held' own => ?frames, fun d sending due => ?recital,
    fun d receiving due unanswered few beacon => ?request⟩
  case entries =>
    rw [closes.table] at he
    rw [← meets.pins] at own
    rw [← meets.quorum]
    exact ⟨fun proposed unscheduled =>
        runStages_executes ord start.active start.distinct still he own proposed unscheduled,
      fun proposed due => remains.noticed _
        (runStages_propose_due ord start.active start.distinct still he own proposed due),
      fun settled due => remains.noticed _
        (runStages_ratify_due ord start.active start.distinct still he own settled due)⟩
  case frames =>
    refine ⟨fun _ _ due queued => ?_, fun _ due queued => ?_⟩
    · obtain ⟨announced, record, -⟩ := whole.announced distinct held held' (by rw [due, queued]; decide)
      exact ⟨_, announced.propose queued, rfl, congrArg (some ∘ Record.id) record, congrArg proposeBody record⟩
    · obtain ⟨announced, record, endorsers⟩ := whole.announced distinct held held' (by rw [due, queued]; decide)
      have same : e'.id = e.id := congrArg Record.id record
      exact ⟨_, announced.ratify queued, rfl, congrArg some same, congrArg₂ ratifyBody same endorsers⟩
  case recital =>
    exact (runStages_recital ord start.active start.distinct still (meets.sending.trans sending) due).onward last
      closes.sending
  case request =>
    have beaconTime : (stagesMeet ord (s.setClock clock)).beaconTime = true := by
      have label := (stagesFrom_asks (takeLabel ord.passBeforeTest (s.setClock clock)).1 (completeOrder ord.stages)
        (stagesMeet ord (s.setClock clock))).label
      rw [State.beaconTime, meets.plan, ← label, beq_iff_eq, ← beacon]
      exact congrArg (fun k : Clock => k.label % s.plan.b) closes.clock.symm
    exact (runStages_request ord start.active start.distinct still (meets.receiving.trans receiving) due unanswered few
      beaconTime).onward last fun c held => closes.receiving.trans held

end Sys2Proof.Machine
end

section
/-! SUPPORT. Quenched outputs stay silent, each kind of notice pending once, and the station's counts in range (R105, R117,
R118, R167, R168, R191). The operations of the units. -/

namespace Sys2Proof.Machine

set_option Elab.async false

/-! ### The relation -/

/-- From `s` to `t` quenched outputs stay silent, the pending notices bounded, and the station's counts in range. -/
structure Orderly (s t : State) : Prop where
  outputs : OutputsQuenched s → OutputsQuenched t
  notices : NoticesBounded s → NoticesBounded t
  history : s.station.history.length ≤ 2 → t.station.history.length ≤ 2
  listen : (s.station.state = .joining → s.station.listen ≤ 2) → t.station.state = .joining → t.station.listen ≤ 2

section
variable {s t u : State} {ps : List Part}

theorem Orderly.of_parts (outputs : t.outputs = s.outputs) (notices : t.notices = s.notices)
    (station : t.station = s.station) : Orderly s t := by
  constructor
  · rw [OutputsQuenched, OutputsQuenched, outputs]; exact id
  · rw [NoticesBounded, NoticesBounded, notices]; exact id
  · rw [station]; exact id
  · rw [station]; exact id

theorem Orderly.refl (s : State) : Orderly s s := .of_parts rfl rfl rfl

theorem Orderly.trans (h : Orderly s t) (k : Orderly t u) : Orderly s u :=
  ⟨k.outputs ∘ h.outputs, k.notices ∘ h.notices, k.history ∘ h.history, k.listen ∘ h.listen⟩

theorem Orderly.bounded (h : Orderly s t) (hs : StationBounded s) : StationBounded t := ⟨h.history hs.1, h.listen hs.2⟩

theorem Orderly.of_frame (h : ChangesOnly ps s t) (outputs : Part.outputs ∉ ps := by decide)
    (notices : Part.notices ∉ ps := by decide) (station : Part.station ∉ ps := by decide) : Orderly s t :=
  .of_parts (h.outputs outputs) (h.notices notices) (h.station station)

theorem Orderly.ite {c : Prop} [Decidable c] (h : Orderly s t) (k : Orderly s u) : Orderly s (if c then t else u) := by
  split <;> assumption

theorem Orderly.foldl {α : Type} {g : State → α → State} (h : ∀ t x, Orderly t (g t x)) (l : List α) (s : State) :
    Orderly s (l.foldl g s) := by
  induction l generalizing s with
  | nil => exact .refl s
  | cons x l ih => exact (h s x).trans (ih _)

/-- Outputs that change, each from a sound one to a sound one. -/
theorem Orderly.of_outputs (h : ChangesOnly ps s t)
    (sound : ∀ n : Fin 8, outputSound s.outputs[n] → outputSound t.outputs[n])
    (notices : Part.notices ∉ ps := by decide) (station : Part.station ∉ ps := by decide) : Orderly s t where
  outputs hs n := sound n (hs n)
  notices hs := by rwa [NoticesBounded, h.notices notices]
  history hs := by rwa [h.station station]
  listen hs := by rwa [h.station station]

/-- Items of the Station Controller that change within their ranges. -/
theorem Orderly.of_station (h : ChangesOnly ps s t)
    (history : s.station.history.length ≤ 2 → t.station.history.length ≤ 2)
    (listen : (s.station.state = .joining → s.station.listen ≤ 2) → t.station.state = .joining → t.station.listen ≤ 2)
    (outputs : Part.outputs ∉ ps := by decide) (notices : Part.notices ∉ ps := by decide) : Orderly s t where
  outputs hs := by rwa [OutputsQuenched, h.outputs outputs]
  notices hs := by rwa [NoticesBounded, h.notices notices]
  history := history
  listen := listen

/-- The pending notices change within their bounds. -/
theorem Orderly.of_notices (h : ChangesOnly ps s t) (kept : NoticesBounded s → NoticesBounded t)
    (outputs : Part.outputs ∉ ps := by decide) (station : Part.station ∉ ps := by decide) : Orderly s t where
  outputs hs := by rwa [OutputsQuenched, h.outputs outputs]
  notices := kept
  history hs := by rwa [h.station station]
  listen hs := by rwa [h.station station]

/-! ### Notices and frames to the line (R76, R191) -/

theorem raise_orderly (n : Notice) (s : State) : Orderly s (raise n s) :=
  .of_notices (raise_frame n s) addNotice_ok

theorem offer_orderly (f : Frame) (s : State) : Orderly s (offer f s) := by
  obtain ⟨-, h⟩ | ⟨-, h⟩ | ⟨-, h⟩ := offer_cases f s <;> rw [h]
  · exact .of_frame (setQueue_frame _ s)
  · exact raise_orderly _ s
  · exact .refl s

theorem storeEntry_orderly (r : Record) (st : EntryState) (es : StationSet) (fl : List CfgRule) (w : Option Nat) (m : Mark)
    (o : StoreOrigin) (s : State) : Orderly s (storeEntry r st es fl w m o s) := by
  have stored : ChangesOnly [.table] s
      { s with table :=
          { s.table with
            entries := insertEntry
              { r with state := st, endorsers := es, flags := fl, window := w, stamp := s.table.nextStamp, mark := m }
              s.table.entries
            nextStamp := s.table.nextStamp + 1
            version := s.table.version + 1 } } := by
    intro p hp; cases p <;> first | rfl | simp at hp
  exact (Orderly.of_frame stored).trans (raise_orderly _ _)

theorem freeEntry_orderly (id : Ident) (n : Notice) (s : State) : Orderly s (freeEntry id n s) :=
  ((Orderly.of_frame (setEntries_frame _ s)).trans (raise_orderly n _)).trans (.of_frame (setQueue_frame _ _))

theorem freeExecuted_orderly (id : Ident) (e : StationSet) (s : State) : Orderly s (freeExecuted id e s) :=
  (Orderly.of_frame (setEntries_frame _ s)).trans (raise_orderly _ _)

/-! ### Outputs (R157, R163, R165 to R168) -/

theorem setOutput_orderly {n : Fin 8} {o : Output} {s : State} (h : outputSound s.outputs[n] → outputSound o) :
    Orderly s (s.setOutput n o) :=
  .of_outputs (setOutput_frame n o s) fun m sound => by
    rw [setOutput_get]
    split
    next same => exact h (same ▸ sound)
    next => exact sound

/-- An output keeps the quench rules where its latch, level, owed record and pending release stand. -/
theorem outputSound.of_same {o p : Output} (h : outputSound o) (latch : p.latch = o.latch) (sp : p.sp = o.sp)
    (owed : p.owed = o.owed) (release : p.releasePending = o.releasePending) : outputSound p := by
  rwa [outputSound, latch, sp, owed, release]

theorem quenched_sound (cause : QuenchDetail) (o : Output) : outputSound (o.quenched cause) :=
  ⟨fun _ => ⟨rfl, rfl⟩, fun pending => by simp [Output.quenched] at pending⟩

theorem quenchOutput_orderly (c : QuenchDetail) (n : Fin 8) (s : State) : Orderly s (quenchOutput c s n) := by
  have quenched : Orderly s (s.setOutput n (s.outputs[n].quenched c)) := setOutput_orderly fun _ => quenched_sound c _
  exact .ite (.ite quenched (quenched.trans (raise_orderly _ _))) (.refl s)

theorem quenchWhere_orderly (p : Fin 8 → Output → Bool) (c : QuenchDetail) (s : State) :
    Orderly s (quenchWhere p c s) :=
  .foldl (fun t n => .ite (quenchOutput_orderly c n t) (.refl t)) _ s

theorem quenchOnState_orderly (st : StationState) (s : State) : Orderly s (quenchOnState st s) := by
  unfold quenchOnState
  split
  · exact quenchWhere_orderly _ _ s
  · exact quenchWhere_orderly _ _ s
  · exact .refl s

/-- A release that is pending clears the latch, so that none is pending after it (R168). -/
theorem release_sound {o : Output} (h : outputSound o) : outputSound o.release ∧ o.release.releasePending = false := by
  unfold Output.release
  split
  next => exact ⟨⟨fun set => by simp [Latch.set, Latch.clear] at set, fun pending => by simp at pending⟩, rfl⟩
  next none => exact ⟨h, by simpa using none⟩

/-- The presentation logic leaves latch, level, owed record and pending release alone. -/
theorem present_silent (s : State) (b : Binding) (atBoundary : Bool) (o : Output) :
    (present s b atBoundary o).1.latch = o.latch ∧ (present s b atBoundary o).1.sp = o.sp ∧
    (present s b atBoundary o).1.owed = o.owed ∧
    (present s b atBoundary o).1.releasePending = o.releasePending := by
  unfold present
  split
  case h_1 => exact ⟨rfl, rfl, rfl, rfl⟩
  case h_2 => split <;> exact ⟨rfl, rfl, rfl, rfl⟩
  case h_3 =>
    dsimp only
    split
    · exact ⟨rfl, rfl, rfl, rfl⟩
    · exact ⟨rfl, rfl, rfl, rfl⟩
    · split <;> exact ⟨rfl, rfl, rfl, rfl⟩

/-- A quenched output is driven silent; one that is not is driven as it comes, with no release pending. -/
theorem drive_sound {o : Output} (h : outputSound o) (bytes : List Byte) : outputSound (o.drive bytes) := by
  unfold Output.drive
  split
  next set => exact ⟨fun _ => ⟨rfl, (h.1 set).2⟩, fun _ => set⟩
  next clear => exact ⟨fun set => absurd set clear, fun pending => absurd (h.2 pending) clear⟩

theorem startSecond_orderly (n : Fin 8) (b : Bool) (s : State) : Orderly s (startSecond n b s) := by
  simp only [startSecond]
  split
  · exact .refl s
  next bd _ =>
    have raised (m : Notice) : Orderly s (if s.outputs[n].releasePending then raise m s else s) :=
      .ite (raise_orderly m s) (.refl s)
    refine (raised _).trans (setOutput_orderly fun sound => ?_)
    have before : outputSound s.outputs[n] := by split at sound <;> exact sound
    obtain ⟨latch, sp, owed, release⟩ := present_silent s bd b s.outputs[n].release.load
    exact drive_sound ((release_sound before).1.of_same latch sp owed release) _

theorem closeWindow_sound {o : Output} (h : outputSound o) (label : Nat) : outputSound (o.closeWindow label) := by
  unfold Output.closeWindow
  split
  · split
    · split <;> exact h
    · exact h
  · exact h

theorem outputBoundary_orderly (n : Fin 8) (s : State) : Orderly s (outputBoundary s n) := by
  have closed : Orderly s (s.setOutput n (s.outputs[n].closeWindow s.clock.label)) :=
    setOutput_orderly fun sound => closeWindow_sound sound _
  exact .ite (.refl s) (.ite (closed.trans (startSecond_orderly n true _)) closed)

theorem outputsBoundary_orderly (s : State) : Orderly s (outputsBoundary s) :=
  .foldl (fun t n => outputBoundary_orderly n t) _ s

/-- Every output changed by one function that keeps the quench rules. -/
theorem mapOutputs_orderly {g : Output → Output} (sound : ∀ o, outputSound o → outputSound (g o)) (s : State) :
    Orderly s { s with outputs := s.outputs.map g } := by
  refine .of_outputs (ps := [.outputs]) (fun p hp => ?_) fun n h => ?_
  · cases p <;> first | rfl | simp at hp
  · have get : (s.outputs.map g)[n] = g s.outputs[n] := by simp
    exact get.symm ▸ sound _ h

theorem realignIfAdopted_orderly (rep : LabelReport) (s : State) : Orderly s (realignIfAdopted rep s) := by
  cases rep with
  | adopted jump =>
    refine mapOutputs_orderly (fun o sound => ?_) s
    unfold Output.realigned
    split <;> exact sound
  | plain => exact .refl s
  | set jump => exact .refl s
  | blocked => exact .refl s

theorem adoptScales_orderly (body : List Byte) (s : State) : Orderly s (adoptScales body s) := by
  have scaled : ChangesOnly [.scales] s { s with scales := adoptedScales s.scales body } := by
    intro p hp; cases p <;> first | rfl | simp at hp
  refine (Orderly.of_frame scaled).trans (mapOutputs_orderly (fun o sound => ?_) _)
  unfold Output.countMoved
  split
  · split <;> exact sound
  · exact sound

/-! ### The change of station state (R117, R118, R123) -/

theorem entered_history (st : Station) (new : StationState) :
    (st.entered new).history.length ≤ st.history.length := by
  unfold Station.entered
  dsimp only
  split
  · exact Nat.zero_le _
  · exact Nat.le_refl _

theorem entered_listen (st : Station) (new : StationState) (joining : (st.entered new).state = .joining) :
    (st.entered new).listen = 0 := if_pos joining

theorem entered_orderly (new : StationState) (s : State) : Orderly s (entered new s) := by
  have station : Orderly s { s with station := s.station.entered new } :=
    .of_station (withStation_frame _ s) (entered_history _ new).trans
      fun _ joining => (entered_listen _ new joining).le.trans (by decide)
  exact (station.trans (.of_frame (dropContexts_frame _ _))).trans (.of_frame (purgeForbidden_frame _))

theorem enterState_orderly (new : StationState) (s : State) : Orderly s (enterState new s) := by
  by_cases same : s.station.state = new
  · rw [enterState_same same]; exact .refl s
  · rw [enterState_other same]
    exact (entered_orderly new s).trans (quenchOnState_orderly new _)

theorem withAdoption_orderly (a : Adoption) (s : State) :
    Orderly s { s with station := { s.station with adoption := a } } :=
  .of_station (withStation_frame _ s) id id

/-! ### The Recital Unit (R126 to R134) -/

theorem offerRequest_orderly (s : State) : Orderly s (offerRequest s) := by
  unfold offerRequest
  split
  · exact .refl s
  · exact (offer_orderly _ s).trans (.of_frame (withReceiving_frame _ _))

theorem askRecital_orderly (o : RecvOrigin) (k : Nat) (s : State) : Orderly s (askRecital o k s) := by
  unfold askRecital
  split
  · exact .refl s
  · exact (Orderly.of_frame (withAttempt_frame _ _ s)).trans (offerRequest_orderly _)

theorem roundFailed_orderly (o : RecvOrigin) (s : State) : Orderly s (roundFailed o s) := by
  cases o with
  | joining => exact enterState_orderly _ s
  | missedEntry => exact .refl s
  | discord => exact .refl s

theorem failAttempt_orderly (c : AttemptCause) (s : State) : Orderly s (failAttempt c s) := by
  simp only [failAttempt]
  split
  · exact .refl s
  · split
    · exact (Orderly.of_frame (withAttempt_frame _ _ s)).trans (offerRequest_orderly _)
    · exact ((Orderly.of_frame (withReceiving_frame none s)).trans (raise_orderly _ _)).trans (roundFailed_orderly _ _)

theorem offerRecitalFrame_orderly (s : State) : Orderly s (offerRecitalFrame s) := by
  unfold offerRecitalFrame
  split
  · exact .refl s
  · exact .ite ((offer_orderly _ s).trans (.of_frame (withSending_frame _ _)))
      ((offer_orderly _ s).trans (.of_frame (recitalOfferFailed_frame _)))

theorem startRecital_orderly (audience : StationSet) (s : State) : Orderly s (startRecital audience s) :=
  (Orderly.of_frame (withRecital_frame _ _ s)).trans (offerRecitalFrame_orderly _)

/-! ### The Agreement Engine (R31, R84 to R97) -/

theorem offerPropose_orderly (r : Record) (s : State) : Orderly s (offerPropose r s) :=
  (offer_orderly _ s).trans (.of_frame (setMark_frame _ _ _))

theorem offerRatify_orderly (id : Ident) (set : StationSet) (s : State) : Orderly s (offerRatify id set s) :=
  (offer_orderly _ s).trans (.of_frame (setMark_frame _ _ _))

theorem lapseOvertaken_orderly (id : Ident) (s : State) : Orderly s (lapseOvertaken id s) :=
  .foldl (fun t w => freeEntry_orderly w _ t) _ s

theorem withdrawTarget_orderly (a b : Ident) (s : State) : Orderly s (withdrawTarget a b s) := by
  unfold withdrawTarget
  split
  · exact .refl s
  · exact .ite (raise_orderly _ s) (freeEntry_orderly _ _ s)

theorem ratifyClaim_orderly (e : Entry) (set : StationSet) (s : State) : Orderly s (ratifyClaim e set s) := by
  unfold ratifyClaim
  split
  · exact (Orderly.of_frame (setScale_frame _ _ s)).trans (freeExecuted_orderly _ _ _)
  · exact (withdrawTarget_orderly _ _ s).trans (freeExecuted_orderly _ _ _)
  · exact .ite ((Orderly.of_frame (modify_frame _ _ s)).trans (raise_orderly _ _)) (freeEntry_orderly _ _ s)

theorem ratifyOwn_orderly (id : Ident) (s : State) : Orderly s (ratifyOwn id s) := by
  unfold ratifyOwn
  split
  · exact .refl s
  next e _ =>
    have claimed := ratifyClaim_orderly e e.endorsers s
    exact .ite
      (.ite claimed (.ite (.ite (claimed.trans (offerRatify_orderly _ _ _))
        (claimed.trans (.of_frame (setMark_frame _ _ _)))) claimed))
      (.ite ((Orderly.ite (.refl s) (offer_orderly _ s)).trans (ratifyClaim_orderly _ _ _)) (.refl s))

theorem addEndorsers_orderly (id : Ident) (set : StationSet) (s : State) : Orderly s (addEndorsers id set s) := by
  unfold addEndorsers
  split
  · exact .refl s
  · have added (f : Entry → Entry) := Orderly.of_frame (modify_frame id f s)
    exact .ite (.refl s) (.ite ((added _).trans (ratifyOwn_orderly _ _)) (added _))

theorem retestQuorum_orderly (s : State) : Orderly s (retestQuorum s) :=
  .ite (.foldl (fun t id => ratifyOwn_orderly id t) _ s) (.refl s)

theorem reofferRatify_orderly (s : State) : Orderly s (reofferRatify s) := by
  refine .ite (.foldl (fun t id => ?_) _ s) (.refl s)
  split
  · exact offerRatify_orderly _ _ t
  · exact .refl t

theorem reofferPropose_orderly (s : State) : Orderly s (reofferPropose s) := by
  refine .ite (.foldl (fun t id => ?_) _ s) (.refl s)
  split
  · exact offerPropose_orderly _ t
  · exact .refl t

theorem expireEntry_orderly (id : Ident) (s : State) : Orderly s (expireEntry id s) := by
  unfold expireEntry
  split
  · exact .ite (freeEntry_orderly _ _ s) (.refl s)
  · exact .refl s

/-! ### The merge of recital records (R132 to R138) -/

theorem tally_orderly (f : Tallies → Tallies) (s : State) : Orderly s (tally f s) := .of_frame (tally_frame f s)

theorem skipConflict_orderly (r : Record) (s : State) : Orderly s (skipConflict r s) :=
  ((raise_orderly _ s).trans (.of_frame (drawn_frame _))).trans (tally_orderly _ _)

theorem advanceEntry_orderly (rr : RecitalRecord) (s : State) : Orderly s (advanceEntry rr s) := by
  have advanced (f : Entry → Entry) (n : Notice) : Orderly s (raise n (s.modify rr.record.id f)) :=
    (Orderly.of_frame (modify_frame _ f s)).trans (raise_orderly n _)
  exact (Orderly.ite ((advanced _ _).trans (lapseOvertaken_orderly _ _)) (advanced _ _)).trans (tally_orderly _ _)

theorem insertRecord_orderly (rr : RecitalRecord) (s : State) : Orderly s (insertRecord rr s) := by
  have stored := storeEntry_orderly rr.record (insertionState s rr) rr.endorsers []
    (if insertionState s rr = .proposed then some (s.clock.label + rr.remaining) else none) .none .merge s
  exact (Orderly.ite (stored.trans (lapseOvertaken_orderly _ _)) stored).trans (tally_orderly _ _)

theorem mergeRecord_orderly (rr : RecitalRecord) (s : State) : Orderly s (mergeRecord rr s) := by
  have recovered := Orderly.of_frame (recoverSequences_frame rr.record s)
  unfold mergeRecord
  dsimp only
  split
  next e _ =>
    exact recovered.trans (.ite (.ite (tally_orderly _ _) (.ite (advanceEntry_orderly _ _) (skipConflict_orderly _ _)))
      (.ite ((tally_orderly _ _).trans (addEndorsers_orderly _ _ _)) (tally_orderly _ _)))
  next =>
    have skipped := tally_orderly Tallies.skip (recoverSequences rr.record s)
    exact recovered.trans (.ite skipped (.ite skipped (.ite skipped (.ite (skipConflict_orderly _ _)
      (.ite (failAttempt_orderly _ _) (insertRecord_orderly _ _))))))

theorem recitalDone_orderly (source : Nat) (s : State) : Orderly s (recitalDone source s) := by
  unfold recitalDone
  split
  · exact .refl s
  next c _ =>
    have done : Orderly s (raise (.recitalDone source c.origin c.tallies) { s with receiving := none }) :=
      (Orderly.of_frame (withReceiving_frame none s)).trans (raise_orderly _ _)
    dsimp only
    split
    · exact done.trans (enterState_orderly _ _)
    · exact done

theorem takeInOrder_orderly (k : FrameKind) (p : Nat) (b : List Byte) (c : RecvCtx) (n : Nat) (s : State) :
    Orderly s (takeInOrder k p b c n s) := by
  unfold takeInOrder
  split
  · exact (raise_orderly _ s).trans (failAttempt_orderly _ _)
  · have taken (c : RecvCtx) := Orderly.of_frame (withReceiving_frame (some c) s)
    dsimp only
    split
    · exact taken _
    · exact (taken _).trans (mergeRecord_orderly _ _)
    · exact (taken _).trans (.ite ((adoptScales_orderly _ _).trans (recitalDone_orderly _ _)) (failAttempt_orderly _ _))

theorem takeRecitalFrame_orderly (k : FrameKind) (p : Nat) (b : List Byte) (s : State) :
    Orderly s (takeRecitalFrame k p b s) := by
  unfold takeRecitalFrame
  split
  · exact .refl s
  · refine .ite (.refl s) ?_
    dsimp only
    split
    · exact .ite ((Orderly.of_frame (withReceiving_frame _ s)).trans (takeInOrder_orderly _ _ _ _ _ _)) (.refl s)
    · exact .ite (.refl s) (.ite (takeInOrder_orderly _ _ _ _ _ s) (failAttempt_orderly _ s))

/-! ### The Apply Unit (R142 to R149) -/

theorem completeEntry_orderly (c : ScaleChange) (e : Entry) (s : State) : Orderly s (completeEntry c e s) :=
  (Orderly.of_frame (handChange_frame _ _ _ _ s)).trans (freeEntry_orderly _ _ _)

theorem actWhenDue_orderly (e : Entry) (n : Nat) (s : State) : Orderly s (actWhenDue e n s) := by
  unfold actWhenDue
  split
  · exact .ite (.of_frame (handChange_frame _ _ _ _ s)) (.ite (completeEntry_orderly _ _ s) (.refl s))
  · exact .ite (completeEntry_orderly _ _ s) (.refl s)
  · exact .ite (completeEntry_orderly _ _ s) (.refl s)
  · exact .refl s

theorem applyEntry_orderly (id : Ident) (s : State) : Orderly s (applyEntry id s) := by
  unfold applyEntry
  split
  · exact .refl s
  · split
    · exact .refl s
    · split
      · exact .refl s
      · have entered : Orderly s (enterApplying id s) :=
          (Orderly.of_frame (modify_frame _ _ s)).trans (lapseOvertaken_orderly _ _)
        exact .ite (entered.trans (actWhenDue_orderly _ _ _)) (.refl s)
      · exact actWhenDue_orderly _ _ s

theorem applyPass_orderly (s : State) : Orderly s (applyPass s) :=
  .ite (.refl s) (((Orderly.of_frame (clearChanges_frame s)).trans (.foldl (fun t id => applyEntry_orderly id t) _ _)).trans
    (.of_frame (formReport_frame _)))

end

end Sys2Proof.Machine
end

section
/-! SUPPORT. The Station Controller and the boundary leave outputs, notices and the station's counts orderly (R105, R117,
R118, R167, R168, R191). -/

namespace Sys2Proof.Machine

set_option Elab.async false

/-! ### The Station Controller (R108 to R122) -/

theorem changeSlot_orderly (p : Nat) (sl : Slot) (c : PeerCause) (s : State) : Orderly s (changeSlot p sl c s) := by
  have set := Orderly.of_frame (setSlot_frame p sl s)
  exact .ite set (set.trans (raise_orderly _ _))

theorem reportSender_orderly (p : Nat) (s : State) : Orderly s (reportSender p s) :=
  .ite (changeSlot_orderly _ _ _ s) (.refl s)

theorem advanceSilences_orderly (s : State) : Orderly s (advanceSilences s) :=
  .foldl (fun t p => .ite ((Orderly.of_frame (setSlot_frame _ _ t)).trans (changeSlot_orderly _ _ _ _)) (.refl t)) _ s

theorem evaluatePlan_orderly (s : State) : Orderly s (evaluatePlan s) :=
  .ite ((raise_orderly _ s).trans (enterState_orderly _ _)) (.refl s)

theorem armAdoption_orderly (s : State) : Orderly s (armAdoption s) := by
  refine .ite ?_ (.refl s)
  split
  · exact withAdoption_orderly _ s
  · exact withAdoption_orderly _ s
  · exact .refl s

theorem evaluateLabel_orderly (s : State) : Orderly s (evaluateLabel s) :=
  .ite (.ite (((raise_orderly _ s).trans (enterState_orderly _ _)).trans (armAdoption_orderly _))
    (.ite (armAdoption_orderly s) (.refl s))) (.ite (enterState_orderly _ s) (.refl s))

/-- The history keeps the two most recent results (R117). -/
theorem appendResult_length (history : List EvalResult) (r : EvalResult) : (appendResult history r).length ≤ 2 := by
  simp only [appendResult, List.length_drop]
  omega

theorem evaluateDiscord_orderly (s : State) : Orderly s (evaluateDiscord s) := by
  unfold evaluateDiscord
  dsimp only
  generalize (if evaluationLost (discordSides s).1 (discordSides s).2 = true then EvalResult.lost else .won) = r
  have appended : Orderly s { s with station := { s.station with history := appendResult s.station.history r } } :=
    .of_station (withStation_frame _ s) (fun _ => appendResult_length _ _) id
  refine .ite ?_ appended
  split
  next p _ _ =>
    have asked := askRecital_orderly .discord p
      { s with station := { s.station with history := appendResult s.station.history r } }
    exact (appended.trans asked).trans (.of_station (withStation_frame _ _) (fun _ => Nat.zero_le _) fun h => by
      rwa [(askRecital_frame .discord p _).station] at h)
  next => exact appended

theorem endListening_orderly (s : State) : Orderly s (endListening s) := by
  unfold endListening
  split
  · exact (enterState_orderly _ s).trans (askRecital_orderly _ _ _)
  · exact enterState_orderly _ s

theorem endListeningIfDue_orderly (s : State) : Orderly s (endListeningIfDue s) :=
  .ite (endListening_orderly s) (.refl s)

/-- The end of listening takes the station out of JOINING. -/
theorem endListening_state (s : State) : (endListening s).station.state ≠ .joining := by
  unfold endListening
  split
  · rw [(askRecital_frame _ _ _).station, enterState_state]; decide
  · rw [enterState_state, State.attState]; split <;> decide

/-- A listen count that comes to 3 ends listening in the same step (R119). -/
theorem advanceListening_orderly (s : State) : Orderly s (advanceListening s) := by
  unfold advanceListening
  split
  next joining =>
    unfold endListeningIfDue
    split
    next =>
      have ended := endListening_orderly { s with station := { s.station with listen := s.station.listen + 1 } }
      exact ⟨ended.outputs, ended.notices, ended.history, fun _ joins => absurd joins (endListening_state _)⟩
    next early =>
      refine .of_station (withStation_frame _ s) id fun _ _ => ?_
      simp only [joining, true_and] at early
      dsimp only
      omega
  next => exact .refl s

theorem offerBeacon_orderly (s : State) : Orderly s (offerBeacon s) := .ite (offer_orderly _ s) (.refl s)

theorem requestIfDue_orderly (s : State) : Orderly s (requestIfDue s) := by
  unfold requestIfDue
  split
  next v _ =>
    have asked : ChangesOnly [.clock] s
        { s with clock := { s.clock with pendingLabel := some { value := v, origin := .adoption } } } := by
      intro p hp; cases p <;> first | rfl | simp at hp
    exact (Orderly.of_frame asked).trans (withAdoption_orderly _ _)
  next => exact .refl s

theorem advanceAdoption_orderly (s : State) : Orderly s (advanceAdoption s) := by
  unfold advanceAdoption
  split
  · exact (withAdoption_orderly _ s).trans (requestIfDue_orderly _)
  · exact .refl s

theorem meetBeacon_orderly (new : Slot) (label : Nat) (s : State) : Orderly s (meetBeacon new label s) := by
  unfold meetBeacon
  split
  · exact .ite ((withAdoption_orderly _ s).trans (requestIfDue_orderly _)) (.refl s)
  · exact .refl s

theorem takeBeacon_orderly (sender : Nat) (body : List Byte) (s : State) : Orderly s (takeBeacon sender body s) := by
  unfold takeBeacon
  split
  · exact raise_orderly _ s
  · exact (changeSlot_orderly _ _ _ s).trans (meetBeacon_orderly _ _ _)

/-- The station listens afresh. -/
theorem relisten_orderly (s : State) : Orderly s { s with station := { s.station with listen := 0 } } :=
  .of_station (withStation_frame _ s) id fun _ _ => Nat.zero_le _

theorem afterAdoption_orderly (s : State) : Orderly s (afterAdoption s) := by
  unfold afterAdoption
  split
  · exact enterState_orderly _ s
  · exact relisten_orderly s
  · exact .refl s

theorem takeReport_orderly (rep : LabelReport) (s : State) : Orderly s (takeReport rep s) := by
  have cleared (t : State) : Orderly t (clearAdoption t) := withAdoption_orderly _ t
  unfold takeReport
  split
  · exact ((Orderly.foldl (fun t p => changeSlot_orderly p _ _ t) _ s).trans (cleared _)).trans (afterAdoption_orderly _)
  · exact cleared s
  · exact .refl s

theorem beaconWork_orderly (s : State) : Orderly s (beaconWork s) :=
  (((((advanceSilences_orderly s).trans (evaluatePlan_orderly _)).trans (evaluateLabel_orderly _)).trans
    (evaluateDiscord_orderly _)).trans (advanceListening_orderly _)).trans (offerBeacon_orderly _)

theorem stationWork_orderly (rep : LabelReport) (s : State) : Orderly s (stationWork rep s) := by
  have counted := ((Orderly.of_frame (aged_frame s)).trans (takeReport_orderly rep _)).trans (advanceAdoption_orderly _)
  exact .ite (.refl s) (.ite (counted.trans (beaconWork_orderly _)) counted)

theorem joinAfterReset_orderly (s : State) : Orderly s (joinAfterReset s) := by
  unfold joinAfterReset
  split
  · exact .refl s
  · exact (enterState_orderly _ s).trans (relisten_orderly _)

theorem lineReset_orderly (source : ResetSource) (s : State) : Orderly s (lineReset source s) := by
  have units : Orderly s
      { s with
        table := s.table.lineReset
        line := s.line.lineReset
        sending := none
        receiving := none
        roster := Vector.replicate 16 Slot.absent
        station := s.station.lineReset } := by
    refine .of_station (ps := [.table, .line, .sending, .receiving, .roster, .station]) (fun p hp => ?_)
      (fun _ => Nat.zero_le _) id
    cases p <;> first | rfl | simp at hp
  exact .ite (.refl s) ((units.trans (joinAfterReset_orderly _)).trans (raise_orderly _ _))

/-! ### The boundary (R2 to R8) -/

theorem takeLabel_orderly (b : Bool) (s : State) : Orderly s (takeLabel b s).2 := by
  have labelled (v : Nat) : Orderly s (s.withLabel v) := .of_parts rfl rfl rfl
  unfold takeLabel
  dsimp only
  split
  · exact labelled _
  · exact labelled _
  · split
    · exact labelled _
    · exact ((labelled _).trans (.of_frame (drawn_frame _))).trans (raise_orderly _ _)

theorem reofferRecital_orderly (s : State) : Orderly s (reofferRecital s) := by
  unfold reofferRecital
  split
  · exact .ite (offerRecitalFrame_orderly s) (.refl s)
  · exact .refl s

theorem timeoutIfDue_orderly (s : State) : Orderly s (timeoutIfDue s) := by
  unfold timeoutIfDue
  split
  · exact .ite (failAttempt_orderly _ s) (.refl s)
  · exact .refl s

theorem receiveWork_orderly (s : State) : Orderly s (receiveWork s) := by
  unfold receiveWork
  split
  · exact .refl s
  · have waited (c : RecvCtx) := Orderly.of_frame (withReceiving_frame (some c) s)
    exact .ite (.ite ((waited _).trans (failAttempt_orderly _ _))
      (.ite ((waited _).trans (offerRequest_orderly _)) (waited _))) (.refl s)

theorem runStage_orderly (rep : LabelReport) (st : Stage) (s : State) : Orderly s (runStage rep st s) := by
  cases st with
  | apply => exact applyPass_orderly s
  | expiry => exact .foldl (fun t id => expireEntry_orderly id t) _ s
  | station => exact stationWork_orderly rep s
  | retest => exact retestQuorum_orderly s
  | ratifyOffers => exact reofferRatify_orderly s
  | proposeOffers => exact reofferPropose_orderly s
  | recitalSend => exact reofferRecital_orderly s
  | recitalReceive => exact receiveWork_orderly s

theorem boundary_orderly (ord : BoundaryOrder) (c : Clock) (s : State) : Orderly s (boundary ord (s.setClock c)) := by
  have labelled := (Orderly.of_frame (setClock_frame c s)).trans (takeLabel_orderly ord.passBeforeTest (s.setClock c))
  exact (((labelled.trans (.of_frame (moveWindows_frame _ _))).trans
    (.foldl (fun t st => runStage_orderly _ st t) _ _)).trans (realignIfAdopted_orderly _ _)).trans
    (outputsBoundary_orderly _)

theorem secinEdge_orderly (ord : BoundaryOrder) (s : State) : Orderly s (secinEdge ord s) := by
  refine .ite (.ite ?_ (boundary_orderly ord _ s)) (boundary_orderly ord _ s)
  unfold spuriousEdge
  dsimp only
  split
  · exact raise_orderly _ s
  · exact .ite ((boundary_orderly ord _ s).trans (raise_orderly _ _))
      ((Orderly.of_frame (setClock_frame _ s)).trans (raise_orderly _ _))

theorem substitutedBoundary_orderly (ord : BoundaryOrder) (s : State) : Orderly s (substitutedBoundary ord s) :=
  .ite ((boundary_orderly ord _ s).trans (raise_orderly _ _)) (.refl s)

end Sys2Proof.Machine
end

section
/-! SUPPORT. The proposals, the line, the frames and the commands leave outputs, notices and the station's counts orderly
along every step (R105, R117, R118, R167, R168, R191). -/

namespace Sys2Proof.Machine

set_option Elab.async false

section
variable {s t : State}

/-! ### Verdicts and local proposals (R83 to R88) -/

theorem raiseFlagged_orderly (id : Ident) (flags : List CfgRule) (s : State) : Orderly s (raiseFlagged id flags s) :=
  .ite (.refl s) (raise_orderly _ s)

theorem rejectProposal_orderly (id : Ident) (r : Reason) (s : State) : Orderly s (rejectProposal id r s) :=
  .ite (offer_orderly _ s) (.refl s)

theorem storeProposal_orderly (r : Record) (flags : List CfgRule) (s : State) : Orderly s (storeProposal r flags s) := by
  have stored := (storeEntry_orderly r .proposed (receivedEndorsers s r.id.proposer) flags
    (some (s.clock.label + s.plan.e + 2)) .none .line s).trans (raiseFlagged_orderly r.id flags _)
  exact .ite (stored.trans (offer_orderly _ _)) stored

theorem takeVerdict_orderly (r : Record) (v : Verdict) (s : State) : Orderly s (takeVerdict r v s) := by
  refine .ite (.refl s) ?_
  split
  · exact rejectProposal_orderly _ _ s
  · split
    · exact rejectProposal_orderly _ _ s
    · exact storeProposal_orderly _ _ s

theorem respond_orderly (code : Byte) (st : Status) (r : Nat) (d : Data) (s : State) :
    Orderly s (respond code st r d s) := .of_frame (respond_frame code st r d s)

theorem storeOwn_orderly (r : Record) (flags : List CfgRule) (s : State) : Orderly s (storeOwn r flags s) :=
  ((storeEntry_orderly _ _ _ _ _ _ _ s).trans (.of_frame (setSeq_frame _ _))).trans (raiseFlagged_orderly _ _ _)

theorem announce_orderly (whole : Bool) (code : Byte) (r : Record) (flags : List CfgRule) (s : State) :
    Orderly s (announce whole code r flags s) :=
  .ite ((Orderly.ite (ratifyOwn_orderly _ s) (.of_frame (claiming_frame _ s))).trans (respond_orderly _ _ _ _ _))
    ((offerPropose_orderly r s).trans (respond_orderly _ _ _ _ _))

theorem takeOwnVerdict_orderly (whole : Bool) (code : Byte) (r : Record) (v : Verdict) (s : State) :
    Orderly s (takeOwnVerdict whole code r v s) := by
  refine .ite (respond_orderly _ _ _ _ s) ?_
  split
  · exact .of_frame (refuseProposal_frame _ _ s)
  · split
    · exact .of_frame (refuseProposal_frame _ _ s)
    · exact (storeOwn_orderly _ _ s).trans (announce_orderly _ _ _ _ _)

theorem proposeOwn_orderly (w : VerdictTime) (code : Byte) (mk : Option (Word → Record)) (s : State) :
    Orderly s (proposeOwn w code mk s) := by
  refine .ite (respond_orderly _ _ _ _ s) ?_
  split
  · exact respond_orderly _ _ _ _ s
  · have found := Orderly.of_frame (setSeq_frame (freeSequence s s.held s.table.nextSeq) s)
    refine .ite (found.trans ?_) (respond_orderly _ _ _ _ s)
    cases w with
    | atOnce => exact takeOwnVerdict_orderly _ _ _ _ _
    | stored => exact takeOwnVerdict_orderly _ _ _ _ _
    | later => exact (Orderly.of_frame (emptied_frame _)).trans (.of_frame (awaiting_frame _ _))

theorem take_orderly (v : PendingVerdict) (s : State) : Orderly s (v.take s) := by
  cases v with
  | line r v => exact takeVerdict_orderly r v s
  | port code r v => exact takeOwnVerdict_orderly _ code r v s
  | ratify id =>
    change Orderly s (ratifyStored id s)
    unfold ratifyStored
    split
    · exact .ite (ratifyOwn_orderly id s) (.refl s)
    · exact .refl s

/-! ### The line (R66 to R75) -/

theorem reportSent_orderly (f : Frame) (s : State) : Orderly s (reportSent s f) := by
  unfold reportSent
  split
  · exact .of_frame (moveMark_frame _ _ _ s)
  · exact .of_frame (moveMark_frame _ _ _ s)
  · exact .of_frame (setRequest_frame _ _ s)
  · refine .ite ?_ (.refl s)
    unfold recitalFrameSent
    split
    · exact .refl s
    · exact (Orderly.of_frame (withSending_frame _ s)).trans (offerRecitalFrame_orderly _)
  · refine .ite ?_ (.refl s)
    unfold recitalEnded
    split
    · exact .refl s
    · exact .ite (.of_frame (withSending_frame _ s))
        ((Orderly.of_frame (withSending_frame none s)).trans (startRecital_orderly _ _))
  · exact .refl s

/-- The line and the queue replaced. -/
theorem withLine_orderly (l : Line) (q : List Frame) (s : State) : Orderly s ((s.setLine l).setQueue q) :=
  (Orderly.of_frame (setLine_frame l s)).trans (.of_frame (setQueue_frame q _))

theorem frameSent_orderly (s : State) : Orderly s (frameSent s) := by
  unfold frameSent
  split
  · refine .ite ?_ (.refl s)
    unfold unlessSilent
    split
    · exact withLine_orderly _ _ s
    · exact (withLine_orderly _ _ s).trans (reportSent_orderly _ _)
  · exact .refl s

theorem abandonFrame_orderly (f : Frame) (s : State) : Orderly s (abandonFrame f s) :=
  (Orderly.of_frame (reportAbandoned_frame f s)).trans (raise_orderly _ _)

theorem clashNow_orderly (s : State) : Orderly s (clashNow s) := by
  unfold clashNow
  split
  · refine .ite ?_ (.refl s)
    dsimp only
    split
    · exact withLine_orderly _ _ s
    · exact (withLine_orderly _ _ s).trans (.of_frame (reportPurged_frame _ _))
    · exact .ite ((withLine_orderly _ _ s).trans (abandonFrame_orderly _ _)) (withLine_orderly _ _ s)
  · exact .refl s

theorem abandonNow_orderly (s : State) : Orderly s (abandonNow s) := by
  refine .ite ?_ (.ite (clashNow_orderly s) (.refl s))
  unfold abandonStanding
  split
  · exact (Orderly.of_frame (setQueue_frame _ s)).trans (abandonFrame_orderly _ _)
  · exact .refl s

/-! ### Received frames (R65 to R68, R82 to R95, R127) -/

theorem discardFrame_orderly (cause : RxCause) (whole : Bool) (p k n : Nat) (s : State) :
    Orderly s (discardFrame cause whole p k n s) :=
  (Orderly.of_frame (setLine_frame _ s)).trans (raise_orderly _ _)

theorem takePropose_orderly (w : VerdictTime) (p : Nat) (b : List Byte) (s : State) :
    Orderly s (takePropose w p b s) := by
  refine .ite (.refl s) ?_
  split
  · exact raise_orderly _ s
  · refine .ite ?_ (raise_orderly _ s)
    cases w with
    | atOnce => exact takeVerdict_orderly _ _ s
    | stored => exact takeVerdict_orderly _ _ s
    | later => exact .of_frame (awaiting_frame _ s)

theorem takeEndorse_orderly (p : Nat) (b : List Byte) (s : State) : Orderly s (takeEndorse p b s) := by
  refine .ite (.refl s) ?_
  split
  · exact .ite (addEndorsers_orderly _ _ s) (.refl s)
  · exact .refl s

theorem takeObject_orderly (p : Nat) (b : List Byte) (s : State) : Orderly s (takeObject p b s) := by
  refine .ite (.refl s) ?_
  split
  · exact raise_orderly _ s
  · split
    · exact .refl s
    · exact .ite (freeEntry_orderly _ _ s) (raise_orderly _ s)

theorem takeRatify_orderly (p : Nat) (b : List Byte) (s : State) : Orderly s (takeRatify p b s) := by
  refine .ite (.refl s) ?_
  dsimp only
  split
  · exact raise_orderly _ s
  · split
    · exact .ite ((raise_orderly _ s).trans (askRecital_orderly _ _ _)) (raise_orderly _ s)
    · exact .ite (ratifyClaim_orderly _ _ s) (.refl s)

theorem takeReciteReq_orderly (p : Nat) (b : List Byte) (s : State) : Orderly s (takeReciteReq p b s) := by
  refine .ite (raise_orderly _ s) (.ite (.refl s) ?_)
  unfold placeRequester
  split
  · exact startRecital_orderly _ s
  · exact .of_frame (withSending_frame _ s)

theorem deliver_orderly (w : VerdictTime) (k : FrameKind) (p : Nat) (b : List Byte) (s : State) :
    Orderly s (deliver w k p b s) := by
  cases k with
  | beacon => exact takeBeacon_orderly p b s
  | propose => exact takePropose_orderly w p b s
  | endorse => exact takeEndorse_orderly p b s
  | object => exact takeObject_orderly p b s
  | ratify => exact takeRatify_orderly p b s
  | reciteReq => exact takeReciteReq_orderly p b s
  | recital => exact takeRecitalFrame_orderly _ p b s
  | scaleState => exact takeRecitalFrame_orderly _ p b s

theorem handOn_orderly (w : VerdictTime) (k : FrameKind) (p : Nat) (b : List Byte) (s : State) :
    Orderly s (handOn w k p b s) :=
  ((Orderly.of_frame (setLine_frame _ s)).trans (reportSender_orderly p _)).trans (deliver_orderly w k p b _)

theorem receiveTyped_orderly (w : VerdictTime) (k : FrameKind) (p : Nat) (b : List Byte) (s : State) :
    Orderly s (receiveTyped w k p b s) := by
  refine .ite ?_ (.refl s)
  split
  · exact discardFrame_orderly _ _ _ _ _ s
  · exact handOn_orderly w k p b s

theorem receiveRaw_orderly (f : RawFrame) (s : State) : Orderly s (receiveRaw f s) := by
  refine .ite ?_ (.refl s)
  split
  · exact discardFrame_orderly _ _ _ _ _ s
  · exact handOn_orderly _ _ _ _ s

/-! ### The request port and the pins (R121, R122, R156, R160, R165 to R168, R186, R187, R192) -/

/-- A configuration request that is taken changes the part as its arguments give, and answers. -/
theorem configure_orderly {change : Option (State → State)} (h : ∀ f ∈ change, ∀ s, Orderly s (f s)) (code : Byte)
    (s : State) : Orderly s (configure code change s) := by
  refine .ite (respond_orderly _ _ _ _ s) ?_
  split
  · exact respond_orderly _ _ _ _ s
  · exact (h _ rfl s).trans (respond_orderly _ _ _ _ _)

theorem execBindOutput_orderly (n k p : Byte) (w x : BitVec 24) (y : Byte) (h : execBindOutput n k p w x y s = .next t) :
    Orderly s t := by
  refine of_next h (configure_orderly (fun f hf u => ?_) 3 s)
  split at hf
  · obtain rfl := Option.mem_some.1 hf
    exact setOutput_orderly fun sound => sound
  · simp at hf

theorem execSetNoticeLevels_orderly (k l : Byte) (h : execSetNoticeLevels k l s = .next t) : Orderly s t := by
  refine of_next h (configure_orderly (fun f hf u => ?_) 6 s)
  have levels {ns : Notices} (pending : ns.pending = u.notices.pending) : Orderly u { u with notices := ns } := by
    refine .of_notices (ps := [.notices]) (fun p hp => ?_) fun bounded => by rwa [NoticesBounded, pending]
    cases p <;> first | rfl | simp at hp
  split at hf
  · simp at hf
  · split at hf <;> obtain rfl := Option.mem_some.1 hf <;> exact levels rfl

theorem execTakeNotice_orderly (h : execTakeNotice s = .next t) : Orderly s t := by
  refine of_next h (Orderly.trans (.of_notices (ps := [.notices]) (fun p hp => ?_) fun bounded => ?_)
    (respond_orderly _ _ _ _ _))
  · cases p <;> first | rfl | simp at hp
  · change noticesOk s.notices.taken.pending
    unfold Notices.taken
    split
    · exact bounded
    · exact ⟨bounded.1.sublist (List.filter_sublist.map _), fun p hp => bounded.2 p (List.mem_of_mem_filter hp)⟩

theorem execSetWidth_orderly (n : Byte) (w : BitVec 24) (h : execSetWidth n w s = .next t) : Orderly s t := by
  have answer (st : Status) : Orderly s (refuse 48 st s) := respond_orderly _ _ _ _ s
  unfold execSetWidth at h
  split at h
  · exact of_next h (answer _)
  · split at h
    · exact of_next h (answer _)
    next i _ =>
      have written : Orderly s (s.setOutput i { s.outputs[i] with nextWidth := w.toNat }) :=
        setOutput_orderly fun sound => sound
      split at h
      · exact of_next h (written.trans (respond_orderly _ _ _ _ _))
      · exact of_next h (answer _)

/-- A release is set pending on a quenched output alone (R168). -/
theorem execReleaseOutput_orderly (n : Byte) (h : execReleaseOutput n s = .next t) : Orderly s t := by
  have answer (st : Status) : Orderly s (respond 49 st 0 .none s) := respond_orderly _ _ _ _ s
  unfold execReleaseOutput at h
  split at h
  · exact of_next h (answer _)
  · split at h
    · exact of_next h (answer _)
    next i _ =>
      split at h
      · exact of_next h (answer _)
      · split at h
        · exact of_next h (answer _)
        next quenched =>
          split at h
          · exact of_next h (answer _)
          · have pending : Orderly s (s.setOutput i { s.outputs[i] with releasePending := true }) :=
              setOutput_orderly fun sound => ⟨sound.1, fun _ => by simpa using quenched⟩
            exact of_next h (pending.trans (respond_orderly _ _ _ _ _))

theorem quenchAtStart_orderly (g : Group) (s : State) : Orderly s (quenchAtStart g s) :=
  .ite (quenchWhere_orderly _ _ s) (.refl s)

theorem startUp_orderly (s : State) : Orderly s (startUp s) := by
  have bound : Orderly s { s with outputs := s.outputs.map Output.started } :=
    mapOutputs_orderly (g := Output.started) (fun _ sound => sound) s
  have units : Orderly { s with outputs := s.outputs.map Output.started }
      { s with
        quorum := s.plan.n / 2 + 1
        planDigest := planDigestOf s.plan s.scales
        table := { s.table with nextSeq := BitVec.ofNat 16 s.clock.label }
        station := { s.station with state := .joining, listen := 0, history := [] }
        line := s.line.toHunting 0
        outputs := s.outputs.map Output.started } := by
    refine .of_station (ps := [.quorum, .planDigest, .table, .station, .line]) (fun p hp => ?_)
      (fun _ => Nat.zero_le _) fun _ _ => Nat.zero_le _
    cases p <;> first | exact absurd (by decide) hp | rfl
  exact ((bound.trans units).trans (quenchAtStart_orderly .qa _)).trans (quenchAtStart_orderly .qb _)

theorem execStart_orderly (h : execStart s = .next t) : Orderly s t := by
  unfold execStart at h
  split at h
  · exact of_next h (respond_orderly _ _ _ _ s)
  · split at h
    · exact of_next h ((Orderly.of_frame (drawn_frame s)).trans (respond_orderly _ _ _ _ _))
    · exact of_next h ((startUp_orderly s).trans (respond_orderly _ _ _ _ _))

theorem execReset_orderly (stn : BitVec 4) (lrate : BitVec 2) (h : execReset stn lrate s = .next t) : Orderly s t := by
  obtain rfl := Host.Outcome.next.inj h
  refine ⟨fun _ n => ?_, fun _ => ⟨List.nodup_nil, by simp [State.reset, Notices.reset]⟩, fun _ => Nat.zero_le _,
    fun _ joining => by cases joining⟩
  have silent : (State.reset.outputs)[n] = Output.reset := by simp [State.reset]
  change outputSound State.reset.outputs[n]
  rw [silent]
  decide

theorem execAttChange_orderly (high : Bool) (h : execAttChange high s = .next t) : Orderly s t := by
  have level : Orderly s { s with pins := { s.pins with att := high } } := .of_parts rfl rfl rfl
  unfold execAttChange at h
  dsimp only at h
  split at h
  · exact of_next h (.refl s)
  · split at h
    · exact of_next h (level.trans (enterState_orderly _ _))
    · exact of_next h (level.trans (enterState_orderly _ _))
    · exact of_next h level

theorem driveQuench_orderly (g : Group) (active : Bool) (s : State) : Orderly s (driveQuench g active s) := by
  have level := Orderly.of_frame (setQuenchLevel_frame g (active != (s.quenchCfg g).activeLow) s)
  exact .ite (level.trans (quenchWhere_orderly _ _ _)) level

theorem execRejoin_orderly (h : execRejoin s = .next t) : Orderly s t := by
  unfold execRejoin at h
  split at h
  · exact of_next h (respond_orderly _ _ _ _ s)
  · exact of_next h ((lineReset_orderly _ s).trans (respond_orderly _ _ _ _ _))

/-- A record that ends leaves none owed (R164). -/
theorem endRecord_sound {o : Output} (h : outputSound o) : outputSound o.endRecord := by
  unfold Output.endRecord
  split
  · exact h
  · exact ⟨fun set => ⟨(h.1 set).1, rfl⟩, h.2⟩

/-! ### The commands and the tick -/

theorem exec_orderly {c : Instr} (h : exec c s = .next t) : Orderly s t := by
  cases c with
  | bindOutput n k p w x y => exact execBindOutput_orderly n k p w x y h
  | setNoticeLevels k l => exact execSetNoticeLevels_orderly k l h
  | start => exact execStart_orderly h
  | proposeLeap => exact of_next h (proposeOwn_orderly _ _ _ s)
  | proposeOffset => exact of_next h (proposeOwn_orderly _ _ _ s)
  | proposeCustody => exact of_next h (proposeOwn_orderly _ _ _ s)
  | proposeWithdraw => exact of_next h (proposeOwn_orderly _ _ _ s)
  | setWidth n w => exact execSetWidth_orderly n w h
  | releaseOutput n => exact execReleaseOutput_orderly n h
  | rejoin => exact execRejoin_orderly h
  | takeNotice => exact execTakeNotice_orderly h
  | reset stn lrate => exact execReset_orderly stn lrate h
  | lreset => exact of_next h (lineReset_orderly _ s)
  | attChange high => exact execAttChange_orderly high h
  | quenchAssertion g => exact of_next h (driveQuench_orderly g true s)
  | quenchInputInactive g => exact of_next h (driveQuench_orderly g false s)
  | secinEdge ord => exact of_next h (secinEdge_orderly ord s)
  | substitutedBoundary ord => exact of_next h (substitutedBoundary_orderly ord s)
  | windowExpiry id => exact of_next h (expireEntry_orderly id s)
  | peerSilence p => exact of_next h (changeSlot_orderly _ _ _ s)
  | endOfListening => exact of_next h (endListeningIfDue_orderly s)
  | adoptionRequest => exact of_next h (requestIfDue_orderly s)
  | recitalTimeout => exact of_next h (timeoutIfDue_orderly s)
  | frameSent => exact of_next h (frameSent_orderly s)
  | clash => exact of_next h (clashNow_orderly s)
  | frameAbandoned => exact of_next h (abandonNow_orderly s)
  | rxFrameInvalid f => exact of_next h (receiveRaw_orderly f s)
  | beacon => exact of_next h (receiveTyped_orderly _ _ _ _ s)
  | propose => exact of_next h (receiveTyped_orderly _ _ _ _ s)
  | endorse => exact of_next h (receiveTyped_orderly _ _ _ _ s)
  | object => exact of_next h (receiveTyped_orderly _ _ _ _ s)
  | ratify => exact of_next h (receiveTyped_orderly _ _ _ _ s)
  | reciteReq => exact of_next h (receiveTyped_orderly _ _ _ _ s)
  | recital => exact of_next h (receiveTyped_orderly _ _ _ _ s)
  | scaleState => exact of_next h (receiveTyped_orderly _ _ _ _ s)
  | outputSecondStart n => exact of_next h (.ite (startSecond_orderly _ _ s) (.refl s))
  | pulseEnd n =>
    exact of_next h (.ite (setOutput_orderly fun sound => ⟨fun set => ⟨rfl, (sound.1 set).2⟩, sound.2⟩) (.refl s))
  | recordSent n => exact of_next h (.ite (setOutput_orderly endRecord_sound) (.refl s))
  | _ => exact .of_frame (exec_frame _ h) (by simp [touches]) (by simp [touches]) (by simp [touches])

theorem tick_orderly (s : State) : Orderly s (tick s) := by
  have advanced : Orderly s { s with outputs := s.outputs.map Output.advance } :=
    mapOutputs_orderly (g := Output.advance) (fun _ sound => sound) s
  exact advanced.trans (.of_parts rfl rfl rfl)

end

/-- Settles O60: each command, each claim and each tick leaves outputs, notices and the station's counts orderly. -/
theorem stepsKeepOutputsQuenchedAndNoticesBounded : Obligations.StepsKeepOutputsQuenchedAndNoticesBounded := by
  intro s t h
  have kept : Orderly s t := step_keeps (I := fun u => Orderly s u) (J := fun u => Orderly s u)
    (fun u v frame hu => hu.trans (.of_frame frame))
    (fun c u v hu hc => hu.trans (exec_orderly hc))
    (fun u v vs hu _ => (hu.trans (.of_frame (withVerdicts_frame vs u))).trans (take_orderly v _))
    (fun u hu _ => hu.trans (tick_orderly u)) (.refl s) h
  exact ⟨fun outputs notices => ⟨kept.outputs outputs, kept.notices notices⟩, kept.bounded⟩

end Sys2Proof.Machine
end

section
/-! SUPPORT. A change of ATT, and the end of listening: what is left by the entry to a state that quenches nothing (R78,
R118 to R121, R126, R131, R139). -/

namespace Sys2Proof.Machine

set_option Elab.async false

section
variable {s : State} {new : StationState}

/-! ### A state entered without a quench -/

theorem enterState_unquenched (adrift : new ≠ .adrift) (isolated : new ≠ .isolated) (s : State) :
    ChangesOnly [.table, .line, .station, .sending, .receiving] s (enterState new s) := by
  by_cases same : s.station.state = new
  · rw [enterState_same same]
    exact .refl _ s
  · rw [enterState_other same, quenchOnState_same adrift isolated]
    exact ((withStation_frame (s.station.entered new) s).then (rs := [.station, .sending, .receiving])
      (dropContexts_frame _ _)).then (purgeForbidden_frame _)

/-- Entering ACTIVE or LISTENING empties the history and clears the rejoin indication (R117, R122). -/
theorem entered_settles (st : Station) (settled : new.settledIn = true) :
    (st.entered new).history = [] ∧ (st.entered new).rejoin = false := by
  simp [Station.entered, settled]

/-- A queue of which every frame is permitted stays as it is. -/
theorem permittedQueue_eq {q : List Frame} (permitted : ∀ f ∈ q, kindPermitted new f.kind = true) :
    permittedQueue new q = q := by
  have all : (q.filter fun f => !(!kindPermitted new f.kind && !f.inTx)) = q :=
    List.filter_eq_self.2 fun f hf => by simp [permitted f hf]
  rw [permittedQueue, all]
  exact (List.map_congr_left fun f hf => if_neg (by simp [permitted f hf])).trans (List.map_id' q)

/-- Where every frame is permitted, no unit is told of a purge. -/
theorem purgeForbidden_none (permitted : ∀ f ∈ s.line.queue, kindPermitted s.station.state f.kind = true) :
    purgeForbidden s = s := by
  have kept : permittedQueue s.station.state s.line.queue = s.line.queue := permittedQueue_eq permitted
  have gone : (s.line.queue.filter fun f => !kindPermitted s.station.state f.kind && !f.inTx) = [] :=
    List.filter_eq_nil_iff.2 fun f hf => by simp [permitted f hf]
  have unqueued : purgeForbidden s =
      (s.line.queue.filter fun f => !kindPermitted s.station.state f.kind && !f.inTx).foldl reportPurged
        (s.setQueue (permittedQueue s.station.state s.line.queue)) := rfl
  rw [unqueued, gone, kept]
  rfl

/-- Nothing is purged on entering ACTIVE, in which every kind is permitted (R70, R78). -/
theorem enterState_active_keeps (s : State) :
    (enterState .active s).table = s.table ∧ (enterState .active s).line = s.line := by
  by_cases same : s.station.state = .active
  · rw [enterState_same same]
    exact ⟨rfl, rfl⟩
  · have dropped := dropContexts_frame s.station.state { s with station := s.station.entered .active }
    have state : (dropContexts s.station.state { s with station := s.station.entered .active }).station.state = .active := by
      rw [dropped.station]
      rfl
    rw [enterState_other same, quenchOnState_same (by decide) (by decide), entered,
      purgeForbidden_none fun f _ => by rw [state]; rfl]
    exact ⟨dropped.table, dropped.line⟩

/-- A queue in LISTENING, in which no kind is permitted, holds a frame in transmission alone (R70, R78). -/
theorem permittedQueue_listening {q : List Frame} {f : Frame} (h : f ∈ permittedQueue .listening q) :
    f.inTx = true ∧ f.removal ≠ .none := by
  have forbidden (g : Frame) : (!kindPermitted .listening g.kind) = true := rfl
  obtain ⟨g, hg, rfl⟩ := List.mem_map.1 h
  rw [if_pos (forbidden g)]
  have begun : g.inTx = true := by simpa [forbidden g] using (List.mem_filter.1 hg).2
  exact ⟨begun, marked_removal g⟩

/-- A station that leaves ACTIVE has no recital context (R131, R139). -/
theorem enterState_from_active (active : s.station.state = .active) (other : new ≠ .active) :
    (enterState new s).sending = none ∧ (enterState new s).receiving = none := by
  have dropped : dropContexts s.station.state { s with station := s.station.entered new } =
      { s with station := s.station.entered new, sending := none, receiving := none } := by
    rw [active]
    rfl
  rw [enterState_other (by rw [active]; exact other.symm), (quenchOnState_frame _ _).sending,
    (quenchOnState_frame _ _).receiving, entered, dropped]
  exact ⟨purgeForbidden_sending_none rfl, purgeForbidden_receiving_none rfl⟩

/-- Where a RECITE_REQ is permitted, its recital learns of no purge. -/
theorem purgeForbidden_receiving (permitted : kindPermitted s.station.state .reciteReq = true) :
    (purgeForbidden s).receiving = s.receiving := by
  refine List.foldlRecOn (motive := fun t : State => t.receiving = s.receiving) _ reportPurged rfl
    fun t ht f hf => ?_
  obtain ⟨-, -, -, receiving, -⟩ := reportPurged_told t f
  have other : f.kind ≠ .reciteReq := fun kind => by simp [kind, permitted] at hf
  rw [receiving, ← ht]
  simp [other]

/-- A JOINING station that enters RECEIVING keeps what the Recital Unit receives. -/
theorem enterState_receiving_keeps (joining : s.station.state = .joining) :
    (enterState .receiving s).receiving = s.receiving := by
  have dropped : dropContexts s.station.state { s with station := s.station.entered .receiving } =
      { s with station := s.station.entered .receiving } := by
    rw [joining]
    rfl
  rw [enterState_other (by simp [joining]), quenchOnState_same (by decide) (by decide), entered, dropped,
    purgeForbidden_receiving rfl]

/-! ### The stations whose slots pass a test -/

theorem mem_stationsWhere {p : Slot → Bool} {k : Nat} : k ∈ s.stationsWhere p ↔ k < 16 ∧ p (s.slot k) = true := by
  rw [State.stationsWhere, List.mem_filter, List.mem_range]

/-- The first station listed is the lowest. -/
theorem stationsWhere_first {p : Slot → Bool} {k : Nat} {l : List Nat} (h : s.stationsWhere p = k :: l) :
    k < 16 ∧ p (s.slot k) = true ∧ ∀ q < k, p (s.slot q) = false := by
  obtain ⟨small, passes⟩ := mem_stationsWhere.1 (h ▸ List.mem_cons_self : k ∈ s.stationsWhere p)
  refine ⟨small, passes, fun q lower => Bool.eq_false_iff.2 fun other => ?_⟩
  have sorted : (k :: l).Pairwise (· < ·) := h ▸ List.pairwise_lt_range.filter _
  have listed : q ∈ k :: l := h ▸ mem_stationsWhere.2 ⟨lower.trans small, other⟩
  obtain rfl | later := List.mem_cons.1 listed
  · exact Nat.lt_irrefl q lower
  · exact Nat.lt_asymm lower ((List.pairwise_cons.1 sorted).1 q later)

theorem stationsWhere_of_lowest {p : Slot → Bool} {k : Nat} (small : k < 16) (passes : p (s.slot k) = true)
    (lowest : ∀ q < k, p (s.slot q) = false) : ∃ l, s.stationsWhere p = k :: l := by
  have listed : k ∈ s.stationsWhere p := mem_stationsWhere.2 ⟨small, passes⟩
  cases h : s.stationsWhere p with
  | nil => simp [h] at listed
  | cons j l =>
    obtain ⟨-, first, below⟩ := stationsWhere_first h
    obtain lt | rfl | gt := Nat.lt_trichotomy j k
    · simp [lowest j lt] at first
    · exact ⟨l, rfl⟩
    · simp [below k gt] at passes

theorem stationsWhere_nil {p : Slot → Bool} (h : ∀ k < 16, p (s.slot k) = false) : s.stationsWhere p = [] :=
  List.eq_nil_iff_forall_not_mem.2 fun k hk => by
    obtain ⟨small, passes⟩ := mem_stationsWhere.1 hk
    simp [h k small] at passes

/-- An ACTIVE peer is PRESENT with a record, and counted. -/
theorem counted_activePeer (sl : Slot) : (sl.counted && sl.activePeer) = sl.activePeer := by
  unfold Slot.counted Slot.activePeer
  cases sl.record <;> cases sl.state <;> rfl

/-! ### The end of listening (R119) -/

theorem endListening_heard {p : Nat} (small : p < 16) (peer : (s.slot p).activePeer = true)
    (lowest : ∀ q < p, (s.slot q).activePeer = false) :
    endListening s = askRecital .joining p (enterState .receiving s) := by
  obtain ⟨l, first⟩ := stationsWhere_of_lowest (p := fun sl => sl.counted && sl.activePeer) small
    ((counted_activePeer _).trans peer) fun q lower => (counted_activePeer _).trans (lowest q lower)
  simp only [endListening, first]

theorem endListening_alone (alone : ∀ p < 16, (s.slot p).activePeer = false) :
    endListening s = enterState s.attState s := by
  have none := stationsWhere_nil (p := fun sl => sl.counted && sl.activePeer) fun k small =>
    (counted_activePeer _).trans (alone k small)
  simp only [endListening, none]

/-- A recital asked of the Recital Unit without a context: the context of its first attempt (R126). -/
theorem askRecital_begins (h : s.receiving = none) (origin : RecvOrigin) (k : Nat) :
    ∃ c, (askRecital origin k s).receiving = some c ∧ c.origin = origin ∧ c.target = k ∧ c.expected = 1 ∧
      c.source = none ∧ c.wait = 0 := by
  simp only [askRecital, h]
  obtain ⟨req, asked⟩ := offerRequest_receiving (s :=
    { s with
      serial := s.serial + 1
      receiving := some
        { origin := origin, target := k, req := .queued, source := none, expected := 1, total := none, wait := 0,
          tried := noStations, attempts := [], tallies := Tallies.zero, serial := s.serial } }) rfl
  exact ⟨_, asked, rfl, rfl, rfl, rfl, rfl⟩

theorem attState_unquenched (s : State) : s.attState ≠ .adrift ∧ s.attState ≠ .isolated ∧ s.attState ≠ .joining := by
  unfold State.attState
  split <;> decide

theorem attState_settledIn (s : State) : s.attState.settledIn = true := by
  unfold State.attState
  split <;> rfl

theorem endListeningIfDue_due (joining : s.station.state = .joining) (heard : 3 ≤ s.station.listen) :
    endListeningIfDue s = endListening s := if_pos ⟨joining, heard⟩

end

/-- Settles O32: an ACTIVE peer is asked for its recital in RECEIVING, and without one the station founds. -/
theorem listeningEndsByRecitalOrFounding : Obligations.ListeningEndsByRecitalOrFounding := by
  intro s
  refine ⟨fun joining heard => ?_, fun early => ?early⟩
  case early =>
    refine congrArg Host.Outcome.next (if_neg fun ⟨joining, heard⟩ => ?_)
    exact early.elim (· joining) (Nat.not_lt.2 heard)
  have ends : exec .endOfListening s = .next (endListening s) :=
    congrArg Host.Outcome.next (endListeningIfDue_due joining heard)
  rw [ends]
  refine ⟨fun p peer lowest => ⟨_, rfl, ?_⟩, fun alone => ⟨_, rfl, ?_⟩⟩
  · rw [endListening_heard p.isLt peer lowest]
    have entered := enterState_unquenched (new := .receiving) (by decide) (by decide) s
    have asked := askRecital_frame .joining p.val (enterState .receiving s)
    refine ⟨?_, fun silent => ?_, fun c held => ?_, ?_, entered.then asked⟩
    · rw [asked.station, enterState_state]
    · obtain ⟨c, begun, origin, target, expected, source, -⟩ :=
        askRecital_begins ((enterState_receiving_keeps joining).trans silent) .joining p.val
      exact ⟨c, begun, origin, target, expected, source⟩
    · exact askRecital_keeps ((enterState_receiving_keeps joining).trans held) .joining p.val
    · exact (enterState_sameButMarks _ s).trans (.of_table asked.table)
  · rw [endListening_alone fun p small => alone ⟨p, small⟩]
    obtain ⟨adrift, isolated, other⟩ := attState_unquenched s
    have founded := enterState_unquenched adrift isolated s
    have station := enterState_station (s := s) (new := s.attState) (joining ▸ other.symm)
    obtain ⟨history, rejoin⟩ := entered_settles s.station (attState_settledIn s)
    refine ⟨enterState_state _ s, station ▸ history, station ▸ rejoin, founded.scales, enterState_sameButMarks _ s,
      fun high => ?_, founded⟩
    rw [show s.attState = .active from if_pos high]
    exact enterState_active_keeps s

/-! ### A change of ATT (R121) -/

section
variable (s : State) (high : Bool)

/-- The part with the level of ATT replaced. -/
def State.setAtt : State := { s with pins := { s.pins with att := high } }

theorem setAtt_frame : ChangesOnly [.pins] s (s.setAtt high) := by
  intro p hp; cases p <;> first | rfl | simp at hp

theorem execAttChange_same (same : s.pins.att = high) : exec (.attChange high) s = .next s := if_pos same

theorem execAttChange_falls (level : s.pins.att = true) (active : s.station.state = .active) :
    exec (.attChange false) s = .next (enterState .listening (s.setAtt false)) := by
  change execAttChange false s = _
  simp only [execAttChange, level, active]
  rfl

theorem execAttChange_rises (level : s.pins.att = false) (listening : s.station.state = .listening) :
    exec (.attChange true) s = .next (enterState (riseTarget s.station.history) (s.setAtt true)) := by
  change execAttChange true s = _
  simp only [execAttChange, level, listening]
  rfl

theorem execAttChange_level (other : s.pins.att ≠ high) (falls : ¬ (s.station.state = .active ∧ high = false))
    (rises : ¬ (s.station.state = .listening ∧ high = true)) : exec (.attChange high) s = .next (s.setAtt high) := by
  change execAttChange high s = _
  simp only [execAttChange]
  rw [if_neg other]
  split
  next active => exact absurd ⟨active, rfl⟩ falls
  next listening => exact absurd ⟨listening, rfl⟩ rises
  next => rfl

/-- The entry to a state that quenches nothing, after a change of ATT. -/
theorem setAtt_enterState {new : StationState} (adrift : new ≠ .adrift) (isolated : new ≠ .isolated) :
    (enterState new (s.setAtt high)).pins = { s.pins with att := high } ∧
      ChangesOnly [.pins, .table, .line, .station, .sending, .receiving] s (enterState new (s.setAtt high)) := by
  have entered := enterState_unquenched adrift isolated (s.setAtt high)
  exact ⟨entered.pins, (setAtt_frame s high).then entered⟩

end

/-- Settles O21: by the level of ATT and the station state, the level alone changes, or a state is entered as well. -/
theorem attMovesTheStationByItsState : Obligations.AttMovesTheStationByItsState := by
  intro s
  refine ⟨execAttChange_same s, execAttChange_level s, fun level active => ?falls, fun level listening => ?rises⟩
  case falls =>
    obtain ⟨pins, frame⟩ := setAtt_enterState s false (new := .listening) (by decide) (by decide)
    have active' : (s.setAtt false).station.state = .active := active
    have other : (s.setAtt false).station.state ≠ .listening := by simp [active']
    have station := enterState_station other
    obtain ⟨history, rejoin⟩ := entered_settles (new := .listening) (s.setAtt false).station rfl
    obtain ⟨sending, receiving⟩ := enterState_from_active (new := .listening) active' (by decide)
    refine ⟨_, execAttChange_falls s level active, pins, enterState_state _ _, station ▸ history, station ▸ rejoin,
      sending, receiving, fun f hf => ?_, frame⟩
    rw [enterState_line other] at hf
    exact permittedQueue_listening hf
  case rises =>
    have target : riseTarget s.station.history = .active ∨ riseTarget s.station.history = .joining := by
      unfold riseTarget
      split <;> simp
    obtain ⟨pins, frame⟩ := setAtt_enterState s true (new := riseTarget s.station.history)
      (by obtain h | h := target <;> simp [h]) (by obtain h | h := target <;> simp [h])
    have other : (s.setAtt true).station.state ≠ riseTarget s.station.history := by
      change s.station.state ≠ _
      obtain h | h := target <;> simp [h, listening]
    have station := enterState_station other
    refine ⟨_, execAttChange_rises s level listening, pins, fun won => ?_, fun lost => ?_, frame⟩
    · rw [station, riseTarget, if_pos won]
      exact ⟨rfl, rfl⟩
    · rw [station, riseTarget, if_neg lost]
      exact ⟨rfl, rfl⟩

end Sys2Proof.Machine
end

section
/-! SUPPORT. The report of a sender, the frames that the station state discards, and the slot that a BEACON gives its sender
(R65, R68, R82, R109 to R111, R116). -/

namespace Sys2Proof.Machine

set_option Elab.async false

section
variable {s : State} {p q : Nat} {new : Slot} {cause : PeerCause} {sender : BitVec 4} {body : List Byte}

/-! ### A slot changed (R110) -/

theorem setSlot_other (other : q ≠ p) (sl : Slot) : (s.setSlot p sl).slot q = s.slot q := by
  rw [State.slot, setSlot_roster, Vector.getElem?_setIfInBounds_ne other.symm, State.slot]

theorem changeSlot_other (other : q ≠ p) (new : Slot) (cause : PeerCause) :
    (changeSlot p new cause s).slot q = s.slot q := by
  rw [← setSlot_other (s := s) other new]
  simp only [changeSlot]
  split <;> rfl

theorem changeSlot_self (small : p < 16) (new : Slot) (cause : PeerCause) : (changeSlot p new cause s).slot p = new := by
  rw [changeSlot_slot small, if_pos rfl]

theorem changeSlot_raised (changed : (s.slot p).state ≠ new.state) :
    raised (.peerChange p (s.slot p).state new.state cause) s (changeSlot p new cause s) := by
  simp only [changeSlot]
  rw [if_neg changed]
  rfl

/-! ### The report of a sender (R111) -/

theorem reportSender_fresh (silent : (s.slot p).state = .absent ∨ (s.slot p).state = .silent) :
    reportSender p s = changeSlot p { s.slot p with state := .present, silence := 0, record := none } .frame s :=
  if_pos silent

theorem reportSender_stands (absent : (s.slot p).state ≠ .absent) (silent : (s.slot p).state ≠ .silent) :
    reportSender p s = s := if_neg fun h => h.elim absent silent

/-- The part whose line has read a frame to its end. -/
def State.read (s : State) : State := s.setLine (s.line.toIdle 0)

theorem read_slot (s : State) (q : Nat) : s.read.slot q = s.slot q := slot_of_roster rfl q

theorem afterReport_eq (s : State) (sender : BitVec 4) : afterReport s sender = reportSender sender.toNat s.read := rfl

theorem afterReport_other (other : q ≠ sender.toNat) : (afterReport s sender).slot q = s.slot q := by
  rw [afterReport_eq, ← read_slot s q, reportSender]
  split
  · exact changeSlot_other other _ _
  · rfl

theorem afterReport_fresh (silent : (s.slot sender.toNat).state = .absent ∨ (s.slot sender.toNat).state = .silent) :
    ((afterReport s sender).slot sender.toNat).state = .present ∧
    ((afterReport s sender).slot sender.toNat).silence = 0 ∧
    ((afterReport s sender).slot sender.toNat).record = none ∧
    raised (.peerChange sender.toNat (s.slot sender.toNat).state .present .frame) s (afterReport s sender) := by
  rw [← read_slot s sender.toNat] at silent ⊢
  rw [afterReport_eq, reportSender_fresh silent, changeSlot_self sender.isLt]
  refine ⟨rfl, rfl, rfl, changeSlot_raised (s := s.read) ?_⟩
  obtain h | h := silent <;> simp [h]

theorem afterReport_stands (absent : (s.slot sender.toNat).state ≠ .absent)
    (silent : (s.slot sender.toNat).state ≠ .silent) : afterReport s sender = s.read := by
  rw [← read_slot s sender.toNat] at absent silent
  rw [afterReport_eq, reportSender_stands absent silent]

theorem afterReport_line (s : State) (sender : BitVec 4) : (afterReport s sender).line = s.line.toIdle 0 := by
  rw [afterReport_eq, (reportSender_frame _ _).line]
  rfl

/-! ### Frames that are discarded (R82) -/

/-- The report of a sender leaves a slot that disagrees as it was. -/
theorem afterReport_disagreeing
    (disagrees : (s.slot sender.toNat).state = .divergent ∨ (s.slot sender.toNat).state = .mismatched) :
    (afterReport s sender).disagreeing sender.toNat = true := by
  have stands : afterReport s sender = s.read := by
    refine afterReport_stands ?_ ?_ <;> obtain h | h := disagrees <;> simp [h]
  rw [stands, State.disagreeing, read_slot]
  obtain h | h := disagrees <;> simp [h]

/-- ISOLATED, or a sender that disagrees, as the Agreement Engine tests it. -/
theorem afterReport_shut
    (shut : s.station.state = .isolated ∨ (s.slot sender.toNat).state = .divergent ∨
      (s.slot sender.toNat).state = .mismatched) :
    (!(afterReport s sender).station.state.screens || (afterReport s sender).disagreeing sender.toNat) = true ∧
    (!(afterReport s sender).station.state.takes || (afterReport s sender).disagreeing sender.toNat) = true := by
  have station : (afterReport s sender).station = s.station := afterReport_frame.station
  obtain isolated | disagrees := shut
  · simp [station, isolated, StationState.screens, StationState.takes]
  · simp [afterReport_disagreeing disagrees]

end

/-- Settles O39: the report makes a slot that was not heard PRESENT and leaves another, and the state that it leaves decides
which frames are discarded. -/
theorem senderIsReportedAndFramesFollowTheState : Obligations.SenderIsReportedAndFramesFollowTheState := by
  intro s sender
  have line := afterReport_line s sender
  refine ⟨⟨by rw [line]; rfl, by rw [line]; rfl, by rw [line]; rfl, afterReport_frame⟩, afterReport_fresh,
    fun absent silent => ?_, fun q other => afterReport_other other, fun body => ⟨fun shut => ?_, fun unscreened => ?_⟩⟩
  · rw [afterReport_stands absent silent]
    exact ⟨read_slot s _, rfl⟩
  · obtain ⟨screens, takes⟩ := afterReport_shut (sender := sender) shut
    refine ⟨fun heard permitted w => ?_, fun heard length => ?_, fun heard length => ?_, fun heard length => ?_⟩
    · rw [exec_propose heard permitted w]
      exact congrArg Host.Outcome.next (if_pos screens)
    · rw [exec_endorse heard length]
      exact congrArg Host.Outcome.next (if_pos takes)
    · rw [exec_object heard length]
      exact congrArg Host.Outcome.next (if_pos takes)
    · rw [exec_ratify heard length]
      exact congrArg Host.Outcome.next (if_pos takes)
  · intro heard permitted w
    have station : (afterReport s sender).station = s.station := afterReport_frame.station
    rw [exec_propose heard permitted w]
    refine congrArg Host.Outcome.next (if_pos ?_)
    obtain h | h := unscreened <;> simp [station, h, StationState.screens]

section
variable {s : State} {p : Nat} {new : Slot} {body : List Byte} {sender : BitVec 4}

/-! ### A BEACON (R109) -/

theorem exec_beacon (heard : audible s .beacon sender body) (length : body.length = 11) :
    exec (.beacon sender body) s = .next (takeBeacon sender.toNat body (afterReport s sender)) :=
  congrArg Host.Outcome.next (receiveTyped_audible heard (by omega) (by simp [lengthPermitted, length]) _)

/-- A body that fails its test gives no slot. -/
theorem beaconSlot_none (bad : StationState.ofBeaconCode (field body 5 1) = none ∨ 1 < field body 10 1) :
    beaconSlot s body = none := by
  unfold beaconSlot
  cases state : StationState.ofBeaconCode (field body 5 1) with
  | none => rfl
  | some st => exact if_pos (bad.resolve_left (by simp [state]))

/-- The slot that a BEACON body gives its sender, with the station state and the busy indication that it carries. -/
def heardSlot (s : State) (body : List Byte) (st : StationState) : Slot where
  state :=
    if BitVec.ofNat 16 (field body 8 2) ≠ s.planDigest then .mismatched
    else if beaconOffset s.clock (field body 0 5) ≠ 0 then .divergent
    else .present
  silence := 0
  record := some
    { label := field body 0 5, offset := beaconOffset s.clock (field body 0 5), digest := BitVec.ofNat 16 (field body 6 2),
      agrees := BitVec.ofNat 16 (field body 6 2) == s.shelfDigest, planDigest := BitVec.ofNat 16 (field body 8 2),
      state := st, busy := field body 10 1 == 1 }
  age := 0

theorem classify_eq (a b : Word) (offset : Int) :
    classify (a == b) offset = if a ≠ b then .mismatched else if offset ≠ 0 then .divergent else .present := by
  unfold classify
  by_cases same : a = b <;> simp [same]

theorem beaconSlot_some {st : StationState} (state : StationState.ofBeaconCode (field body 5 1) = some st)
    (busy : field body 10 1 ≤ 1) : beaconSlot s body = some (heardSlot s body st) := by
  simp only [beaconSlot, state, classify_eq]
  exact if_neg (Nat.not_lt.2 busy)

/-- The report of the sender changes nothing that the slot is made of. -/
theorem heardSlot_afterReport (s : State) (sender : BitVec 4) (body : List Byte) (st : StationState) :
    heardSlot (afterReport s sender) body st = heardSlot s body st := by
  have report : ChangesOnly [.line, .roster, .notices] s (afterReport s sender) := afterReport_frame
  have planDigest : (afterReport s sender).planDigest = s.planDigest := report .planDigest (by decide)
  simp only [heardSlot, State.shelfDigest, State.digestBytes, report.clock, planDigest, report.table, report.scales]

theorem takeBeacon_classed (slot : beaconSlot s body = some new) :
    takeBeacon p body s = meetBeacon new (field body 0 5) (changeSlot p new .beacon s) := by
  simp only [takeBeacon, slot]

/-! ### An adoption that waits for the majority's label (R116) -/

theorem meetBeacon_stands {label : Nat}
    (other : ∀ d, s.station.adoption = .waiting d → new.state ≠ .divergent ∨ new.offset ≠ d) :
    meetBeacon new label s = s := by
  unfold meetBeacon
  split
  next d waiting =>
    refine if_neg fun ⟨divergent, offset⟩ => ?_
    obtain h | h := other d waiting
    · exact h divergent
    · exact h offset
  next => rfl

theorem meetBeacon_meets {label : Nat} {d : Int} (waiting : s.station.adoption = .waiting d)
    (divergent : new.state = .divergent) (offset : new.offset = d) :
    meetBeacon new label s = requestIfDue
      { s with station := { s.station with adoption := .counting (label + s.plan.b) (s.plan.b - 1) } } := by
  simp only [meetBeacon, waiting]
  exact if_pos ⟨divergent, offset⟩

/-- The arrangement counts down from B - 1, and asks at once where B is 1. -/
theorem meetBeacon_counts {label : Nat} {d : Int} (waiting : s.station.adoption = .waiting d)
    (divergent : new.state = .divergent) (offset : new.offset = d) :
    (2 ≤ s.plan.b → (meetBeacon new label s).clock = s.clock ∧ (meetBeacon new label s).station =
      { s.station with adoption := .counting (label + s.plan.b) (s.plan.b - 1) }) ∧
    (s.plan.b = 1 → (meetBeacon new label s).station = { s.station with adoption := .requested (label + 1) } ∧
      (meetBeacon new label s).clock =
        { s.clock with pendingLabel := some { value := label + 1, origin := .adoption } }) := by
  rw [meetBeacon_meets waiting divergent offset]
  refine ⟨fun more => ?_, fun one => ?_⟩
  · rw [requestIfDue_stands fun v => by simp; omega]
    exact ⟨rfl, rfl⟩
  · rw [requestIfDue_counted (v := label + 1) (by simp [one])]
    exact ⟨rfl, rfl⟩

end

/-- Settles O40: the slot of the body replaces that of its sender, and a WAITING arrangement meets it. -/
theorem beaconClassifiesItsSender : Obligations.BeaconClassifiesItsSender := by
  intro s sender body heard length
  have run := exec_beacon heard length
  have report : ChangesOnly [.line, .roster, .notices] s (afterReport s sender) := afterReport_frame
  refine ⟨fun st state busy => ⟨_, run, ?_⟩, fun bad => ⟨_, run, ?_⟩⟩
  · have classed := changeSlot_frame sender.toNat (heardSlot s body st) .beacon (afterReport s sender)
    have met := meetBeacon_frame (heardSlot s body st) (field body 0 5)
      (changeSlot sender.toNat (heardSlot s body st) .beacon (afterReport s sender))
    have station := classed.station.trans report.station
    have clock := classed.clock.trans report.clock
    have plan := classed.plan.trans report.plan
    rw [takeBeacon_classed ((beaconSlot_some state busy).trans (by rw [heardSlot_afterReport]))]
    refine ⟨?_, fun q other => ?_, fun changed => ?_, fun elsewhere => ?_, fun d waiting divergent offset => ?_,
      (report.then (rs := [.line, .roster, .notices]) classed).then met⟩
    · rw [slot_of_roster met.roster, changeSlot_self sender.isLt]
      rfl
    · rw [slot_of_roster met.roster, changeSlot_other other, afterReport_other other]
    · have said := changeSlot_raised (s := afterReport s sender) (p := sender.toNat) (new := heardSlot s body st)
        (cause := .beacon) changed
      exact met.notices.trans said
    · rw [meetBeacon_stands (new := heardSlot s body st) fun d waiting => elsewhere d (station ▸ waiting)]
      exact ⟨station, clock⟩
    · have counts := meetBeacon_counts (new := heardSlot s body st) (label := field body 0 5)
        (station.symm ▸ waiting) divergent offset
      rwa [station, clock, plan] at counts
  · have rejected : takeBeacon sender.toNat body (afterReport s sender) =
        raise (.rxError .formContent sender.toNat 1 11 s.clock.label) (afterReport s sender) := by
      simp only [takeBeacon, beaconSlot_none bad, length, report.clock]
      rfl
    rw [rejected]
    exact ⟨by rw [raised, raise_notices, report.clock], raise_frame _ _⟩

end Sys2Proof.Machine
end

section
/-! SUPPORT. A boundary at which a label is taken plainly: the Station Controller's work between that of the other
units, and the silence counts of the roster (R108, R110, R112). -/

namespace Sys2Proof.Machine

set_option Elab.async false

/-! ### The other units leave the Base Clock and the roster alone -/

/-- The stages but those of the Station Controller and of the receiving context leave both alone. -/
theorem runStage_apart {st : Stage} (other : st ≠ .station) (sent : st ≠ .recitalReceive) (rep : LabelReport)
    (s : State) : ChangesOnly offBeatParts s (runStage rep st s) := by
  cases st with
  | station => exact absurd rfl other
  | apply => exact (applyPass_frame s).mono (by decide)
  | expiry => exact (expireWindows_frame s).mono (by decide)
  | retest => exact (retestQuorum_frame s).mono (by decide)
  | ratifyOffers => exact (reofferRatify_frame s).mono (by decide)
  | proposeOffers => exact (reofferPropose_frame s).mono (by decide)
  | recitalSend => exact (reofferRecital_frame s).mono (by decide)
  | recitalReceive => exact absurd rfl sent

/-- What the stages but that of the Station Controller touch. -/
abbrev otherParts : List Part :=
  [.scales, .table, .line, .station, .sending, .receiving, .report, .outputs, .notices, .serial]

theorem runStage_other {st : Stage} (other : st ≠ .station) (rep : LabelReport) (s : State) :
    ChangesOnly otherParts s (runStage rep st s) := by
  by_cases sent : st = .recitalReceive
  · subst sent
    exact (receiveWork_frame s).mono (by decide)
  · exact (runStage_apart other sent rep s).mono (by decide)

theorem enterState_started {new : StationState} (other : new ≠ .unconfigured) (s : State) :
    (enterState new s).started := by
  rw [State.started, enterState_state]
  exact other

theorem failAttempt_started {s : State} (started : s.started) (cause : AttemptCause) :
    (failAttempt cause s).started := by
  simp only [failAttempt]
  split
  · exact started
  next c _ =>
    split
    · rw [State.started, (offerRequest_frame _).station]
      exact started
    · cases c.origin with
      | joining => exact enterState_started (by decide) _
      | missedEntry => exact started
      | discord => exact started

theorem receiveWork_started {s : State} (started : s.started) : (receiveWork s).started := by
  unfold receiveWork
  split
  · exact started
  · split
    · split
      · exact failAttempt_started (by exact started) _
      · dsimp only
        split
        · rw [State.started, (offerRequest_frame _).station]
          exact started
        · exact started
    · exact started

theorem runStage_started {st : Stage} (other : st ≠ .station) (rep : LabelReport) {s : State} (started : s.started) :
    (runStage rep st s).started := by
  by_cases sent : st = .recitalReceive
  · subst sent
    exact receiveWork_started started
  · rw [State.started, (runStage_apart other sent rep s).station]
    exact started

theorem stagesFrom_others {l : List Stage} (others : Stage.station ∉ l) (rep : LabelReport) (s : State) :
    ChangesOnly otherParts s (stagesFrom rep l s) := by
  induction l generalizing s with
  | nil => exact .refl _ s
  | cons st l ih =>
    exact (runStage_other (List.ne_of_not_mem_cons others).symm rep s).trans
      (ih (List.not_mem_of_not_mem_cons others) _)

theorem stagesFrom_started {l : List Stage} (others : Stage.station ∉ l) (rep : LabelReport) {s : State}
    (started : s.started) : (stagesFrom rep l s).started := by
  induction l generalizing s with
  | nil => exact started
  | cons st l ih =>
    exact ih (List.not_mem_of_not_mem_cons others)
      (runStage_started (List.ne_of_not_mem_cons others).symm rep started)

/-! ### A boundary with no label pending -/

/-- From `s` a boundary takes the next label, and from `v` the stages before and after that of the Station Controller do
their work, each once; then the outputs take the boundary, and a notice may follow. -/
structure PlainBoundary (s v t : State) (before after : List Stage) : Prop where
  once : (before ++ Stage.station :: after).Nodup
  taken : ChangesOnly [.clock] s v
  label : v.clock.label = nextLabel s
  closed : ChangesOnly [.notices]
    (outputsBoundary (stagesFrom .plain after (stationWork .plain (stagesFrom .plain before v)))) t
  remains : Remains (outputsBoundary (stagesFrom .plain after (stationWork .plain (stagesFrom .plain before v)))) t

theorem boundary_plain {s : State} {ord : BoundaryOrder} (free : s.clock.pendingLabel = none) :
    boundary ord s = outputsBoundary (runStages ord .plain (s.withLabel s.clock.otherwise)) := by
  rw [boundary, takeLabel_plain free]
  rfl

theorem plainBoundary_of {s : State} {c : Instr} (made : makesBoundary s c) (free : s.clock.pendingLabel = none) :
    ∃ t, exec c s = .next t ∧ ∃ v before after, PlainBoundary s v t before after := by
  obtain ⟨t, run, made⟩ := exec_makesBoundary made
  obtain ⟨ord, clock, label, pending, closed, remains⟩ := boundaryMade_cases made
  have plain := boundary_plain (ord := ord) (s := s.setClock clock) (pending.trans free)
  obtain ⟨before, after, eq⟩ := List.append_of_mem (mem_completeOrder ord.stages .station)
  rw [plain, runStages, eq, List.foldl_append, List.foldl_cons] at closed remains
  refine ⟨t, run, _, before, after, eq ▸ completeOrder_nodup ord.stages, fun p hp => ?_, nextLabel_eq label, closed,
    remains⟩
  cases p <;> first | rfl | simp at hp

section
variable {s v t : State} {before after : List Stage} (b : PlainBoundary s v t before after)
include b

theorem PlainBoundary.none_before : Stage.station ∉ before := fun h =>
  (List.nodup_append.1 b.once).2.2 .station h .station List.mem_cons_self rfl

theorem PlainBoundary.none_after : Stage.station ∉ after :=
  (List.nodup_cons.1 (List.nodup_append.1 b.once).2.1).1

theorem PlainBoundary.ahead : ChangesOnly (.clock :: otherParts) s (stagesFrom .plain before v) :=
  (b.taken.mono (by decide)).trans ((stagesFrom_others b.none_before .plain v).mono (by decide))

theorem PlainBoundary.ahead_started (started : s.started) : (stagesFrom .plain before v).started :=
  stagesFrom_started b.none_before .plain (by rw [State.started, b.taken.station]; exact started)

theorem PlainBoundary.ahead_label : (stagesFrom .plain before v).clock.label = nextLabel s := by
  rw [(stagesFrom_others b.none_before .plain v).clock, b.label]

theorem PlainBoundary.behind : ChangesOnly otherParts (stationWork .plain (stagesFrom .plain before v)) t :=
  ((stagesFrom_others b.none_after .plain _).trans ((outputsBoundary_frame _).mono (by decide))).trans
    (b.closed.mono (by decide))

end

/-! ### The silence counts -/

/-- A slot at a beacon time: its silence count rises and takes effect. -/
def Slot.waited (sl : Slot) : Slot := if sl.heard then { sl with silence := sl.silence + 1 }.silenced else sl

theorem advanceSilence_slot {p q : Nat} (small : q < 16) (s : State) :
    (advanceSilence s p).slot q = if p = q then (s.slot q).waited else s.slot q := by
  unfold advanceSilence Slot.waited
  by_cases same : p = q
  · subst same
    dsimp only
    split
    · rw [silenceSlot, changeSlot_self small, setSlot_slot small, if_pos rfl, if_pos rfl]
    · rw [ite_self]
  · rw [if_neg same]
    dsimp only
    split
    · rw [silenceSlot, changeSlot_other (Ne.symm same), setSlot_other (Ne.symm same)]
    · rfl

theorem silenceFold_slot {l : List Nat} (nodup : l.Nodup) (s : State) {q : Nat} (small : q < 16) :
    (l.foldl advanceSilence s).slot q = if q ∈ l then (s.slot q).waited else s.slot q := by
  induction l generalizing s with
  | nil => simp
  | cons p l ih =>
    obtain ⟨fresh, nodup⟩ := List.nodup_cons.1 nodup
    rw [List.foldl_cons, ih nodup, advanceSilence_slot small]
    by_cases same : p = q
    · subst same; simp [fresh]
    · simp [same, Ne.symm same]

theorem advanceSilences_slot (s : State) {q : Nat} (small : q < 16) :
    (advanceSilences s).slot q = (s.slot q).waited := by
  rw [advanceSilences, silenceFold_slot List.nodup_range s small, if_pos (List.mem_range.2 small)]

/-! ### The roster after the Station Controller's work -/

theorem stationWork_plain {s : State} (started : s.started) : stationWork .plain s =
    if s.beaconTime then beaconWork (counted .plain s) else counted .plain s := by
  have same : (counted .plain s).beaconTime = s.beaconTime := by
    have label : (counted .plain s).clock.label = s.clock.label := (advanceAdoption_asks _).label
    have plan : (counted .plain s).plan = s.plan := (advanceAdoption_frame _).plan
    rw [State.beaconTime, State.beaconTime, label, plan]
  rw [← same]
  exact if_neg started

theorem counted_slot (s : State) {q : Nat} (small : q < 16) : (counted .plain s).slot q = (s.slot q).older :=
  older_slot (advanceAdoption_frame _).roster small

/-- What a beacon time does once the silence counts have risen. -/
theorem beaconWork_rest (s : State) : ChangesOnly
    [.table, .line, .station, .sending, .receiving, .outputs, .notices, .serial] (advanceSilences s) (beaconWork s) :=
  (((((evaluatePlan_frame _).trans (evaluateLabel_frame _)).mono (by decide)).trans
    ((evaluateDiscord_frame _).mono (by decide))).trans (advanceListening_frame _)).trans
    ((offerBeacon_frame _).mono (by decide))

theorem stationWork_slot {s : State} (started : s.started) {q : Nat} (small : q < 16) : (stationWork .plain s).slot q =
    if s.beaconTime then (s.slot q).older.waited else (s.slot q).older := by
  rw [stationWork_plain started]
  split
  · rw [slot_of_roster (beaconWork_rest _).roster, advanceSilences_slot _ small, counted_slot s small]
  · exact counted_slot s small

theorem older_eq (sl : Slot) :
    sl.older = { sl with age := if sl.record.isSome then min 255 (sl.age + 1) else sl.age } := by
  unfold Slot.older
  split <;> rfl

theorem waited_absent {sl : Slot} (absent : sl.state = .absent) : sl.waited = sl := by
  simp [Slot.waited, Slot.heard, absent]

theorem silenced_eight {sl : Slot} (heard : sl.state ≠ .absent) (long : 8 ≤ sl.silence) :
    sl.silenced = Slot.absent := by
  rw [Slot.silenced, if_neg heard, if_pos long]

theorem silenced_three {sl : Slot} (heard : sl.state ≠ .absent) (three : 3 ≤ sl.silence) (eight : sl.silence < 8) :
    sl.silenced = { sl with state := .silent } := by
  rw [Slot.silenced, if_neg heard, if_neg (Nat.not_le.2 eight), if_pos three]

theorem silenced_below {sl : Slot} (heard : sl.state ≠ .absent) (below : sl.silence < 3) : sl.silenced = sl := by
  rw [Slot.silenced, if_neg heard, if_neg (by omega), if_neg (by omega)]

section
variable {sl : Slot} (heard : sl.state ≠ .absent)
include heard

theorem waited_heard : sl.waited = { sl with silence := sl.silence + 1 }.silenced :=
  if_pos (by simp [Slot.heard, heard])

theorem waited_few (few : sl.silence < 2) : sl.waited = { sl with silence := sl.silence + 1 } :=
  (waited_heard heard).trans (silenced_below heard (Nat.succ_lt_succ few))

theorem waited_some (two : 2 ≤ sl.silence) (seven : sl.silence < 7) :
    sl.waited = { sl with silence := sl.silence + 1, state := .silent } :=
  (waited_heard heard).trans (silenced_three heard (Nat.succ_le_succ two) (Nat.succ_lt_succ seven))

theorem waited_long (seven : 7 ≤ sl.silence) : sl.waited = Slot.absent :=
  (waited_heard heard).trans (silenced_eight heard (Nat.succ_le_succ seven))

end

/-! ### What the boundary leaves of the roster -/

section
variable {s v t : State} {before after : List Stage} (b : PlainBoundary s v t before after) (started : s.started)
include b started

theorem PlainBoundary.slot {q : Nat} (small : q < 16) : t.slot q =
    if nextLabel s % s.plan.b = 0 then (s.slot q).older.waited else (s.slot q).older := by
  have beat : (stagesFrom .plain before v).beaconTime = decide (nextLabel s % s.plan.b = 0) := by
    rw [State.beaconTime, b.ahead_label, b.ahead.plan]
    rfl
  rw [slot_of_roster b.behind.roster, stationWork_slot (b.ahead_started started) small, beat,
    slot_of_roster b.ahead.roster]
  simp only [decide_eq_true_eq]

end

end Sys2Proof.Machine
end

namespace Sys2Proof.Machine

/-- Settles O30: the slot is replaced by what its count makes of it, and at a boundary the ages rise, then the
counts. -/
theorem silenceCountsChangeTheSlot : Obligations.SilenceCountsChangeTheSlot := by
  refine ⟨fun s p heard => ?_, fun s c made started free => ?_⟩
  · have frame := silenceSlot_frame p.val s
    have self : (silenceSlot p.val s).slot p.val = (s.slot p.val).silenced := changeSlot_self p.isLt _ _
    have others (q : Nat) (other : q ≠ p.val) : (silenceSlot p.val s).slot q = s.slot q := changeSlot_other other _ _
    have told : (s.slot p.val).state ≠ (s.slot p.val).silenced.state →
        raised (.peerChange p.val (s.slot p.val).state (s.slot p.val).silenced.state .silence) s
          (silenceSlot p.val s) := fun changed => changeSlot_raised changed
    refine ⟨fun eight => ⟨_, rfl, ?_, others, ?_, frame⟩,
      fun three eight => ⟨_, rfl, ?_, others, fun changed => ?_, frame⟩, fun below => ⟨_, rfl, fun q => ?_, ?_⟩⟩
    · exact self.trans (silenced_eight heard eight)
    · rw [silenced_eight heard eight] at told
      exact told heard
    · exact self.trans (silenced_three heard three eight)
    · rw [silenced_three heard three eight] at told
      exact told changed
    · by_cases same : q = p.val
      · rw [same, self, silenced_below heard below]
      · exact others q same
    · rw [show silenceSlot p.val s = s.setSlot p.val (s.slot p.val) by
        rw [silenceSlot, silenced_below heard below, changeSlot, if_pos rfl]]
      exact setSlot_frame _ _ s
  · obtain ⟨t, run, v, before, after, b⟩ := plainBoundary_of made free
    refine ⟨t, run, fun p => ?_⟩
    have slot := b.slot started p.isLt
    rw [older_eq] at slot
    refine ⟨fun quiet => ?_, fun beat heard => ?_⟩
    · rw [slot]
      split
      next beat => exact waited_absent (quiet.resolve_left fun off => off beat)
      next => rfl
    · rw [if_pos beat] at slot
      exact ⟨fun few => slot.trans (waited_few heard few), fun two seven => slot.trans (waited_some heard two seven),
        fun seven => slot.trans (waited_long heard seven)⟩

end Sys2Proof.Machine

section
/-! SUPPORT. What the work of the other units leaves to the Station Controller, and of it: the BEACON frames in the
queue, and a receiving context that has not waited long (R76, R108, R126, R134). -/

namespace Sys2Proof.Machine

set_option Elab.async false

/-! ### BEACON frames -/

/-- From `s` to `t` the queue keeps its BEACON frames, and gets no other. -/
def BeaconsStand (s t : State) : Prop := ∀ f : Frame, f.kind = .beacon → (f ∈ t.line.queue ↔ f ∈ s.line.queue)

section
variable {s t u : State} {ps : List Part}

theorem BeaconsStand.of_line (h : t.line = s.line) : BeaconsStand s t := fun f _ => by rw [h]

theorem BeaconsStand.of_frame (h : ChangesOnly ps s t) (line : Part.line ∉ ps := by decide) : BeaconsStand s t :=
  .of_line (h.line line)

theorem BeaconsStand.refl (s : State) : BeaconsStand s s := .of_line rfl

theorem BeaconsStand.trans (h : BeaconsStand s t) (k : BeaconsStand t u) : BeaconsStand s u :=
  fun f beacon => (k f beacon).trans (h f beacon)

theorem BeaconsStand.ite {c : Prop} [Decidable c] (h : BeaconsStand s t) (k : BeaconsStand s u) :
    BeaconsStand s (if c then t else u) := by split <;> assumption

theorem BeaconsStand.foldl {α : Type} {g : State → α → State} (h : ∀ t x, BeaconsStand t (g t x)) (l : List α)
    (s : State) : BeaconsStand s (l.foldl g s) := by
  induction l generalizing s with
  | nil => exact .refl s
  | cons x l ih => exact (h s x).trans (ih _)

theorem raise_beacons (n : Notice) (s : State) : BeaconsStand s (raise n s) := .of_line rfl

theorem offer_beacons {f : Frame} (other : f.kind ≠ .beacon) (s : State) : BeaconsStand s (offer f s) := by
  intro g beacon
  obtain ⟨-, eq⟩ | ⟨-, eq⟩ | ⟨-, eq⟩ := offer_cases f s
  · rw [eq]
    have distinct : g ≠ f := fun same => other (same ▸ beacon)
    exact mem_insertFrame.trans ⟨fun h => h.resolve_left distinct, .inr⟩
  · rw [eq, raise_line]
  · rw [eq]

/-- A BEACON names no entry. -/
theorem freeEntry_beacons (id : Ident) (n : Notice) (s : State) : BeaconsStand s (freeEntry id n s) := by
  intro f beacon
  refine ⟨fun h => ?_, fun h => freeEntry_frames n h (.inr (by simp [beacon]))⟩
  obtain ⟨g, held, rfl⟩ := List.mem_map.1 (show f ∈ purgeNaming id s.line.queue from h)
  split at beacon
  next names =>
    have kind := (namesEntry_iff.1 names).2
    rw [show g.kind = .beacon from beacon] at kind
    simp at kind
  next names =>
    rw [if_neg names]
    exact List.mem_of_mem_filter held

theorem freeExecuted_beacons (id : Ident) (set : StationSet) (s : State) : BeaconsStand s (freeExecuted id set s) :=
  .of_line rfl

theorem lapseOvertaken_beacons (id : Ident) (s : State) : BeaconsStand s (lapseOvertaken id s) :=
  .foldl (fun t w => freeEntry_beacons w _ t) _ s

theorem withdrawTarget_beacons (a b : Ident) (s : State) : BeaconsStand s (withdrawTarget a b s) := by
  unfold withdrawTarget
  split
  · exact .refl s
  · exact .ite (raise_beacons _ s) (freeEntry_beacons _ _ s)

theorem ratifyClaim_beacons (e : Entry) (set : StationSet) (s : State) : BeaconsStand s (ratifyClaim e set s) := by
  unfold ratifyClaim
  split
  · exact (BeaconsStand.of_frame (setScale_frame _ _ s)).trans (freeExecuted_beacons _ _ _)
  · exact (withdrawTarget_beacons _ _ s).trans (freeExecuted_beacons _ _ _)
  · exact .ite ((BeaconsStand.of_frame (modify_frame _ _ s)).trans (raise_beacons _ _)) (freeEntry_beacons _ _ s)

theorem offerRatify_beacons (id : Ident) (set : StationSet) (s : State) : BeaconsStand s (offerRatify id set s) :=
  (offer_beacons (f := ratifyFrame id set) (show FrameKind.ratify ≠ .beacon by decide) s).trans
    (.of_frame (setMark_frame _ _ _))

theorem ratifyOwn_beacons (id : Ident) (s : State) : BeaconsStand s (ratifyOwn id s) := by
  unfold ratifyOwn
  split
  · exact .refl s
  next e _ =>
    have claimed := ratifyClaim_beacons e e.endorsers s
    have offered := offer_beacons (f := ratifyFrame id e.endorsers) (show FrameKind.ratify ≠ .beacon by decide) s
    exact .ite (.ite claimed (.ite (.ite (claimed.trans (offerRatify_beacons _ _ _))
      (claimed.trans (.of_frame (setMark_frame _ _ _)))) claimed))
      (.ite ((BeaconsStand.ite (.refl s) offered).trans (ratifyClaim_beacons _ _ _)) (.refl s))

theorem retestQuorum_beacons (s : State) : BeaconsStand s (retestQuorum s) :=
  .ite (.foldl (fun t id => ratifyOwn_beacons id t) _ s) (.refl s)

theorem reofferRatify_beacons (s : State) : BeaconsStand s (reofferRatify s) := by
  refine .ite (.foldl (fun t id => ?_) _ s) (.refl s)
  split
  · exact offerRatify_beacons _ _ t
  · exact .refl t

theorem reofferPropose_beacons (s : State) : BeaconsStand s (reofferPropose s) := by
  refine .ite (.foldl (fun t id => ?_) _ s) (.refl s)
  split
  next e _ =>
    exact (offer_beacons (f := proposeFrame e.toRecord) (show FrameKind.propose ≠ .beacon by decide) t).trans
      (.of_frame (setMark_frame _ _ _))
  · exact .refl t

theorem expireWindows_beacons (s : State) : BeaconsStand s (expireWindows s) := by
  refine .foldl (fun t id => ?_) _ s
  unfold expireEntry
  split
  · exact .ite (freeEntry_beacons _ _ t) (.refl t)
  · exact .refl t

theorem completeEntry_beacons (c : ScaleChange) (e : Entry) (s : State) : BeaconsStand s (completeEntry c e s) :=
  (BeaconsStand.of_frame (handChange_frame _ _ _ _ s)).trans (freeEntry_beacons _ _ _)

theorem actWhenDue_beacons (e : Entry) (n : Nat) (s : State) : BeaconsStand s (actWhenDue e n s) := by
  unfold actWhenDue
  split
  · exact .ite (.of_frame (handChange_frame _ _ _ _ s)) (.ite (completeEntry_beacons _ _ s) (.refl s))
  · exact .ite (completeEntry_beacons _ _ s) (.refl s)
  · exact .ite (completeEntry_beacons _ _ s) (.refl s)
  · exact .refl s

theorem applyEntry_beacons (id : Ident) (s : State) : BeaconsStand s (applyEntry id s) := by
  have applying : BeaconsStand s (enterApplying id s) :=
    (BeaconsStand.of_frame (modify_frame _ _ s)).trans (lapseOvertaken_beacons _ _)
  unfold applyEntry
  split
  · exact .refl s
  · split
    · exact .refl s
    · split
      · exact .refl s
      · exact .ite (applying.trans (actWhenDue_beacons _ _ _)) (.refl s)
      · exact actWhenDue_beacons _ _ s

theorem applyPass_beacons (s : State) : BeaconsStand s (applyPass s) :=
  .ite (.refl s) (((BeaconsStand.of_frame (clearChanges_frame s)).trans
    (.foldl (fun t id => applyEntry_beacons id t) _ _)).trans (.of_frame (formReport_frame _)))

theorem reofferRecital_beacons (s : State) : BeaconsStand s (reofferRecital s) := by
  unfold reofferRecital
  split
  · refine .ite ?_ (.refl s)
    unfold offerRecitalFrame
    split
    · exact .refl s
    next c _ =>
      have offered := offer_beacons (f := assembleRecital s c) (by rw [assembleRecital_kind]; split <;> decide) s
      exact .ite (offered.trans (.of_frame (withSending_frame _ _)))
        (offered.trans (.of_frame (recitalOfferFailed_frame _)))
  · exact .refl s

theorem offerRequest_beacons (s : State) : BeaconsStand s (offerRequest s) := by
  unfold offerRequest
  split
  · exact .refl s
  next c _ =>
    exact (offer_beacons (f := requestFrame c) (show FrameKind.reciteReq ≠ .beacon by decide) s).trans
      (.of_frame (withReceiving_frame _ _))

theorem askRecital_beacons (origin : RecvOrigin) (target : Nat) (s : State) :
    BeaconsStand s (askRecital origin target s) := by
  unfold askRecital
  split
  · exact .refl s
  · exact (BeaconsStand.of_line rfl).trans (offerRequest_beacons _)

/-! ### A receiving context that has not waited long (R134) -/

/-- The receiving context may wait at `n` more beacon times before its attempt fails. -/
def Patient (n : Nat) (s : State) : Prop := ∀ d, s.receiving = some d → d.wait + n < 4

/-- From `s` to `t` the receiving context stays the one of its attempt, and none is created. -/
def Attends (s t : State) : Prop :=
  (s.receiving = none → t.receiving = none) ∧
  ∀ d, s.receiving = some d →
    ∃ e, t.receiving = some e ∧ e.origin = d.origin ∧ e.target = d.target ∧ e.source = d.source

theorem Attends.of_eq (h : t.receiving = s.receiving) : Attends s t :=
  ⟨fun none => h.trans none, fun d held => ⟨d, h.trans held, rfl, rfl, rfl⟩⟩

theorem Attends.trans (h : Attends s t) (k : Attends t u) : Attends s u := by
  refine ⟨fun none => k.1 (h.1 none), fun d held => ?_⟩
  obtain ⟨e, there, origin, target, source⟩ := h.2 d held
  obtain ⟨e', there', origin', target', source'⟩ := k.2 e there
  exact ⟨e', there', origin'.trans origin, target'.trans target, source'.trans source⟩

/-- What the receiving context comes to at a beacon time when its attempt does not fail. -/
theorem receiveWork_waits {n : Nat} (patient : Patient (n + 1) s) :
    ChangesOnly [.line, .receiving, .notices] s (receiveWork s) ∧ BeaconsStand s (receiveWork s) ∧
      Attends s (receiveWork s) ∧ Patient n (receiveWork s) := by
  unfold receiveWork
  split
  next none => exact ⟨.refl _ s, .refl s, .of_eq rfl, fun d held => by simp [none] at held⟩
  next d held =>
    have early := patient d held
    have waited := withReceiving_frame (some { d with wait := d.wait + 1 }) s
    split
    · rw [if_neg (by omega)]
      dsimp only
      split
      · obtain ⟨req, there⟩ :=
          offerRequest_receiving (s := { s with receiving := some { d with wait := d.wait + 1 } }) rfl
        refine ⟨waited.then (offerRequest_frame _), (BeaconsStand.of_frame waited).trans (offerRequest_beacons _),
          ⟨fun no => by simp [no] at held, fun e same => ⟨_, there, ?_⟩⟩, fun e same => ?_⟩
        · obtain rfl := Option.some.inj (held.symm.trans same)
          exact ⟨rfl, rfl, rfl⟩
        · obtain rfl := Option.some.inj (there.symm.trans same)
          dsimp only
          omega
      · refine ⟨waited.mono (by decide), .of_frame waited,
          ⟨fun no => by simp [no] at held, fun e same => ⟨_, rfl, ?_⟩⟩, fun e same => ?_⟩
        · obtain rfl := Option.some.inj (held.symm.trans same)
          exact ⟨rfl, rfl, rfl⟩
        · obtain rfl := Option.some.inj same
          dsimp only
          omega
    · refine ⟨.refl _ s, .refl s, .of_eq rfl, fun e same => ?_⟩
      have := patient e same
      omega

/-! ### The stages -/

/-- What the other units touch while no attempt fails. -/
abbrev besideParts : List Part := .receiving :: offBeatParts

/-- From `s` to `t` other units have done their work, and no attempt has failed. -/
structure Beside (s t : State) : Prop where
  frame : ChangesOnly besideParts s t
  beacons : BeaconsStand s t
  attends : Attends s t
  remains : Remains s t

theorem Beside.trans (h : Beside s t) (k : Beside t u) : Beside s u :=
  ⟨h.frame.trans k.frame, h.beacons.trans k.beacons, h.attends.trans k.attends, h.remains.trans k.remains⟩

theorem runStage_beacons {st : Stage} (other : st ≠ .station) (sent : st ≠ .recitalReceive) (rep : LabelReport)
    (s : State) : BeaconsStand s (runStage rep st s) := by
  cases st with
  | station => exact absurd rfl other
  | apply => exact applyPass_beacons s
  | expiry => exact expireWindows_beacons s
  | retest => exact retestQuorum_beacons s
  | ratifyOffers => exact reofferRatify_beacons s
  | proposeOffers => exact reofferPropose_beacons s
  | recitalSend => exact reofferRecital_beacons s
  | recitalReceive => exact absurd rfl sent

theorem stagesFrom_beside {l : List Stage} (others : Stage.station ∉ l) (rep : LabelReport) {n : Nat} {s : State}
    (patient : Patient (n + l.count .recitalReceive) s) :
    Beside s (stagesFrom rep l s) ∧ Patient n (stagesFrom rep l s) := by
  induction l generalizing s with
  | nil => exact ⟨⟨.refl _ s, .refl s, .of_eq rfl, .refl s⟩, patient⟩
  | cons st l ih =>
    have other := (List.ne_of_not_mem_cons others).symm
    have later := List.not_mem_of_not_mem_cons others
    have remains := runStage_remains rep st s
    by_cases sent : st = .recitalReceive
    · subst sent
      rw [List.count_cons_self, ← Nat.add_assoc] at patient
      obtain ⟨frame, beacons, attends, still⟩ := receiveWork_waits patient
      obtain ⟨rest, ended⟩ := ih later still
      exact ⟨Beside.trans ⟨frame.mono (by decide), beacons, attends, remains⟩ rest, ended⟩
    · have frame := runStage_apart other sent rep s
      rw [List.count_cons_of_ne sent] at patient
      obtain ⟨rest, ended⟩ := ih later (s := runStage rep st s)
        fun d held => patient d (frame.receiving.symm.trans held)
      have first : Beside s (runStage rep st s) :=
        ⟨frame.mono (by decide), runStage_beacons other sent rep s, .of_eq frame.receiving, remains⟩
      exact ⟨first.trans rest, ended⟩

end

/-! ### Outputs that are quenched -/

/-- An output that is held quenched: the latch is set, no release is pending and SPn is not driven. -/
def Output.Quiet (o : Output) : Prop := o.latch.set = true ∧ o.releasePending = false ∧ o.sp = false

/-- An output that is held quenched stays so. -/
def Output.StaysQuiet (o p : Output) : Prop := o.Quiet → p.Quiet ∧ p.latch = o.latch

theorem Output.StaysQuiet.trans {o p q : Output} (h : o.StaysQuiet p) (k : p.StaysQuiet q) : o.StaysQuiet q :=
  fun quiet => ⟨(k (h quiet).1).1, (k (h quiet).1).2.trans (h quiet).2⟩

/-- The latch has a cause. -/
def Latch.has (l : Latch) : QuenchDetail → Prop
  | .group => l.group = true
  | .adrift => l.adrift = true
  | .isolated => l.isolated = true
  | .released => False

/-- An output that is held quenched, with a cause in its latch. -/
def Output.Held (o : Output) (cause : QuenchDetail) : Prop := o.Quiet ∧ o.latch.has cause

theorem Output.StaysQuiet.held {o p : Output} {cause : QuenchDetail} (h : o.StaysQuiet p) (held : o.Held cause) :
    p.Held cause := by
  obtain ⟨quiet, latch⟩ := h held.1
  exact ⟨quiet, latch ▸ held.2⟩

theorem quenched_held {cause : QuenchDetail} (caused : cause ≠ .released) (o : Output) :
    (o.quenched cause).Held cause := by
  cases cause with
  | released => exact absurd rfl caused
  | _ => exact ⟨⟨by simp [Output.quenched, Latch.set, Latch.add], rfl, rfl⟩, rfl⟩

theorem closeWindow_staysQuiet (label : Nat) (o : Output) : o.StaysQuiet (o.closeWindow label) := by
  intro quiet
  unfold Output.closeWindow
  split
  · split
    · split <;> exact ⟨quiet, rfl⟩
    · exact ⟨quiet, rfl⟩
  · exact ⟨quiet, rfl⟩

/-- The output with which a second begins, of one that is bound. -/
def Output.begun (o : Output) (s : State) (n : Fin 8) (b : Binding) (atBoundary : Bool) : Output :=
  let p := present s b atBoundary o.release.load
  p.1.drive (composeRecord s n b.scale p.2 p.1.realign)

theorem startSecond_unbound {n : Fin 8} {s : State} (h : s.outputs[n].binding = none) (atBoundary : Bool) :
    startSecond n atBoundary s = s := by
  simp only [startSecond, h]

theorem startSecond_outputs {n : Fin 8} {s : State} {b : Binding} (h : s.outputs[n].binding = some b)
    (atBoundary : Bool) :
    ∃ u : State, u.outputs = s.outputs ∧
      startSecond n atBoundary s = u.setOutput n (s.outputs[n].begun s n b atBoundary) := by
  simp only [startSecond, h]
  exact ⟨_, by split <;> rfl, rfl⟩

theorem begun_staysQuiet (o : Output) (s : State) (n : Fin 8) (b : Binding) (atBoundary : Bool) :
    o.StaysQuiet (o.begun s n b atBoundary) := by
  intro ⟨latched, pending, silent⟩
  have released : o.release = o := if_neg (by simp [pending])
  obtain ⟨latch, -, -, release⟩ := present_silent s b atBoundary o.load
  have set : (present s b atBoundary o.load).1.latch.set = true := by rw [latch]; exact latched
  simp only [Output.begun, released, Output.drive, if_pos set]
  exact ⟨⟨set, release.trans pending, rfl⟩, latch⟩

theorem startSecond_staysQuiet (n : Fin 8) (atBoundary : Bool) (s : State) (m : Fin 8) :
    s.outputs[m].StaysQuiet (startSecond n atBoundary s).outputs[m] := by
  cases bound : s.outputs[n].binding with
  | none =>
    rw [startSecond_unbound bound]
    exact fun quiet => ⟨quiet, rfl⟩
  | some b =>
    obtain ⟨u, outputs, eq⟩ := startSecond_outputs bound atBoundary
    rw [eq, setOutput_get]
    split
    next own => exact own ▸ begun_staysQuiet _ _ _ _ _
    next =>
      rw [outputs]
      exact fun quiet => ⟨quiet, rfl⟩

theorem outputBoundary_staysQuiet (n : Fin 8) (s : State) (m : Fin 8) :
    s.outputs[m].StaysQuiet (outputBoundary s n).outputs[m] := by
  have closed : s.outputs[m].StaysQuiet (s.setOutput n (s.outputs[n].closeWindow s.clock.label)).outputs[m] := by
    rw [setOutput_get]
    split
    next own => exact own ▸ closeWindow_staysQuiet _ _
    next => exact fun quiet => ⟨quiet, rfl⟩
  simp only [outputBoundary]
  split
  · exact fun quiet => ⟨quiet, rfl⟩
  · split
    · exact closed.trans (startSecond_staysQuiet n true _ m)
    · exact closed

theorem outputsBoundary_staysQuiet (s : State) (m : Fin 8) :
    s.outputs[m].StaysQuiet (outputsBoundary s).outputs[m] := by
  unfold outputsBoundary
  induction List.finRange 8 generalizing s with
  | nil => exact fun quiet => ⟨quiet, rfl⟩
  | cons n l ih => exact (outputBoundary_staysQuiet n s m).trans (ih _)

end Sys2Proof.Machine
end

section
/-! SUPPORT. The evaluations of a beacon time: who is outvoted, the offset of the majority, and the state that they
leave (R113 to R116). -/

namespace Sys2Proof.Machine

set_option Elab.async false

/-! ### The sides of an evaluation (R113) -/

/-- The stations whose slots are counted and pass a test. -/
def State.voters (s : State) (p : Slot → Bool) : List Nat := s.stationsWhere fun sl => sl.counted && p sl

/-- The station is outvoted on its plan (R114). -/
def State.planOutvoted (s : State) : Prop :=
  outvoted (s.pins.stn :: s.voters fun sl => sl.state != .mismatched) (s.voters fun sl => sl.state == .mismatched)

/-- The plan evaluation makes the station ISOLATED (R114). -/
def State.isolates (s : State) : Prop := s.station.state ≠ .isolated ∧ s.planOutvoted

/-- The counted DIVERGENT stations. -/
def State.drift (s : State) : List Nat := s.voters fun sl => sl.state == .divergent

/-- The station is outvoted on its label (R115). -/
def State.labelOutvoted (s : State) : Prop :=
  outvoted (s.pins.stn :: s.voters fun sl => sl.state != .divergent) s.drift

/-- The station is outvoted on its shelf (R117). -/
def State.shelfOutvoted (s : State) : Prop :=
  outvoted (s.pins.stn :: s.voters fun sl => sl.state == .present && !sl.disagrees)
    (s.voters fun sl => sl.state == .present && sl.disagrees)

theorem lt_foldl_min {q a : Nat} {l : List Nat} : q < l.foldl min a ↔ q < a ∧ ∀ p ∈ l, q < p := by
  induction l generalizing a with
  | nil => simp
  | cons p l ih => simp [ih, and_assoc]

theorem foldl_min_mem (l : List Nat) (a : Nat) : l.foldl min a = a ∨ l.foldl min a ∈ l := by
  induction l generalizing a with
  | nil => exact .inl rfl
  | cons p l ih =>
    obtain first | later := ih (min a p)
    · rw [List.foldl_cons, first]
      exact (min_choice a p).imp_right fun same => by rw [same]; exact List.mem_cons_self
    · exact .inr (List.mem_cons_of_mem _ later)

theorem lowest_mem {l : List Nat} (small : lowest l < 16) : lowest l ∈ l :=
  (foldl_min_mem l 16).resolve_left small.ne

theorem evaluationLost_iff {own other : List Nat} (small : ∀ q ∈ other, q < 16) :
    evaluationLost own other = true ↔ outvoted own other := by
  have lower : lowest other < lowest own ↔ ∃ q ∈ other, ∀ p ∈ own, q < p := by
    constructor
    · intro lt
      obtain ⟨below, all⟩ := lt_foldl_min.1 lt
      exact ⟨_, lowest_mem below, all⟩
    · intro ⟨q, held, all⟩
      have low : lowest other ≤ q := by
        by_contra above
        exact Nat.lt_irrefl q ((lt_foldl_min.1 (Nat.lt_of_not_le above)).2 q held)
      exact low.trans_lt (lt_foldl_min.2 ⟨small q held, all⟩)
  simp [evaluationLost, outvoted, lower]

section
variable {s t : State}

theorem voters_small (p : Slot → Bool) : ∀ q ∈ s.voters p, q < 16 := fun _ held => (mem_stationsWhere.1 held).1

theorem planLost_iff : evaluationLost (planSides s).1 (planSides s).2 = true ↔ s.planOutvoted := by
  have own : (planSides s).1 = s.pins.stn :: s.voters fun sl => sl.state != .mismatched := by
    simp [planSides, sides, State.voters, bne]
  have other : (planSides s).2 = s.voters fun sl => sl.state == .mismatched := by
    simp [planSides, sides, State.voters]
  rw [own, other]
  exact evaluationLost_iff (voters_small _)

theorem labelLost_iff : evaluationLost (labelSides s).1 (labelSides s).2 = true ↔ s.labelOutvoted := by
  have own : (labelSides s).1 = s.pins.stn :: s.voters fun sl => sl.state != .divergent := by
    simp [labelSides, sides, State.voters, bne]
  have other : (labelSides s).2 = s.drift := by
    simp [labelSides, sides, State.drift, State.voters]
  rw [own, other]
  exact evaluationLost_iff (voters_small _)

theorem shelfLost_iff : evaluationLost (discordSides s).1 (discordSides s).2 = true ↔ s.shelfOutvoted := by
  have own : (discordSides s).1 = s.pins.stn :: s.voters fun sl => sl.state == .present && !sl.disagrees := by
    simp [discordSides, sides, State.voters, Bool.and_assoc]
  have other : (discordSides s).2 = s.voters fun sl => sl.state == .present && sl.disagrees := by
    simp [discordSides, sides, State.voters, Bool.and_assoc]
  rw [own, other]
  exact evaluationLost_iff (voters_small _)

theorem voters_of_roster (roster : t.roster = s.roster) (p : Slot → Bool) : t.voters p = s.voters p := by
  simp only [State.voters, State.stationsWhere, slot_of_roster roster]

theorem shelfOutvoted_of (roster : t.roster = s.roster) (pins : t.pins = s.pins) :
    t.shelfOutvoted ↔ s.shelfOutvoted := by
  rw [State.shelfOutvoted, voters_of_roster roster, voters_of_roster roster, pins]
  rfl

/-! ### The offset of the majority (R116) -/

/-- The larger of two groups, the first of groups that are as large; each a size with its offset. -/
def leader (size : Int → Nat) (offset : Nat → Int) (l : List Nat) : Nat × Int :=
  l.foldl (fun best k => if best.1 < size (offset k) then (size (offset k), offset k) else best) (0, 0)

/-- The leader is the group of the lowest station among those of the largest groups. -/
theorem leader_spec {size : Int → Nat} {offset : Nat → Int} {l : List Nat} (some : l ≠ [])
    (sized : ∀ k ∈ l, 0 < size (offset k)) (ascending : l.Pairwise (· < ·)) :
    ∃ p ∈ l, leader size offset l = (size (offset p), offset p) ∧
      ∀ q ∈ l, size (offset q) ≤ size (offset p) ∧ (size (offset q) = size (offset p) → p ≤ q) := by
  induction l using List.reverseRecOn with
  | nil => exact absurd rfl some
  | append_singleton l k ih =>
    obtain ⟨sorted, -, last⟩ := List.pairwise_append.1 ascending
    have step : leader size offset (l ++ [k]) = if (leader size offset l).1 < size (offset k) then
        (size (offset k), offset k) else leader size offset l := by
      rw [leader, List.foldl_concat]
      rfl
    rw [step]
    by_cases first : l = []
    · subst first
      exact ⟨k, by simp, if_pos (sized k (by simp)), by simp⟩
    obtain ⟨p, held, lead, most⟩ := ih first (fun j hj => sized j (by simp [hj])) sorted
    rw [lead]
    have before : p < k := last p held k (by simp)
    by_cases larger : size (offset p) < size (offset k)
    · refine ⟨k, by simp, if_pos larger, fun q hq => ?_⟩
      obtain inside | own := List.mem_append.1 hq
      · have := (most q inside).1
        exact ⟨by omega, fun eq => by omega⟩
      · obtain rfl := List.mem_singleton.1 own
        exact ⟨le_rfl, fun _ => le_rfl⟩
    · refine ⟨p, by simp [held], if_neg larger, fun q hq => ?_⟩
      obtain inside | own := List.mem_append.1 hq
      · exact most q inside
      · obtain rfl := List.mem_singleton.1 own
        exact ⟨by omega, fun _ => before.le⟩

/-- How many DIVERGENT stations show an offset. -/
def State.driftSize (s : State) (d : Int) : Nat := s.drift.countP fun k => decide ((s.slot k).offset = d)

theorem majorityOffset_spec (some : s.drift ≠ []) :
    ∃ p ∈ s.drift, majorityOffset s = (s.slot p).offset ∧
      ∀ q ∈ s.drift, s.driftSize (s.slot q).offset ≤ s.driftSize (s.slot p).offset ∧
        (s.driftSize (s.slot q).offset = s.driftSize (s.slot p).offset → p ≤ q) := by
  obtain ⟨p, held, lead, most⟩ := leader_spec (size := s.driftSize) (offset := fun k => (s.slot k).offset) some
    (fun k hk => List.countP_pos_iff.2 ⟨k, hk, decide_eq_true rfl⟩) (List.pairwise_lt_range.filter _)
  exact ⟨p, held, congrArg Prod.snd lead, most⟩

theorem majorityOffset_of (roster : t.roster = s.roster) : majorityOffset t = majorityOffset s := by
  have slots : t.slot = s.slot := funext (slot_of_roster roster)
  unfold majorityOffset State.stationsWhere
  rw [slots]

theorem drift_of_outvoted (h : s.labelOutvoted) : s.drift ≠ [] := by
  obtain more | ⟨-, q, held, -⟩ := h
  · exact List.ne_nil_of_length_pos (Nat.zero_lt_of_lt more)
  · exact List.ne_nil_of_mem held

/-! ### The state that the evaluations leave (R114, R115) -/

/-- The state after the plan and the label evaluation. -/
def evaluated (s : State) : State := evaluateLabel (evaluatePlan s)

theorem evaluatePlan_stands (h : s.planOutvoted → s.station.state = .isolated) : evaluatePlan s = s :=
  if_neg fun ⟨lost, other⟩ => other (h (planLost_iff.1 lost))

theorem evaluateLabel_isolated (isolated : s.station.state = .isolated) : evaluateLabel s = s := by
  simp [evaluateLabel, isolated, StationState.mayDrift]

theorem evaluateLabel_stands (kept : ¬ s.labelOutvoted) (other : s.station.state ≠ .adrift) : evaluateLabel s = s := by
  simp only [evaluateLabel]
  rw [if_neg (mt labelLost_iff.1 kept), if_neg other]

theorem evaluated_stands (plan : ¬ s.isolates)
    (label : s.station.state = .isolated ∨ (¬ s.labelOutvoted ∧ s.station.state ≠ .adrift)) : evaluated s = s := by
  rw [evaluated, evaluatePlan_stands fun lost => not_not.1 fun other => plan ⟨other, lost⟩]
  obtain isolated | ⟨kept, other⟩ := label
  · exact evaluateLabel_isolated isolated
  · exact evaluateLabel_stands kept other

theorem evaluated_isolates (plan : s.isolates) :
    ∃ n : Notice, n.kind = .isolated ∧ evaluated s = enterState .isolated (raise n s) := by
  refine ⟨.isolated s.planDigest (planSides s).1.length (planSides s).2.length, rfl, ?_⟩
  have plan : evaluatePlan s = enterState .isolated (raise (.isolated s.planDigest (planSides s).1.length
    (planSides s).2.length) s) := if_pos ⟨planLost_iff.2 plan.2, plan.1⟩
  rw [evaluated, plan, evaluateLabel_isolated (enterState_state _ _)]

/-- The label evaluation where the plan evaluation has changed nothing. -/
theorem evaluated_label (plan : ¬ s.isolates) : evaluated s = evaluateLabel s := by
  rw [evaluated, evaluatePlan_stands fun lost => not_not.1 fun other => plan ⟨other, lost⟩]

theorem evaluated_drifts (plan : ¬ s.isolates) (lost : s.labelOutvoted)
    (away : s.station.state ≠ .adrift) (other : s.station.state ≠ .isolated) (started : s.started) :
    ∃ n : Notice, n.kind = .adrift ∧ evaluated s = armAdoption (enterState .adrift (raise n s)) := by
  refine ⟨.adrift s.clock.label (labelSides s).1.length (labelSides s).2.length (majorityOffset s), rfl, ?_⟩
  have may : s.station.state.mayDrift = true := by
    cases h : s.station.state <;> simp_all [StationState.mayDrift, State.started]
  rw [evaluated_label plan]
  simp only [evaluateLabel]
  rw [if_pos (labelLost_iff.2 lost), if_pos may]

theorem evaluated_adrift (plan : ¬ s.isolates) (lost : s.labelOutvoted)
    (adrift : s.station.state = .adrift) : evaluated s = armAdoption s := by
  rw [evaluated_label plan]
  simp only [evaluateLabel, adrift]
  rw [if_pos (labelLost_iff.2 lost)]
  rfl

theorem evaluated_rejoins (plan : ¬ s.isolates) (kept : ¬ s.labelOutvoted)
    (adrift : s.station.state = .adrift) : evaluated s = enterState .joining s := by
  rw [evaluated_label plan]
  simp only [evaluateLabel, adrift]
  rw [if_neg (mt labelLost_iff.1 kept)]
  rfl

end

end Sys2Proof.Machine
end

section
/-! SUPPORT. What a beacon time does after the evaluations of plan and label: the discord evaluation, listening and the
BEACON (R108, R117 to R119), and what the entry to a state leaves (R78, R166). -/

namespace Sys2Proof.Machine

set_option Elab.async false

/-! ### Quenched on entry to a state (R166) -/

section
variable {s t u : State} {ps : List Part} {n : Nat}

theorem enterState_isolated_held (away : s.station.state ≠ .isolated) (entering : t = enterState .isolated s)
    {m : Fin 8} (running : s.outputs[m].running = true) :
    t.outputs[m].Held .isolated := by
  rw [entering, enterState_other away]
  have get := quenchWhere_get (fun _ _ => true) .isolated (entered .isolated s) m
  rw [entered_outputs, if_pos ⟨rfl, running⟩] at get
  rw [show quenchOnState .isolated (entered .isolated s) = quenchWhere (fun _ _ => true) .isolated (entered .isolated s)
    from rfl, get]
  exact quenched_held (by decide) _

theorem enterState_adrift_held (away : s.station.state ≠ .adrift)
    (entering : t.outputs = (enterState .adrift s).outputs) {m : Fin 8} {b : Binding}
    (running : s.outputs[m].running = true) (bound : s.outputs[m].binding = some b) (policy : b.quench = true) :
    t.outputs[m].Held .adrift := by
  rw [entering, enterState_other away]
  have get := quenchWhere_get (fun _ o => o.quenchesAdrift) .adrift (entered .adrift s) m
  have picked : s.outputs[m].quenchesAdrift = true := by
    unfold Output.quenchesAdrift
    rw [bound]
    exact policy
  rw [entered_outputs, if_pos ⟨picked, running⟩] at get
  rw [show quenchOnState .adrift (entered .adrift s) =
    quenchWhere (fun _ o => o.quenchesAdrift) .adrift (entered .adrift s) from rfl, get]
  exact quenched_held (by decide) _

/-! ### No BEACON comes into the queue, and no context comes to wait -/

/-- No BEACON is in the queue. -/
def NoBeacon (s : State) : Prop := ∀ g ∈ s.line.queue, g.kind ≠ .beacon

/-- From `s` to `t` no BEACON comes into the queue, and no attempt comes nearer to its failure. -/
structure Untroubled (n : Nat) (s t : State) : Prop where
  beacons : NoBeacon s → NoBeacon t
  patient : Patient n s → Patient n t

theorem Untroubled.of_frame (h : ChangesOnly ps s t) (line : Part.line ∉ ps := by decide)
    (receiving : Part.receiving ∉ ps := by decide) : Untroubled n s t :=
  ⟨fun none => by rwa [NoBeacon, h.line line], fun patient => by rwa [Patient, h.receiving receiving]⟩

theorem Untroubled.refl (s : State) : Untroubled n s s := ⟨id, id⟩

theorem Untroubled.trans (h : Untroubled n s t) (k : Untroubled n t u) : Untroubled n s u :=
  ⟨k.beacons ∘ h.beacons, k.patient ∘ h.patient⟩

theorem Untroubled.ite {c : Prop} [Decidable c] (h : Untroubled n s t) (k : Untroubled n s u) :
    Untroubled n s (if c then t else u) := by split <;> assumption

theorem BeaconsStand.noBeacon (h : BeaconsStand s t) (none : NoBeacon s) : NoBeacon t :=
  fun g held beacon => none g ((h g beacon).1 held) beacon

theorem reportPurged_patient (f : Frame) (patient : Patient n s) : Patient n (reportPurged s f) := by
  intro d held
  obtain ⟨-, -, -, receiving, -⟩ := reportPurged_told s f
  rw [receiving] at held
  obtain ⟨c, before, rfl⟩ := Option.map_eq_some_iff.1 held
  have early := patient c before
  split <;> exact early

theorem purgeForbidden_patient (patient : Patient n s) : Patient n (purgeForbidden s) :=
  List.foldlRecOn (motive := Patient n) _ reportPurged (by exact patient)
    fun _ still f _ => reportPurged_patient f still

theorem dropContexts_patient (old : StationState) (patient : Patient n s) : Patient n (dropContexts old s) := by
  unfold dropContexts
  split
  · exact fun _ held => nomatch held
  · exact fun _ held => nomatch held
  · exact patient

theorem enterState_untroubled (new : StationState) (s : State) : Untroubled n s (enterState new s) := by
  by_cases same : s.station.state = new
  · rw [enterState_same same]
    exact .refl s
  constructor
  · intro none g held
    rw [enterState_line same] at held
    obtain ⟨f, before, rfl⟩ := List.mem_map.1 held
    have kind := none f (List.mem_of_mem_filter before)
    split <;> exact kind
  · intro patient
    rw [enterState_other same]
    have quench := quenchOnState_frame new (entered new s)
    rw [Patient, quench.receiving]
    exact purgeForbidden_patient (dropContexts_patient _ (by exact patient))

theorem askRecital_untroubled (few : n < 4) (origin : RecvOrigin) (target : Nat) (s : State) :
    Untroubled n s (askRecital origin target s) := by
  refine ⟨(askRecital_beacons origin target s).noBeacon, fun patient d held => ?_⟩
  cases context : s.receiving with
  | none =>
    obtain ⟨c, begun, -, -, -, -, wait⟩ := askRecital_begins context origin target
    obtain rfl := Option.some.inj (begun.symm.trans held)
    omega
  | some c =>
    rw [askRecital_held context] at held
    exact patient d held

theorem armAdoption_untroubled (s : State) : Untroubled n s (armAdoption s) := .of_frame (armAdoption_frame s)

theorem evaluated_untroubled (s : State) : Untroubled n s (evaluated s) := by
  have entering (m : Notice) (new : StationState) (t : State) : Untroubled n t (enterState new (raise m t)) :=
    (Untroubled.of_frame (raise_frame m t)).trans (enterState_untroubled new _)
  have plan (t : State) : Untroubled n t (evaluatePlan t) := .ite (entering _ _ t) (.refl t)
  have label (t : State) : Untroubled n t (evaluateLabel t) :=
    .ite (.ite ((entering _ _ t).trans (armAdoption_untroubled _)) (.ite (armAdoption_untroubled t) (.refl t)))
      (.ite (enterState_untroubled _ t) (.refl t))
  exact (plan s).trans (label _)

theorem evaluateDiscord_untroubled (few : n < 4) (s : State) : Untroubled n s (evaluateDiscord s) := by
  have counted (x : Station) (t : State) : Untroubled n t { t with station := x } := .of_frame (withStation_frame x t)
  unfold evaluateDiscord
  dsimp only
  refine .ite ?_ (counted _ s)
  split
  · exact (counted _ s).trans ((askRecital_untroubled few _ _ _).trans (counted _ _))
  · exact counted _ s

theorem endListening_untroubled (few : n < 4) (s : State) : Untroubled n s (endListening s) := by
  unfold endListening
  split
  · exact (enterState_untroubled _ s).trans (askRecital_untroubled few _ _ _)
  · exact enterState_untroubled _ s

theorem advanceListening_untroubled (few : n < 4) (s : State) : Untroubled n s (advanceListening s) :=
  .ite ((Untroubled.of_frame (withStation_frame _ s)).trans (.ite (endListening_untroubled few _) (.refl _))) (.refl s)

end

/-! ### The discord evaluation (R117) -/

section
variable {s : State}

theorem appendResult_eq (history : List EvalResult) (r : EvalResult) :
    appendResult history r = (history ++ [r]).drop (history.length - 1) := by
  simp [appendResult]

/-- The station with a discord result in its history. -/
def State.judged (s : State) (r : EvalResult) : State :=
  { s with station := { s.station with history := appendResult s.station.history r } }

theorem evaluateDiscord_eq {r : EvalResult} (result : s.shelfOutvoted ↔ r = .lost) : evaluateDiscord s =
    if s.station.state = .active ∧ appendResult s.station.history r = [.lost, .lost] then
      match s.stationsWhere fun sl => sl.counted && sl.activePeer && sl.disagrees with
      | p :: _ => { askRecital .discord p (s.judged r) with station := { (s.judged r).station with history := [] } }
      | [] => s.judged r
    else s.judged r := by
  have same : (if evaluationLost (discordSides s).1 (discordSides s).2 then EvalResult.lost else .won) = r := by
    rw [← shelfLost_iff] at result
    cases r <;> simp_all
  simp only [evaluateDiscord, same]
  rfl

section
variable {r : EvalResult} (result : s.shelfOutvoted ↔ r = .lost)
include result

theorem evaluateDiscord_asks {p : Nat} (active : s.station.state = .active)
    (lost : appendResult s.station.history r = [.lost, .lost]) (small : p < 16)
    (peer : (s.slot p).activePeer = true) (disagrees : (s.slot p).disagrees = true)
    (lowest : ∀ q < p, ¬ ((s.slot q).activePeer = true ∧ (s.slot q).disagrees = true)) :
    (evaluateDiscord s).station.history = [] ∧ (s.receiving = none → ∃ d, (evaluateDiscord s).receiving = some d ∧
      d.origin = .discord ∧ d.target = p ∧ d.source = none) := by
  obtain ⟨l, first⟩ := stationsWhere_of_lowest (p := fun sl => sl.counted && sl.activePeer && sl.disagrees) small
    (by rw [counted_activePeer, peer, disagrees]; rfl) fun q lower => by
      rw [counted_activePeer, Bool.eq_false_iff, ne_eq, Bool.and_eq_true]
      exact lowest q lower
  have asked : evaluateDiscord s =
      { askRecital .discord p (s.judged r) with station := { (s.judged r).station with history := [] } } := by
    rw [evaluateDiscord_eq result, if_pos ⟨active, lost⟩]
    simp only [first]
  rw [asked]
  refine ⟨rfl, fun none => ?_⟩
  obtain ⟨c, begun, origin, target, -, source, -⟩ := askRecital_begins (s := s.judged r) none .discord p
  exact ⟨c, begun, origin, target, source⟩

theorem evaluateDiscord_keeps (quiet : s.station.state = .active → appendResult s.station.history r = [.lost, .lost] →
    ∀ p < 16, ¬ ((s.slot p).activePeer = true ∧ (s.slot p).disagrees = true)) :
    (evaluateDiscord s).station.history = appendResult s.station.history r := by
  rw [evaluateDiscord_eq result]
  split
  next due =>
    have none := stationsWhere_nil (s := s) (p := fun sl => sl.counted && sl.activePeer && sl.disagrees)
      fun k small => by
      rw [counted_activePeer, Bool.eq_false_iff, ne_eq, Bool.and_eq_true]
      exact quiet due.1 due.2 k small
    simp only [none]
    rfl
  next => rfl

end

/-- The discord evaluation leaves the station's items but the history. -/
theorem evaluateDiscord_station (s : State) :
    ∃ h, (evaluateDiscord s).station = { s.station with history := h } := by
  obtain ⟨r, result⟩ : ∃ r : EvalResult, s.shelfOutvoted ↔ r = .lost := by
    by_cases lost : s.shelfOutvoted
    · exact ⟨.lost, iff_of_true lost rfl⟩
    · exact ⟨.won, iff_of_false lost (by decide)⟩
  rw [evaluateDiscord_eq result]
  split
  · split <;> exact ⟨_, rfl⟩
  · exact ⟨_, rfl⟩

end

end Sys2Proof.Machine
end

section
/-! SUPPORT. Listening and the BEACON of a beacon time (R108, R119), and what a boundary on a beacon time leaves of
each. -/

namespace Sys2Proof.Machine

set_option Elab.async false

section
variable {s t : State}

/-! ### Listening (R119) -/

/-- What follows the evaluations of plan and label at a beacon time. -/
def beatRest (s : State) : State := offerBeacon (advanceListening (evaluateDiscord s))

theorem beaconWork_eq (s : State) : beaconWork s = beatRest (evaluated (advanceSilences s)) := rfl

theorem advanceListening_other (other : s.station.state ≠ .joining) : advanceListening s = s := if_neg other

/-- The station with one more beacon time listened to. -/
def State.listened (s : State) : State := { s with station := { s.station with listen := s.station.listen + 1 } }

theorem advanceListening_counts (joining : s.station.state = .joining) (early : s.station.listen < 2) :
    advanceListening s = s.listened :=
  (if_pos joining).trans (if_neg fun ⟨_, heard⟩ => Nat.not_lt.2 heard (Nat.succ_lt_succ early))

theorem advanceListening_ends (joining : s.station.state = .joining) (heard : 2 ≤ s.station.listen) :
    advanceListening s = endListening s.listened :=
  (if_pos joining).trans (endListeningIfDue_due joining (Nat.succ_le_succ heard))

theorem offerBeacon_station (s : State) : (offerBeacon s).station = s.station := (offerBeacon_frame s).station

theorem beatRest_away (other : s.station.state ≠ .joining) : beatRest s = offerBeacon (evaluateDiscord s) := by
  rw [beatRest, advanceListening_other (by rwa [evaluateDiscord_state])]

theorem beatRest_counts (joining : s.station.state = .joining) (early : s.station.listen < 2) :
    (beatRest s).station.state = .joining ∧ (beatRest s).station.listen = s.station.listen + 1 ∧
      (beatRest s).station.history = (evaluateDiscord s).station.history := by
  have state := (evaluateDiscord_state s).trans joining
  have listen := evaluateDiscord_listen s
  rw [beatRest, offerBeacon_station]
  generalize evaluateDiscord s = d at *
  rw [advanceListening_counts state (listen ▸ early), ← listen]
  exact ⟨state, rfl, rfl⟩

/-- The history is the one that the discord evaluation leaves, unless listening ends. -/
theorem beatRest_history (h : s.station.state ≠ .joining ∨ s.station.listen < 2) :
    (beatRest s).station.history = (evaluateDiscord s).station.history := by
  by_cases joining : s.station.state = .joining
  · exact (beatRest_counts joining (h.resolve_left (not_not.2 joining))).2.2
  · rw [beatRest_away joining, offerBeacon_station]

theorem askRecital_isSome (origin : RecvOrigin) (target : Nat) (s : State) :
    (askRecital origin target s).receiving.isSome = true := by
  cases context : s.receiving with
  | none =>
    obtain ⟨c, begun, -⟩ := askRecital_begins context origin target
    rw [begun]
    rfl
  | some c =>
    rw [askRecital_held context, context]
    rfl

theorem endListening_receives {p : Nat} (small : p < 16) (peer : (s.slot p).activePeer = true) :
    (endListening s).station.state = .receiving ∧ (endListening s).receiving.isSome = true := by
  unfold endListening
  split
  · exact ⟨by rw [(askRecital_frame _ _ _).station, enterState_state], askRecital_isSome _ _ _⟩
  next none =>
    have listed := mem_stationsWhere (p := fun sl => sl.counted && sl.activePeer).2
      ⟨small, (counted_activePeer _).trans peer⟩
    rw [none] at listed
    exact absurd listed List.not_mem_nil

section
variable (joining : s.station.state = .joining) (heard : 2 ≤ s.station.listen)
include joining heard

theorem beatRest_ends : beatRest s = offerBeacon (endListening (evaluateDiscord s).listened) := by
  rw [beatRest, advanceListening_ends (by rwa [evaluateDiscord_state]) (by rwa [evaluateDiscord_listen])]

theorem beatRest_receives {p : Nat} (small : p < 16) (peer : (s.slot p).activePeer = true) :
    (beatRest s).station.state = .receiving ∧ (beatRest s).receiving.isSome = true := by
  have slot : (evaluateDiscord s).listened.slot p = s.slot p := slot_of_roster (evaluateDiscord_frame s).roster p
  obtain ⟨state, context⟩ := endListening_receives (s := (evaluateDiscord s).listened) small (slot ▸ peer)
  rw [beatRest_ends joining heard, offerBeacon_station, (offerBeacon_frame _).receiving]
  exact ⟨state, context⟩

theorem beatRest_founds (alone : ∀ p < 16, (s.slot p).activePeer = false) :
    (beatRest s).station.state = s.attState := by
  have slot (p : Nat) : (evaluateDiscord s).listened.slot p = s.slot p :=
    slot_of_roster (evaluateDiscord_frame s).roster p
  have pins : (evaluateDiscord s).listened.pins = s.pins := (evaluateDiscord_frame s).pins
  rw [beatRest_ends joining heard, offerBeacon_station, endListening_alone fun p small => slot p ▸ alone p small,
    enterState_state, State.attState, pins]
  rfl

/-- Listening ends in RECEIVING, ACTIVE or LISTENING. -/
theorem beatRest_ended : (beatRest s).station.state = .receiving ∨ (beatRest s).station.state = .active ∨
    (beatRest s).station.state = .listening := by
  by_cases alone : ∀ p < 16, (s.slot p).activePeer = false
  · rw [beatRest_founds joining heard alone, State.attState]
    split <;> simp
  · simp only [not_forall, Bool.not_eq_false] at alone
    obtain ⟨p, small, peer⟩ := alone
    exact .inl (beatRest_receives joining heard small peer).1

end

theorem beatRest_state (kept : s.station.state ≠ .joining ∨ s.station.listen < 2) :
    (beatRest s).station.state = s.station.state := by
  by_cases joining : s.station.state = .joining
  · exact (beatRest_counts joining (kept.resolve_left (not_not.2 joining))).1.trans joining.symm
  · rw [beatRest_away joining, offerBeacon_station, evaluateDiscord_state]

theorem beatRest_started (started : s.started) : (beatRest s).started := by
  rw [State.started]
  by_cases kept : s.station.state ≠ .joining ∨ s.station.listen < 2
  · rwa [beatRest_state kept]
  · rw [not_or, not_not, Nat.not_lt] at kept
    obtain h | h | h := beatRest_ended kept.1 kept.2 <;> simp [h]

/-! ### The BEACON (R108) -/

theorem beaconFrame_fields (s : State) (small : s.clock.label < 2 ^ 40) : (beaconFrame s).kind = .beacon ∧
    (beaconFrame s).cls = 3 ∧ field (beaconFrame s).body 0 5 = s.clock.label ∧
      field (beaconFrame s).body 5 1 = s.station.state.code := by
  have code : s.station.state.code < 256 ^ 1 := by cases s.station.state <;> decide
  refine ⟨rfl, rfl, ?_, ?_⟩
  · simp only [beaconFrame, newFrame, beaconBody, List.append_assoc]
    exact (field_append [] _ _ 0 5 rfl (be_length _ _)).trans (ofBE_be 5 _ small)
  · simp only [beaconFrame, newFrame, beaconBody, List.append_assoc]
    rw [field_append _ _ _ 5 1 (be_length _ _) (be_length _ _), ofBE_be 1 _ code]

theorem beacons_permitted {st : StationState} (beacons : st.beacons = true) : kindPermitted st .beacon = true := by
  cases st with
  | unconfigured => exact absurd beacons (by decide)
  | listening => exact absurd beacons (by decide)
  | _ => rfl

/-- A frame of a permitted kind is queued, or TXQ_FULL is raised (R76). -/
theorem offer_permitted {f : Frame} (permitted : kindPermitted s.station.state f.kind = true) :
    noticed (offer f s) .txqFull ∨ f ∈ (offer f s).line.queue := by
  unfold offer
  split
  · exact .inr (mem_insertFrame.2 (.inl rfl))
  · exact .inl (raise_noticed (.txqFull f.kind f.cls f.ident) s)

/-- In a state in which beacons are offered, one is held after the offer or TXQ_FULL is raised. -/
theorem offerBeacon_offers (beacons : s.station.state.beacons = true) :
    noticed (offerBeacon s) .txqFull ∨ ∃ f ∈ (offerBeacon s).line.queue, f.kind = .beacon ∧
      (NoBeacon s → f = beaconFrame s) := by
  unfold offerBeacon
  by_cases held : s.line.queue.any (fun f => f.kind == .beacon) = true
  · rw [if_neg fun h => by simp [held] at h]
    obtain ⟨f, hf, kind⟩ := List.any_eq_true.1 held
    exact .inr ⟨f, hf, eq_of_beq kind, fun none => absurd (eq_of_beq kind) (none f hf)⟩
  · rw [if_pos ⟨beacons, by simpa using held⟩]
    exact (offer_permitted (f := beaconFrame s) (beacons_permitted beacons)).imp_right fun queued =>
      ⟨_, queued, rfl, fun _ => rfl⟩

/-- A beacon time that does not leave the station LISTENING offers a BEACON with its label and state (R108). -/
theorem beatRest_offers (started : s.started) (small : s.clock.label < 2 ^ 40)
    (talks : (beatRest s).station.state ≠ .listening) :
    noticed (beatRest s) .txqFull ∨ ∃ f ∈ (beatRest s).line.queue, f.kind = .beacon ∧ (NoBeacon s →
      f.cls = 3 ∧ field f.body 0 5 = s.clock.label ∧ field f.body 5 1 = (beatRest s).station.state.code) := by
  have still := beatRest_started started
  have untroubled : Untroubled 0 s (advanceListening (evaluateDiscord s)) :=
    (evaluateDiscord_untroubled (by decide) s).trans (advanceListening_untroubled (by decide) _)
  have clock : (advanceListening (evaluateDiscord s)).clock = s.clock :=
    (advanceListening_frame _).clock.trans (evaluateDiscord_frame s).clock
  rw [State.started] at still
  unfold beatRest at still talks ⊢
  generalize advanceListening (evaluateDiscord s) = a at *
  rw [offerBeacon_station] at still talks ⊢
  have beacons : a.station.state.beacons = true := by
    cases state : a.station.state with
    | unconfigured => exact absurd state still
    | listening => exact absurd state talks
    | _ => rfl
  obtain ⟨-, cls, label, code⟩ := beaconFrame_fields a (by rw [clock]; exact small)
  refine (offerBeacon_offers beacons).imp_right fun ⟨f, held, kind, fresh⟩ => ⟨f, held, kind, fun none => ?_⟩
  rw [fresh (untroubled.beacons none), ← clock]
  exact ⟨cls, label, code⟩

end

end Sys2Proof.Machine
end

section
/-! SUPPORT. A boundary on a beacon time: what the Station Controller meets, and what its work comes to (R108, R113 to
R119, R166). -/

namespace Sys2Proof.Machine

set_option Elab.async false

/-! ### The adoption count -/

theorem advanceAdoption_history (s : State) : (advanceAdoption s).station.history = s.station.history := by
  have due (t : State) : (requestIfDue t).station.history = t.station.history := by
    unfold requestIfDue
    split <;> rfl
  unfold advanceAdoption
  split
  · exact due _
  · rfl

/-- An arrangement that is absent or WAITING is not counted down. -/
theorem advanceAdoption_uncounted {s : State}
    (h : s.station.adoption = .absent ∨ ∃ d, s.station.adoption = .waiting d) : advanceAdoption s = s := by
  obtain h | ⟨d, h⟩ := h <;> simp [advanceAdoption, h]

/-! ### Before and after the Station Controller's work -/

/-- What the evaluations of a beacon time meet in `y`, at the boundary that is made from `s`. -/
structure AtBeat (s y : State) : Prop where
  pins : y.pins = s.pins
  plan : y.plan = s.plan
  label : y.clock.label = nextLabel s
  outputs : y.outputs = s.outputs
  state : y.station.state = s.station.state
  listen : y.station.listen = s.station.listen
  history : y.station.history = s.station.history
  adoption : s.station.adoption = .absent ∨ (∃ d, s.station.adoption = .waiting d) →
    y.station.adoption = s.station.adoption
  receiving : s.receiving = none → y.receiving = none
  beacons : NoBeacon s → NoBeacon y

/-- What the boundary leaves in `t` of the Station Controller's work, which ended in `w`. -/
structure AfterBeat (w t : State) : Prop where
  label : t.clock.label = w.clock.label
  station : t.station = w.station
  roster : t.roster = w.roster
  beacons : BeaconsStand w t
  attends : Attends w t
  remains : Remains w t
  quiet : ∀ m : Fin 8, w.outputs[m].StaysQuiet t.outputs[m]

theorem beatRest_frame (s : State) : ChangesOnly
    [.table, .line, .station, .sending, .receiving, .outputs, .notices, .serial] s (beatRest s) :=
  (((evaluateDiscord_frame s).mono (by decide)).trans (advanceListening_frame _)).trans
    ((offerBeacon_frame _).mono (by decide))

theorem evaluated_frame (s : State) :
    ChangesOnly [.table, .line, .station, .sending, .receiving, .outputs, .notices] s (evaluated s) :=
  (evaluatePlan_frame s).trans (evaluateLabel_frame _)

theorem beatRest_remains (s : State) : Remains s (beatRest s) :=
  ((evaluateDiscord_remains s).trans (advanceListening_remains _)).trans (offerBeacon_remains _)

theorem beaconWork_patient {n : Nat} (few : n < 4) {s : State} (patient : Patient n (advanceSilences s)) :
    Patient n (beaconWork s) := by
  have worked := (evaluated_untroubled _).patient patient
  have listened := (advanceListening_untroubled few _).patient ((evaluateDiscord_untroubled few _).patient worked)
  rw [beaconWork_eq, beatRest, Patient, (offerBeacon_frame _).receiving]
  exact listened

theorem counted_frame_plain (s : State) : ChangesOnly [.clock, .station, .roster] s (counted .plain s) :=
  ((aged_frame s).mono (by decide)).trans ((advanceAdoption_frame _).mono (by decide))

/-- The silence counts and the adoption count leave what the evaluations meet. -/
theorem atBeat_of {s u : State} (frame : ChangesOnly (.clock :: otherParts) s u) (label : u.clock.label = nextLabel s)
    (outputs : u.outputs = s.outputs) (station : u.station = s.station)
    (receiving : s.receiving = none → u.receiving = none) (beacons : NoBeacon s → NoBeacon u) :
    AtBeat s (advanceSilences (counted .plain u)) := by
  have silences := advanceSilences_frame (counted .plain u)
  have counting := counted_frame_plain u
  have same : (counted .plain u).clock.label = u.clock.label := (advanceAdoption_asks _).label
  constructor
  case pins => rw [silences.pins, counting.pins, frame.pins]
  case plan => rw [silences.plan, counting.plan, frame.plan]
  case label => rw [silences.clock, same, label]
  case outputs => rw [silences.outputs, counting.outputs, outputs]
  case state => rw [silences.station, ← station]; exact advanceAdoption_state _
  case listen => rw [silences.station, ← station]; exact advanceAdoption_listen _
  case history => rw [silences.station, ← station]; exact advanceAdoption_history _
  case adoption =>
    intro uncounted
    rw [← station] at uncounted ⊢
    rw [silences.station]
    have stands : counted .plain u = { u with roster := u.roster.map Slot.older } :=
      advanceAdoption_uncounted (by exact uncounted)
    rw [stands]
  case receiving =>
    intro none
    rw [silences.receiving, counting.receiving, receiving none]
  case beacons =>
    intro none
    rw [NoBeacon, silences.line, counting.line]
    exact beacons none

section
variable {s v t : State} {before after : List Stage} (b : PlainBoundary s v t before after)
include b

theorem PlainBoundary.waits_once : after.count .recitalReceive + before.count .recitalReceive ≤ 1 := by
  have once := List.nodup_iff_count_le_one.1 b.once .recitalReceive
  rw [List.count_append, List.count_cons_of_ne (by decide)] at once
  omega

/-- What follows the Station Controller's work, where no attempt fails after it. -/
theorem PlainBoundary.afterBeat
    (patient : Patient (after.count .recitalReceive) (stationWork .plain (stagesFrom .plain before v))) :
    AfterBeat (stationWork .plain (stagesFrom .plain before v)) t := by
  have closed := b.closed
  have remains := b.remains
  generalize stationWork .plain (stagesFrom .plain before v) = w at *
  obtain ⟨beside, -⟩ := stagesFrom_beside b.none_after .plain (n := 0) (by rwa [Nat.zero_add])
  generalize stagesFrom .plain after w = z at *
  have ended := ((outputsBoundary_frame z).then (rs := [.outputs, .notices]) closed)
  refine ⟨?_, ?_, ?_, ?_, ?_, (beside.remains.trans (outputsBoundary_remains z)).trans remains, fun m => ?_⟩
  · rw [ended.clock, beside.frame.clock]
  · rw [ended.station, beside.frame.station]
  · rw [ended.roster, beside.frame.roster]
  · exact beside.beacons.trans (.of_frame ended)
  · exact beside.attends.trans (.of_eq ended.receiving)
  · have quiet := outputsBoundary_staysQuiet z m
    rwa [← closed.outputs, beside.frame.outputs] at quiet

theorem PlainBoundary.on_beat (started : s.started) (patient : ∀ d, s.receiving = some d → d.wait < 3)
    (beat : nextLabel s % s.plan.b = 0) :
    ∃ y, AtBeat s y ∧ AfterBeat (beatRest (evaluated y)) t ∧ t.roster = y.roster := by
  have once := b.waits_once
  have early : Patient (after.count .recitalReceive + before.count .recitalReceive) v := fun d held => by
    have := patient d (b.taken.receiving ▸ held)
    omega
  obtain ⟨ahead, still⟩ := stagesFrom_beside b.none_before .plain early
  have frame := b.ahead
  have beacon : (stagesFrom .plain before v).beaconTime = true := by
    rw [State.beaconTime, b.ahead_label, frame.plan, beat]
    rfl
  have worked : stationWork .plain (stagesFrom .plain before v) =
      beatRest (evaluated (advanceSilences (counted .plain (stagesFrom .plain before v)))) := by
    rw [stationWork_plain (b.ahead_started started), if_pos beacon, beaconWork_eq]
  have waiting : Patient (after.count .recitalReceive) (stationWork .plain (stagesFrom .plain before v)) := by
    rw [worked, ← beaconWork_eq]
    refine beaconWork_patient (by omega) ?_
    rwa [Patient, (advanceSilences_frame _).receiving, (counted_frame_plain _).receiving]
  have atBeat := atBeat_of frame b.ahead_label (ahead.frame.outputs.trans b.taken.outputs)
    (ahead.frame.station.trans b.taken.station) (fun none => ahead.attends.1 (b.taken.receiving.trans none))
    fun none => ahead.beacons.noBeacon (by rwa [NoBeacon, b.taken.line])
  have behind := b.afterBeat waiting
  rw [worked] at behind
  exact ⟨_, atBeat, behind, by rw [behind.roster, (beatRest_frame _).roster, (evaluated_frame _).roster]⟩

end

end Sys2Proof.Machine
end

section
/-! SUPPORT. What a boundary on a beacon time leaves, by the evaluations that it makes (R108, R113 to R119, R166). -/

namespace Sys2Proof.Machine

set_option Elab.async false

section
variable {s : State}

/-! ### The evaluated state, by cases -/

theorem entered_keeps {new : StationState} (unsettled : new.settledIn = false) (st : Station) :
    (st.entered new).history = st.history := by
  simp [Station.entered, unsettled]

theorem enterState_history {new : StationState} (unsettled : new.settledIn = false) (s : State) :
    (enterState new s).station.history = s.station.history := by
  by_cases same : s.station.state = new
  · rw [enterState_same same]
  · rw [enterState_station same, entered_keeps unsettled]

theorem armAdoption_history (s : State) : (armAdoption s).station.history = s.station.history := by
  unfold armAdoption
  split
  · split <;> rfl
  · rfl

/-- The evaluations leave the state, or make the station ISOLATED or ADRIFT, or let an ADRIFT one join. -/
theorem evaluated_cases (started : s.started) :
    (evaluated s = s ∧ ¬ s.isolates ∧ (s.station.state = .isolated ∨ ¬ s.labelOutvoted)) ∨
    ((evaluated s).station.state = .isolated ∧ (evaluated s).station.history = s.station.history) ∨
    ((evaluated s).station.state = .adrift ∧ (evaluated s).station.history = s.station.history) ∨
    (s.station.state = .adrift ∧ (evaluated s).station.state = .joining ∧ (evaluated s).station.listen = 0 ∧
      (evaluated s).station.history = s.station.history) := by
  by_cases plan : s.isolates
  · obtain ⟨n, -, eq⟩ := evaluated_isolates plan
    rw [eq, enterState_state, enterState_history rfl]
    exact .inr (.inl ⟨rfl, rfl⟩)
  by_cases isolated : s.station.state = .isolated
  · exact .inl ⟨evaluated_stands plan (.inl isolated), plan, .inl isolated⟩
  by_cases adrift : s.station.state = .adrift
  · by_cases lost : s.labelOutvoted
    · rw [evaluated_adrift plan lost adrift, armAdoption_state, armAdoption_history, adrift]
      exact .inr (.inr (.inl ⟨rfl, rfl⟩))
    · rw [evaluated_rejoins plan lost adrift, enterState_station (by simp [adrift]), entered_keeps rfl]
      exact .inr (.inr (.inr ⟨adrift, rfl, rfl, rfl⟩))
  by_cases lost : s.labelOutvoted
  · obtain ⟨n, -, eq⟩ := evaluated_drifts plan lost adrift isolated started
    rw [eq, armAdoption_state, armAdoption_history, enterState_state, enterState_history rfl]
    exact .inr (.inr (.inl ⟨rfl, rfl⟩))
  · exact .inl ⟨evaluated_stands plan (.inr ⟨lost, adrift⟩), plan, .inr lost⟩

theorem evaluated_history (started : s.started) : (evaluated s).station.history = s.station.history := by
  obtain ⟨eq, -⟩ | ⟨-, same⟩ | ⟨-, same⟩ | ⟨-, -, -, same⟩ := evaluated_cases started
  · rw [eq]
  all_goals exact same

theorem evaluated_started (started : s.started) : (evaluated s).started := by
  rw [State.started]
  obtain ⟨eq, -⟩ | ⟨state, -⟩ | ⟨state, -⟩ | ⟨-, state, -⟩ := evaluated_cases started
  · rw [eq]; exact started
  all_goals rw [state]; decide

/-- Only a station that no evaluation moved is ACTIVE. -/
theorem evaluated_active (started : s.started) (active : (evaluated s).station.state = .active) :
    evaluated s = s ∧ ¬ s.isolates ∧ ¬ s.labelOutvoted := by
  obtain ⟨eq, plan, label⟩ | ⟨state, -⟩ | ⟨state, -⟩ | ⟨-, state, -⟩ := evaluated_cases started
  · rw [eq] at active
    exact ⟨eq, plan, label.resolve_left (by simp [active])⟩
  all_goals simp [state] at active

/-- A station in which listening ends is one that no evaluation moved. -/
theorem evaluated_listened (started : s.started) (joining : (evaluated s).station.state = .joining)
    (heard : 2 ≤ (evaluated s).station.listen) : evaluated s = s := by
  obtain ⟨eq, -⟩ | ⟨state, -⟩ | ⟨state, -⟩ | ⟨-, -, listen, -⟩ := evaluated_cases started
  · exact eq
  · simp [state] at joining
  · simp [state] at joining
  · omega

/-! ### What follows the evaluations, in a state other than JOINING -/

section
variable (away : s.station.state ≠ .joining)
include away

theorem beatRest_away_adoption : (beatRest s).station.adoption = s.station.adoption := by
  obtain ⟨h, eq⟩ := evaluateDiscord_station s
  rw [beatRest_away away, offerBeacon_station, eq]

theorem beatRest_away_outputs : (beatRest s).outputs = s.outputs := by
  rw [beatRest_away away, (offerBeacon_frame _).outputs, (evaluateDiscord_frame s).outputs]

end

theorem armAdoption_waits (adopt : s.plan.adopt = true)
    (free : s.station.adoption = .absent ∨ ∃ d, s.station.adoption = .waiting d) :
    (armAdoption s).station.adoption = .waiting (majorityOffset s) := by
  unfold armAdoption
  rw [if_pos adopt]
  obtain h | ⟨d, h⟩ := free <;> simp [h]

end

/-! ### The clauses -/

section
variable {y t : State} (after : AfterBeat (beatRest (evaluated y)) t)
include after

theorem AfterBeat.noticed {k : NoticeKind} (told : Machine.noticed (evaluated y) k) : Machine.noticed t k :=
  after.remains.noticed k ((beatRest_remains _).noticed k told)

/-- An output that the evaluations left quenched is so after the boundary. -/
theorem AfterBeat.held (away : (evaluated y).station.state ≠ .joining) {m : Fin 8} {cause : QuenchDetail}
    (held : (evaluated y).outputs[m].Held cause) : t.outputs[m].Held cause := by
  have stays := after.quiet m
  rw [beatRest_away_outputs away] at stays
  exact stays.held held

theorem AfterBeat.isolates (plan : y.isolates) : t.station.state = .isolated ∧ Machine.noticed t .isolated ∧
    ∀ m : Fin 8, y.outputs[m].running = true → t.outputs[m].Held .isolated := by
  obtain ⟨n, kind, eq⟩ := evaluated_isolates plan
  have state : (evaluated y).station.state = .isolated := by rw [eq, enterState_state]
  have away : (evaluated y).station.state ≠ .joining := by simp [state]
  refine ⟨by rw [after.station, beatRest_state (.inl away), state], after.noticed ?_, fun m running => ?_⟩
  · rw [eq, ← kind]
    exact (enterState_remains .isolated (raise n y)).noticed n.kind (raise_noticed n y)
  · exact after.held away (enterState_isolated_held (s := raise n y) plan.1 eq running)

theorem AfterBeat.stays (plan : ¬ y.isolates)
    (label : y.station.state = .isolated ∨ (¬ y.labelOutvoted ∧ y.station.state ≠ .adrift))
    (away : y.station.state ≠ .joining) : t.station.state = y.station.state := by
  rw [after.station, evaluated_stands plan label, beatRest_state (.inl away)]

section
variable (plan : ¬ y.isolates) (other : y.station.state ≠ .isolated) (lost : y.labelOutvoted)
include plan other lost

theorem AfterBeat.drifts (started : y.started) : t.station.state = .adrift ∧
    (y.station.state ≠ .adrift → Machine.noticed t .adrift ∧ ∀ (m : Fin 8) (b : Binding), y.outputs[m].running = true →
      y.outputs[m].binding = some b → b.quench = true →
        t.outputs[m].Held .adrift) := by
  by_cases adrift : y.station.state = .adrift
  · have state : (evaluated y).station.state = .adrift := by
      rw [evaluated_adrift plan lost adrift, armAdoption_state, adrift]
    exact ⟨by rw [after.station, beatRest_state (.inl (by simp [state])), state], fun h => absurd adrift h⟩
  · obtain ⟨n, kind, eq⟩ := evaluated_drifts plan lost adrift other started
    have state : (evaluated y).station.state = .adrift := by rw [eq, armAdoption_state, enterState_state]
    have away : (evaluated y).station.state ≠ .joining := by simp [state]
    have arming := armAdoption_frame (enterState .adrift (raise n y))
    refine ⟨by rw [after.station, beatRest_state (.inl away), state], fun _ => ⟨after.noticed ?_, ?_⟩⟩
    · rw [eq, ← kind]
      exact (Remains.of_frame arming).noticed n.kind
        ((enterState_remains .adrift (raise n y)).noticed n.kind (raise_noticed n y))
    · intro m b running bound policy
      have outputs : (evaluated y).outputs = (enterState .adrift (raise n y)).outputs := by rw [eq, arming.outputs]
      exact after.held away (enterState_adrift_held (s := raise n y) adrift outputs running bound policy)

theorem AfterBeat.waits (started : y.started) (adopt : y.plan.adopt = true)
    (free : y.station.adoption = .absent ∨ ∃ d, y.station.adoption = .waiting d) :
    t.station.adoption = .waiting (majorityOffset y) := by
  by_cases adrift : y.station.state = .adrift
  · have eq := evaluated_adrift plan lost adrift
    rw [after.station, eq, beatRest_away_adoption (by simp [armAdoption_state, adrift]), armAdoption_waits adopt free]
  · obtain ⟨n, -, eq⟩ := evaluated_drifts plan lost adrift other started
    have entering := enterState_frame .adrift (raise n y)
    have adoption : (enterState .adrift (raise n y)).station.adoption = y.station.adoption := by
      rw [enterState_station (s := raise n y) adrift]
      exact if_neg adrift
    rw [after.station, eq, beatRest_away_adoption (by simp [armAdoption_state, enterState_state]),
      armAdoption_waits (by rw [entering.plan]; exact adopt) (by rwa [adoption]),
      majorityOffset_of (s := y) entering.roster]

end

theorem AfterBeat.rejoins (plan : ¬ y.isolates) (kept : ¬ y.labelOutvoted) (adrift : y.station.state = .adrift) :
    t.station.state = .joining ∧ t.station.listen = 1 := by
  have station : (evaluated y).station = y.station.entered .joining := by
    rw [evaluated_rejoins plan kept adrift, enterState_station (by simp [adrift])]
  have listen : (evaluated y).station.listen = 0 := by rw [station]; rfl
  have state : (evaluated y).station.state = .joining := by rw [station]; rfl
  obtain ⟨still, counted, -⟩ := beatRest_counts state (by omega)
  rw [after.station, still, counted, listen]
  exact ⟨rfl, rfl⟩

section
variable (plan : ¬ y.isolates) (kept : ¬ y.labelOutvoted) (joining : y.station.state = .joining)
include plan kept joining

theorem AfterBeat.counts (early : y.station.listen < 2) :
    t.station.state = .joining ∧ t.station.listen = y.station.listen + 1 := by
  obtain ⟨still, counted, -⟩ := beatRest_counts joining early
  rw [after.station, evaluated_stands plan (.inr ⟨kept, by simp [joining]⟩), still, counted]
  exact ⟨rfl, rfl⟩

theorem AfterBeat.receives (heard : 2 ≤ y.station.listen) {p : Nat} (small : p < 16)
    (peer : (y.slot p).activePeer = true) : t.station.state = .receiving ∧ t.receiving.isSome = true := by
  have eq := evaluated_stands plan (.inr ⟨kept, by simp [joining]⟩)
  have attends := after.attends
  rw [eq] at attends
  obtain ⟨state, context⟩ := beatRest_receives joining heard small peer
  refine ⟨by rw [after.station, eq, state], ?_⟩
  obtain ⟨d, held⟩ := Option.isSome_iff_exists.1 context
  obtain ⟨e, there, -⟩ := attends.2 d held
  rw [there]
  rfl

theorem AfterBeat.founds (heard : 2 ≤ y.station.listen) (alone : ∀ p < 16, (y.slot p).activePeer = false) :
    t.station.state = y.attState := by
  rw [after.station, evaluated_stands plan (.inr ⟨kept, by simp [joining]⟩), beatRest_founds joining heard alone]

end

/-! ### Discord and the BEACON -/

theorem AfterBeat.asks {r : EvalResult} (result : y.shelfOutvoted ↔ r = .lost) (plan : ¬ y.isolates)
    (kept : ¬ y.labelOutvoted) (active : y.station.state = .active)
    (lost : appendResult y.station.history r = [.lost, .lost]) {p : Nat} (small : p < 16)
    (peer : (y.slot p).activePeer = true) (disagrees : (y.slot p).disagrees = true)
    (lowest : ∀ q < p, ¬ ((y.slot q).activePeer = true ∧ (y.slot q).disagrees = true)) :
    t.station.history = [] ∧ (y.receiving = none →
      ∃ d, t.receiving = some d ∧ d.origin = .discord ∧ d.target = p ∧ d.source = none) := by
  obtain ⟨history, asked⟩ := evaluateDiscord_asks result active lost small peer disagrees lowest
  have eq := evaluated_stands plan (.inr ⟨kept, by simp [active]⟩)
  have rest : beatRest (evaluated y) = offerBeacon (evaluateDiscord y) := by
    rw [eq, beatRest_away (by simp [active])]
  refine ⟨by rw [after.station, rest, offerBeacon_station, history], fun none => ?_⟩
  obtain ⟨d, begun, origin, target, source⟩ := asked none
  have attends := after.attends.2 d (by rw [rest, (offerBeacon_frame _).receiving, begun])
  obtain ⟨e, there, origin', target', source'⟩ := attends
  exact ⟨e, there, origin'.trans origin, target'.trans target, source'.trans source⟩

theorem AfterBeat.judges (started : y.started) {r : EvalResult} (result : y.shelfOutvoted ↔ r = .lost)
    (quiet : y.station.state = .active → ¬ y.isolates → ¬ y.labelOutvoted →
      appendResult y.station.history r = [.lost, .lost] →
        ∀ p < 16, ¬ ((y.slot p).activePeer = true ∧ (y.slot p).disagrees = true))
    (state : t.station.state = y.station.state ∨ t.station.state = .adrift ∨ t.station.state = .isolated ∨
      y.station.state = .adrift) : t.station.history = appendResult y.station.history r := by
  have frame := evaluated_frame y
  have discord : (evaluateDiscord (evaluated y)).station.history = appendResult y.station.history r := by
    rw [← evaluated_history started]
    refine evaluateDiscord_keeps ((shelfOutvoted_of frame.roster frame.pins).trans result) fun active lost => ?_
    obtain ⟨eq, plan, kept⟩ := evaluated_active started active
    rw [eq] at active lost ⊢
    exact quiet active plan kept lost
  rw [after.station, ← discord]
  refine beatRest_history ?_
  by_contra ended
  rw [not_or, not_not, Nat.not_lt] at ended
  obtain ⟨joining, heard⟩ := ended
  have left := beatRest_ended joining heard
  have eq := evaluated_listened started joining heard
  rw [← after.station] at left
  rw [eq] at joining
  obtain h | h | h := left <;> simp [h, joining] at state

theorem AfterBeat.beacon (started : y.started) (small : y.clock.label < 2 ^ 40) (talks : t.station.state ≠ .listening) :
    Machine.noticed t .txqFull ∨ ∃ f ∈ t.line.queue, f.kind = .beacon ∧ (NoBeacon y →
      f.cls = 3 ∧ field f.body 0 5 = t.clock.label ∧ field f.body 5 1 = t.station.state.code) := by
  have clock : (beatRest (evaluated y)).clock = y.clock := (beatRest_frame _).clock.trans (evaluated_frame y).clock
  have same : (evaluated y).clock.label = t.clock.label := by
    rw [after.label, clock, (evaluated_frame y).clock]
  have label : (evaluated y).clock.label < 2 ^ 40 := by
    rw [(evaluated_frame y).clock]
    exact small
  rw [after.station] at talks ⊢
  obtain full | ⟨f, held, kind, fresh⟩ := beatRest_offers (evaluated_started started) label talks
  · exact .inl (after.remains.noticed _ full)
  · rw [same] at fresh
    exact .inr ⟨f, (after.beacons f kind).2 held, kind, fun none =>
      fresh ((evaluated_untroubled (n := 0) y).beacons none)⟩

end

end Sys2Proof.Machine
end

section
/-! SUPPORT. A boundary off the beacon times leaves the state, the history and the listen count (R108). -/

namespace Sys2Proof.Machine

set_option Elab.async false

section
variable {s v t : State} {before after : List Stage} (b : PlainBoundary s v t before after)
include b

theorem PlainBoundary.off_beat (started : s.started) (off : nextLabel s % s.plan.b ≠ 0) :
    t.station.state = s.station.state ∧ t.station.history = s.station.history ∧
      t.station.listen = s.station.listen := by
  have closed := (outputsBoundary_frame _).then (rs := [.outputs, .notices]) b.closed
  have quiet {u : State} (label : u.clock.label = nextLabel s) (plan : u.plan = s.plan) : u.beaconTime = false := by
    rw [State.beaconTime, label, plan]
    exact beq_eq_false_iff_ne.2 off
  have ahead := stagesFrom_offBeat b.none_before (quiet b.label b.taken.plan) .plain
  have still := quiet b.ahead_label b.ahead.plan
  have worked := stationWork_plain (b.ahead_started started)
  rw [if_neg (by simp [still])] at worked
  have plan := b.ahead.plan
  have label := b.ahead_label
  generalize stagesFrom .plain before v = u at *
  have same : (counted .plain u).clock.label = u.clock.label := (advanceAdoption_asks _).label
  have counting := counted_frame_plain u
  have behind := stagesFrom_offBeat b.none_after (quiet (same.trans label) (counting.plan.trans plan)) .plain
  rw [worked] at closed
  rw [closed.station, behind.station, ← b.taken.station, ← ahead.station]
  exact ⟨advanceAdoption_state _, advanceAdoption_history _, advanceAdoption_listen _⟩

end

end Sys2Proof.Machine
end

namespace Sys2Proof.Machine

/-- Settles O31: the boundary is the Station Controller's work between that of other units, which leave it the station
and the BEACON frames; each clause is what one outcome of its evaluations comes to. -/
theorem beaconTimeEvaluatesTheShelf : Obligations.BeaconTimeEvaluatesTheShelf := by
  intro s c made started free patient
  obtain ⟨t, run, v, before, later, b⟩ := plainBoundary_of made free
  refine ⟨t, run, b.off_beat started, fun beat => ?_⟩
  obtain ⟨y, at_, after, roster⟩ := b.on_beat started patient beat
  have slots : t.slot = y.slot := funext (slot_of_roster roster)
  have begun : y.started := by rw [State.started, at_.state]; exact started
  have small : y.clock.label < 2 ^ 40 := by rw [at_.label]; exact Nat.mod_lt _ (by decide)
  rw [slots, ← at_.state, ← at_.history, ← at_.listen, ← at_.pins, ← at_.outputs]
  intro voters drift isolates drifts discord size stays
  refine ⟨fun plan => ?isolates, fun isolated => ?isolated, fun plan other lost => ⟨?drifts, ?leaves, ?waits⟩,
    fun plan adrift kept => after.rejoins plan kept adrift, ?stays, ?counts, ?ends, fun r result => ⟨?asks, ?judges⟩,
    fun talks => ?beacon⟩
  case isolates =>
    obtain ⟨state, told, held⟩ := after.isolates plan
    exact ⟨state, told, fun n running => ⟨(held n running).2, (held n running).1.2.2⟩⟩
  case isolated =>
    rw [after.stays (fun plan => plan.1 isolated) (.inl isolated) (by simp [isolated]), isolated]
  case drifts => exact (after.drifts plan other lost begun).1
  case leaves =>
    intro away
    obtain ⟨told, held⟩ := (after.drifts plan other lost begun).2 away
    refine ⟨told, fun n bound running binding policy => ?_⟩
    obtain ⟨quiet, caused⟩ := held n bound running binding policy
    exact ⟨caused, quiet.2.2⟩
  case waits =>
    intro adopt free
    obtain ⟨p, held, offset, most⟩ := majorityOffset_spec (drift_of_outvoted lost)
    refine ⟨p, held, ?_, fun q hq => ⟨(most q hq).1, fun same => ⟨p, held, rfl, (most q hq).2 same⟩⟩⟩
    rw [← offset]
    exact after.waits plan other lost begun (by rwa [at_.plan]) (by rwa [at_.adoption free])
  case stays =>
    intro ⟨plan, kept, away⟩ other joining
    exact after.stays plan (.inr ⟨kept, away⟩) joining
  case counts =>
    intro ⟨plan, kept, away⟩ joining early
    exact after.counts plan kept joining early
  case ends =>
    intro ⟨plan, kept, away⟩ joining heard
    exact ⟨fun p peer => after.receives plan kept joining heard p.isLt peer,
      fun alone => after.founds plan kept joining heard fun p small => alone ⟨p, small⟩⟩
  case asks =>
    intro p ⟨active, plan, kept, lost, peer, disagrees⟩ lowest
    obtain ⟨history, asked⟩ := after.asks result plan kept active ((appendResult_eq _ r).trans lost) p.isLt peer
      disagrees fun q lower ⟨peer, disagrees⟩ => lowest q lower ⟨active, plan, kept, lost, peer, disagrees⟩
    exact ⟨history, fun none => asked (at_.receiving none)⟩
  case judges =>
    intro quiet state
    refine (after.judges begun result (fun active plan kept lost p small ⟨peer, disagrees⟩ => ?_) state).trans
      (appendResult_eq _ r)
    exact quiet ⟨p, small⟩ ⟨active, plan, kept, (appendResult_eq _ r).symm.trans lost, peer, disagrees⟩
  case beacon =>
    refine (after.beacon begun small talks).imp_right fun ⟨f, held, kind, fresh⟩ => ⟨f, held, kind, fun none => ?_⟩
    exact fresh (at_.beacons none)

end Sys2Proof.Machine

section
/-! SUPPORT. An attempt that has waited long and the peer that is asked after it, and a sending recital that is abandoned
(R130, R131, R133, R134). -/

namespace Sys2Proof.Machine

set_option Elab.async false

section
variable {s : State} {c : RecvCtx}

/-! ### The wait count (R134) -/

theorem timeoutIfDue_due (held : s.receiving = some c) (long : 4 ≤ c.wait) :
    timeoutIfDue s = failAttempt .timeout s := by
  simp only [timeoutIfDue, held]
  exact if_pos long

theorem timeoutIfDue_stands (early : ∀ c, s.receiving = some c → c.wait < 4) : timeoutIfDue s = s := by
  unfold timeoutIfDue
  split
  next c held => exact if_neg (Nat.not_le.2 (early c held))
  next => rfl

/-! ### The peer that is asked next (R133) -/

/-- The station at which the present attempt fails: its source, or its target while no source is taken. -/
def RecvCtx.peer (c : RecvCtx) : Nat := c.source.getD c.target

/-- The stations tried once the present attempt has failed. -/
def RecvCtx.triedAfter (c : RecvCtx) : StationSet := addStation (addStation c.tried c.target) c.peer

/-- The context of the attempt that follows a failed one, asked of station `k`. -/
def RecvCtx.nextAttempt (c : RecvCtx) (cause : AttemptCause) (k serial : Nat) : RecvCtx :=
  { c with target := k, req := .queued, source := none, expected := 1, total := none, wait := 0, tried := c.triedAfter,
           attempts := c.attempts ++ [(c.peer, cause)], serial := serial }

/-- An ACTIVE peer that has not been tried once the present attempt has failed. -/
def State.untried (s : State) (c : RecvCtx) (k : Nat) : Prop :=
  (s.slot k).activePeer = true ∧ hasStation c.triedAfter k = false

theorem find_untried_some {k : Nat} (small : k < 16) (next : s.untried c k) (lowest : ∀ j < k, ¬ s.untried c j) :
    (s.stationsWhere fun sl => sl.activePeer).find? (fun k => !hasStation c.triedAfter k) = some k := by
  rw [State.stationsWhere, List.find?_filter, List.find?_range_eq_some]
  obtain ⟨peer, fresh⟩ := next
  refine ⟨by simp [peer, fresh], List.mem_range.2 small, fun j lower => ?_⟩
  rw [Bool.not_eq_true', Bool.eq_false_iff]
  intro passes
  exact lowest j lower (by simpa [State.untried] using passes)

theorem find_untried_none (exhausted : ∀ k < 16, ¬ s.untried c k) :
    (s.stationsWhere fun sl => sl.activePeer).find? (fun k => !hasStation c.triedAfter k) = none := by
  refine List.find?_eq_none.2 fun k hk fresh => ?_
  obtain ⟨small, peer⟩ := mem_stationsWhere.1 hk
  exact exhausted k small ⟨peer, by simpa using fresh⟩

theorem failAttempt_asks (held : s.receiving = some c) (cause : AttemptCause) {k : Nat} (small : k < 16)
    (next : s.untried c k) (lowest : ∀ j < k, ¬ s.untried c j) :
    failAttempt cause s =
      offerRequest { s with serial := s.serial + 1, receiving := some (c.nextAttempt cause k s.serial) } := by
  have found := find_untried_some small next lowest
  simp only [RecvCtx.triedAfter, RecvCtx.peer] at found
  simp only [failAttempt, held, found]
  rfl

theorem failAttempt_ends (held : s.receiving = some c) (cause : AttemptCause) (exhausted : ∀ k < 16, ¬ s.untried c k) :
    failAttempt cause s = roundFailed c.origin
      (raise (.recitalFailed c.origin (c.attempts ++ [(c.peer, cause)]) c.tallies) { s with receiving := none }) := by
  have found := find_untried_none exhausted
  simp only [RecvCtx.triedAfter, RecvCtx.peer] at found
  simp only [failAttempt, held, found]
  rfl

theorem roundFailed_joining (s : State) : (roundFailed .joining s).station.state = .joining := enterState_state _ s

theorem roundFailed_other {o : RecvOrigin} (other : o ≠ .joining) (s : State) : roundFailed o s = s := by
  cases o with
  | joining => exact absurd rfl other
  | missedEntry => rfl
  | discord => rfl

/-! ### A sending recital that is abandoned (R130, R131) -/

theorem execRecitalAbandon_due {c : SendCtx} (held : s.sending = some c)
    (due : s.station.state ≠ .active ∨ 4 ≤ c.failed) : exec .recitalAbandon s = .next { s with sending := none } := by
  change execRecitalAbandon s = _
  rw [execRecitalAbandon, if_pos (by simpa [held] using due)]
  rfl

theorem execRecitalAbandon_stands {c : SendCtx} (held : s.sending = some c) (active : s.station.state = .active)
    (few : c.failed < 4) : exec .recitalAbandon s = .next s := by
  change execRecitalAbandon s = _
  rw [execRecitalAbandon, if_neg (by simp [held, active, few])]

end

/-- Settles O34: an attempt that has waited long is followed by that at the next peer, or its round has failed. -/
theorem recitalsTimeOutAndAreAbandoned : Obligations.RecitalsTimeOutAndAreAbandoned := by
  intro s
  refine ⟨fun c held long => ?timeout, fun absent => ?absent, fun c held early => ?early,
    fun _ => execRecitalAbandon_due, fun _ => execRecitalAbandon_stands⟩
  case absent =>
    exact congrArg Host.Outcome.next (timeoutIfDue_stands fun c held => absurd (absent.symm.trans held) (by simp))
  case early =>
    refine congrArg Host.Outcome.next (timeoutIfDue_stands fun d present => ?_)
    obtain rfl := Option.some.inj (held.symm.trans present)
    exact early
  case timeout =>
    have ran : exec .recitalTimeout s = .next (failAttempt .timeout s) :=
      congrArg Host.Outcome.next (timeoutIfDue_due held long)
    intro peer tried untried
    rw [ran]
    refine ⟨fun k next lowest => ?next, fun exhausted => ⟨_, rfl, ?ends⟩⟩
    case next =>
      rw [failAttempt_asks held .timeout k.isLt next lowest]
      obtain ⟨req, asked⟩ := offerRequest_receiving
        (s := { s with serial := s.serial + 1, receiving := some (c.nextAttempt .timeout k s.serial) }) rfl
      exact ⟨_, _, rfl, asked, rfl, rfl, rfl, rfl, rfl, rfl, rfl, rfl, rfl,
        (withAttempt_frame _ _ s).then (offerRequest_frame _)⟩
    case ends =>
      rw [failAttempt_ends held .timeout fun k small => exhausted ⟨k, small⟩]
      refine ⟨roundFailed_receiving_none rfl _, fun joining => ?_, fun other => ?_, roundFailed_notices _ _⟩
      · rw [joining]
        exact roundFailed_joining _
      · rw [roundFailed_other other]
        rfl

end Sys2Proof.Machine
end

section
/-! SUPPORT. A RECITE_REQ at the Recital Unit: the requests that are turned away, and the requester that is placed (R127,
R128). -/

namespace Sys2Proof.Machine

set_option Elab.async false

section
variable {s : State} {sender : BitVec 4} {body : List Byte} {p : Nat}

/-! ### Sets of stations -/

theorem dropStation_own (set : StationSet) (p : Nat) : (dropStation set p).getLsbD p = false := by
  by_cases small : p < 16 <;> simp [dropStation, small]

theorem dropStation_other (set : StationSet) {p q : Nat} (other : q ≠ p) :
    (dropStation set p).getLsbD q = set.getLsbD q := by
  by_cases small : q < 16
  · simp [dropStation, small, other]
  · simp [BitVec.getLsbD_of_ge _ _ (Nat.not_lt.1 small)]

theorem addStation_other (set : StationSet) {p q : Nat} (other : q ≠ p) :
    (addStation set p).getLsbD q = set.getLsbD q := by
  simp [addStation, other.symm]

/-! ### The request (R127) -/

theorem exec_reciteReq (heard : audible s .reciteReq sender body) (length : body.length = 1) :
    exec (.reciteReq sender body) s = .next (takeReciteReq sender.toNat body (afterReport s sender)) :=
  congrArg Host.Outcome.next (receiveTyped_audible heard (by omega) (by simp [lengthPermitted, length]) _)

theorem takeReciteReq_outside (outside : s.plan.n ≤ field body 0 1) :
    takeReciteReq p body s = contentError .formContent .reciteReq p body s := if_pos outside

theorem takeReciteReq_ignored (inside : field body 0 1 < s.plan.n)
    (ignored : field body 0 1 ≠ s.pins.stn ∨ s.station.state ≠ .active ∨ s.disagreeing p = true) :
    takeReciteReq p body s = s :=
  (if_neg (Nat.not_le.2 inside)).trans (if_pos ignored)

theorem takeReciteReq_placed (inside : field body 0 1 < s.plan.n) (own : field body 0 1 = s.pins.stn)
    (active : s.station.state = .active) (agreeing : s.disagreeing p = false) :
    takeReciteReq p body s = placeRequester p s :=
  (if_neg (Nat.not_le.2 inside)).trans (if_neg (by simp [own, active, agreeing]))

theorem placeRequester_deferred {c : SendCtx} (sending : s.sending = some c) :
    placeRequester p s =
      { s with sending := some { c with audience := dropStation c.audience p, deferred := addStation c.deferred p } } := by
  simp only [placeRequester, sending]

/-- Without a recital under way one starts for the requester alone. -/
theorem placeRequester_starts (silent : s.sending = none) :
    placeRequester p s = startRecital (BitVec.twoPow 16 p) { s with sending := none } := by
  have alone : addStation noStations p = BitVec.twoPow 16 p := by simp [addStation, noStations]
  have same : { s with sending := none } = s := by rw [← silent]
  simp only [placeRequester, silent, alone, same]

end

/-- Settles O45: the tests of R127 in their order, then the recital under way or the one that starts. -/
theorem reciteReqPlacesTheRequester : Obligations.ReciteReqPlacesTheRequester := by
  intro s sender body heard length u p target refusedHere
  have run : exec (.reciteReq sender body) s = .next (takeReciteReq p body u) := exec_reciteReq heard length
  have report : ChangesOnly [.line, .roster, .notices] s u := afterReport_frame
  have plan := report.plan
  have pins := report.pins
  have station := report.station
  rw [run]
  refine ⟨fun outside => ⟨_, rfl, ?outside⟩, fun inside refused => ?refused, fun inside taken => ?placed⟩
  case outside =>
    rw [takeReciteReq_outside (by rwa [plan])]
    have raises := contentError_raised .formContent .reciteReq p body u
    rw [length, report.clock] at raises
    exact ⟨raises, raise_frame _ u⟩
  case refused =>
    refine congrArg _ (takeReciteReq_ignored (by rwa [plan]) ?_)
    rw [pins, station]
    exact refused.imp_right (Or.imp_right afterReport_apart)
  case placed =>
    obtain ⟨own, active, divergent, mismatched⟩ : target = s.pins.stn ∧ s.station.state = .active ∧
        (s.slot p).state ≠ .divergent ∧ (s.slot p).state ≠ .mismatched := by
      simpa [refusedHere, not_or] using taken
    rw [takeReciteReq_placed (by rwa [plan]) (own.trans (by rw [pins])) (by rw [station, active])
      (afterReport_agreeing divergent mismatched)]
    refine ⟨fun c sending => ?under_way, fun silent => ?starts⟩
    case under_way =>
      rw [placeRequester_deferred (report.sending.trans sending)]
      exact ⟨_, _, rfl, rfl, rfl, dropStation_own _ _, hasStation_addStation _ sender.isLt,
        fun q other => ⟨dropStation_other _ other, addStation_other _ other⟩, withSending_frame _ u⟩
    case starts =>
      have stopped : { u with sending := none } = u := by rw [← report.sending.trans silent]
      have same : RecitalRoom u ↔ roomFor s.line.queue 0 = true := by
        rw [RecitalRoom, station, afterReport_queue]
        exact and_iff_right active
      obtain ⟨d, held, snapshot, first, audience, deferred, room, full⟩ :=
        startRecital_told (ChangesOnly.refl [.line] u) (BitVec.twoPow 16 p)
      have frame := startRecital_frame (BitVec.twoPow 16 p) { u with sending := none }
      rw [placeRequester_starts (report.sending.trans silent)]
      rw [stopped] at frame held room full ⊢
      rw [report.table] at snapshot room
      refine ⟨_, d, rfl, held, snapshot, first, audience, deferred, fun free => ?_, fun none => ?_, frame⟩
      · obtain ⟨queued, unfailed, f, line, cls, -, kind⟩ := room (same.2 free)
        refine ⟨queued, unfailed, f, ?_, cls, kind⟩
        rw [line, afterReport_queue]
      · obtain ⟨due, failed, line⟩ := full (mt same.1 (Bool.eq_false_iff.1 none))
        exact ⟨due, failed, by rw [line, afterReport_queue]⟩

end Sys2Proof.Machine
end

section
/-! SUPPORT. A record of a recital taken in order: the frame that brings it, the sequence recovery before it, and the
tallies after it (R132, R135 to R137). -/

namespace Sys2Proof.Machine

set_option Elab.async false

/-! ### A record taken in order (R132) -/

section
variable {s : State} {sender : BitVec 4} {body : List Byte} {c : RecvCtx} {p : Nat} {rr : RecitalRecord}

/-- The receiving context after a frame taken in order from station `p`, of a recital with a total. -/
def RecvCtx.taking (c : RecvCtx) (p total : Nat) : RecvCtx :=
  { c with source := some p, total := some total, wait := 0, expected := c.expected + 1 }

/-- A RECITAL comes in order: the next from the source of the attempt, or the first while none is taken. -/
def InOrder (c : RecvCtx) (p : Nat) (body : List Byte) : Prop :=
  (c.source = some p ∧ field body 0 1 = c.expected ∧ c.total = some (field body 1 1) ∧ c.expected < field body 1 1) ∨
    (c.source = none ∧ field body 0 1 = 1 ∧ 1 < field body 1 1)

theorem takeInOrder_record (length : body.length = 23) (below : field body 0 1 < field body 1 1)
    (record : recitalRecord body = some rr) (ok : recitalRecordOk s rr = true) :
    takeInOrder .recital p body c (field body 1 1) s =
      mergeRecord rr { s with receiving := some { c with wait := 0, expected := c.expected + 1 } } := by
  simp [takeInOrder, recitalContent, Nat.not_le.2 below, length, record, ok]

theorem takeRecitalFrame_record (held : s.receiving = some c) (agreeing : s.disagreeing p = false)
    (order : InOrder c p body) (length : body.length = 23) (record : recitalRecord body = some rr)
    (ok : recitalRecordOk s rr = true) :
    takeRecitalFrame .recital p body s = mergeRecord rr { s with receiving := some (c.taking p (field body 1 1)) } := by
  obtain ⟨source, index, declared, below⟩ | ⟨source, index, below⟩ := order
  · rw [takeRecitalFrame_next held agreeing source index declared,
      takeInOrder_record length (index.trans_lt below) record ok, RecvCtx.taking, ← source, ← declared]
  · rw [takeRecitalFrame_first held agreeing source index rfl]
    have ok' := (recitalRecordOk_of_frame (withReceiving_frame (some { c with
      source := some p, total := some (field body 1 1) }) s)).trans ok
    exact takeInOrder_record length (index.trans_lt below) record ok'

/-! ### The sequence recovery (R137) -/

/-- The next sequence `q` of station `stn` once an identifier is examined. -/
def seqPast (stn : Nat) (id : Ident) (q : Word) : Word :=
  if id.proposer = stn ∧ (id.seq - q).toNat < 32768 then id.seq + 1 else q

/-- The next sequence once the identifiers of a record are examined. -/
def State.seqAfter (s : State) (r : Record) : Word :=
  r.target.elim (seqPast s.pins.stn r.id s.table.nextSeq) fun x =>
    seqPast s.pins.stn x (seqPast s.pins.stn r.id s.table.nextSeq)

theorem recoverSequence_table (id : Ident) (s : State) :
    (recoverSequence id s).table = { s.table with nextSeq := seqPast s.pins.stn id s.table.nextSeq } := by
  unfold recoverSequence seqPast
  split <;> rfl

theorem recoverSequences_table (r : Record) (s : State) :
    (recoverSequences r s).table = { s.table with nextSeq := s.seqAfter r } := by
  have pins : (recoverSequence r.id s).pins = s.pins := (recoverSequence_frame r.id s).pins
  unfold recoverSequences State.seqAfter
  cases r.target with
  | none => exact recoverSequence_table r.id s
  | some x => exact (recoverSequence_table x _).trans (by rw [recoverSequence_table r.id s, pins]; rfl)

/-! ### The state in which the record is merged -/

/-- From `s` the Recital Unit meets a record in state `w`: the next sequence is recovered, and the receiving context has
taken the frame. -/
structure Meets (s w : State) (d : RecvCtx) (r : Record) : Prop where
  frame : ChangesOnly [.table, .line, .roster, .receiving, .notices] s w
  table : w.table = { s.table with nextSeq := s.seqAfter r }
  receiving : w.receiving = some d

/-- A record taken in order meets the entry under its identifier, or none. -/
theorem record_meets (heard : audible s .recital sender body) (length : body.length = 23)
    (receiving : s.receiving = some c) (divergent : (s.slot sender.toNat).state ≠ .divergent)
    (mismatched : (s.slot sender.toNat).state ≠ .mismatched) (order : InOrder c sender.toNat body)
    (record : recitalRecord body = some rr) (ok : recitalRecordOk s rr = true) :
    ∃ w, Meets s w (c.taking sender.toNat (field body 1 1)) rr.record ∧
      (∀ e, s.find rr.record.id = some e → exec (.recital sender body) s = .next (mergeHeld rr e w)) ∧
      (s.find rr.record.id = none → exec (.recital sender body) s = .next (mergeNew rr w)) := by
  let u : State := { afterReport s sender with receiving := some (c.taking sender.toNat (field body 1 1)) }
  have report : ChangesOnly [.line, .roster, .notices] s (afterReport s sender) := afterReport_frame
  have begun : ChangesOnly [.line, .roster, .receiving, .notices] s u := report.then (withReceiving_frame _ _)
  have recovered := recoverSequences_frame rr.record u
  have run : exec (.recital sender body) s = .next (mergeRecord rr u) := by
    rw [recitalFrame_delivered (.inl ⟨rfl, rfl, .inr length⟩) heard,
      takeRecitalFrame_record (report.receiving.trans receiving) (afterReport_agreeing divergent mismatched) order length
        record ((recitalRecordOk_of_frame report).trans ok)]
  have table : (recoverSequences rr.record u).table = { s.table with nextSeq := s.seqAfter rr.record } := by
    rw [recoverSequences_table, State.seqAfter, begun.table, begun.pins]
    rfl
  have found : (recoverSequences rr.record u).find rr.record.id = s.find rr.record.id :=
    find_of_entries (by rw [table]) _
  refine ⟨_, ⟨begun.then recovered, table, recovered.receiving⟩, fun e held => ?_, fun unheld => ?_⟩
  · rw [run, mergeRecord, found, held]
  · rw [run, mergeRecord, found, unheld]

/-! ### What the merge reads of that state -/

section
variable {w : State} {d : RecvCtx} {r : Record} (meets : Meets s w d r)
include meets

theorem Meets.entries : w.table.entries = s.table.entries := by rw [meets.table]

theorem Meets.find (id : Ident) : w.find id = s.find id := find_of_entries meets.entries id

theorem Meets.conflicts (x : Record) : w.settledConflicts x = s.settledConflicts x := by
  simp only [State.settledConflicts, (SameRules.of_frame meets.frame).conflicts, meets.entries]

theorem Meets.hasRoom (k : Kind) : w.hasRoom k = s.hasRoom k := by
  rw [State.hasRoom, State.hasRoom, State.held, State.held, meets.entries, meets.frame.plan]

theorem Meets.alreadyApplied (x : Record) : Machine.alreadyApplied w x = Machine.alreadyApplied s x := by
  simp only [Machine.alreadyApplied, meets.frame.clock]

theorem Meets.tooLateToAgree (x : Record) : Machine.tooLateToAgree w x = Machine.tooLateToAgree s x := by
  have found : w.find = s.find := funext meets.find
  simp only [Machine.tooLateToAgree, targetTooNear, horizonTooNear, meets.frame.clock, meets.frame.plan, found]

end

end

/-! ### The tallies (R132) -/

/-- From `w` to `t` the tallies of the receiving context are changed, and the next sequence stands. -/
structure Tallied (f : Tallies → Tallies) (w t : State) : Prop where
  receiving : t.receiving = w.receiving.map fun c => { c with tallies := f c.tallies }
  nextSeq : t.table.nextSeq = w.table.nextSeq

section
variable {f : Tallies → Tallies} {w v t : State}

theorem tally_tallied (f : Tallies → Tallies) (w : State) : Tallied f w (tally f w) := ⟨rfl, rfl⟩

theorem Tallied.before (h : Tallied f w v) (receiving : t.receiving = v.receiving)
    (nextSeq : t.table.nextSeq = v.table.nextSeq) : Tallied f w t :=
  ⟨receiving.trans h.receiving, nextSeq.trans h.nextSeq⟩

theorem Tallied.after (h : Tallied f v t) (receiving : v.receiving = w.receiving)
    (nextSeq : v.table.nextSeq = w.table.nextSeq) : Tallied f w t :=
  ⟨h.receiving.trans (by rw [receiving]), h.nextSeq.trans nextSeq⟩

theorem tally_stands (f : Tallies → Tallies) (w : State) : (tally f w).table = w.table := rfl

theorem tally_find (f : Tallies → Tallies) (w : State) (x : Ident) : (tally f w).find x = w.find x := rfl

end

end Sys2Proof.Machine
end

section
/-! SUPPORT. What the merge makes of a record whose identifier is held: the entry that is advanced or joined, and the record
that is skipped (R31, R89, R90, R135). -/

namespace Sys2Proof.Machine

set_option Elab.async false

section
variable {s : State} {rr : RecitalRecord} {e : Entry} {r : Record} {x : Ident}

/-! ### Withdrawals overtaken -/

theorem find_lapseOvertaken (id : Ident) (s : State) (x : Ident) :
    (lapseOvertaken id s).find x = if x ∈ overtakenIds id s then none else s.find x := by
  rw [lapseOvertaken_eq, find_lapseFold]

theorem lapseOvertaken_nextSeq (id : Ident) (s : State) :
    (lapseOvertaken id s).table.nextSeq = s.table.nextSeq := by
  rw [lapseOvertaken_eq]
  exact List.foldlRecOn (motive := fun t : State => t.table.nextSeq = s.table.nextSeq) _ _ rfl fun t ht w _ => ht

section
variable {t : State} {c : Prop} [Decidable c]

/-- A record is tallied after an operation and the withdrawals that its entry overtakes. -/
theorem lapseIf_tallied (f : Tallies → Tallies) (id : Ident) (receiving : t.receiving = s.receiving)
    (nextSeq : t.table.nextSeq = s.table.nextSeq) :
    Tallied f s (tally f (if c then lapseOvertaken id t else t)) := by
  by_cases h : c
  · rw [if_pos h]
    exact (tally_tallied f _).after ((lapseOvertaken_frame id t).receiving.trans receiving)
      ((lapseOvertaken_nextSeq id t).trans nextSeq)
  · rw [if_neg h]
    exact (tally_tallied f _).after receiving nextSeq

theorem lapseIf_noticed {k : NoticeKind} (f : Tallies → Tallies) (id : Ident) (told : noticed t k) :
    noticed (tally f (if c then lapseOvertaken id t else t)) k :=
  ((Remains.ite (lapseOvertaken_remains id t) (.refl t)).trans (.of_frame (tally_frame f _))).noticed k told

end

/-! ### A conflict (R135, R136) -/

theorem skipConflict_tallied (r : Record) (s : State) : Tallied .conflict s (skipConflict r s) := ⟨rfl, rfl⟩

theorem skipConflict_stands (r : Record) (s : State) : (skipConflict r s).table = s.table := rfl

theorem skipConflict_noticed (r : Record) (s : State) : noticed (skipConflict r s) .mergeConflict :=
  raise_noticed (.mergeConflict r.id _) s

/-! ### A held entry that is advanced (R135) -/

/-- A held entry as a record advances it. -/
def Entry.advancedBy (e : Entry) (rr : RecitalRecord) : Entry :=
  { e with state := rr.state, endorsers := rr.endorsers, window := none, mark := .none }

/-- The state with a held entry advanced, before the withdrawals that it overtakes lapse. -/
def advanced (rr : RecitalRecord) (s : State) : State :=
  raise (.ratified rr.record.id rr.endorsers .merged) (s.modify rr.record.id fun x => x.advancedBy rr)

theorem advanceEntry_eq (rr : RecitalRecord) (s : State) :
    advanceEntry rr s = tally .advance
      (if rr.state = .applying then lapseOvertaken rr.record.id (advanced rr s) else advanced rr s) := rfl

theorem advanced_frame (rr : RecitalRecord) (s : State) : ChangesOnly [.table, .notices] s (advanced rr s) :=
  (modify_frame _ _ s).then (raise_frame _ _)

theorem find_advanced (x : Ident) :
    (advanced rr s).find x = if x = rr.record.id then (s.find x).map (Entry.advancedBy · rr) else s.find x :=
  find_modify s rr.record.id (Entry.advancedBy · rr) (fun _ => rfl) x

/-- An entry that is advanced does not overtake itself, and overtakes nothing but withdrawals. -/
theorem mem_overtakenIds_advanced (settled : rr.state ≠ .proposed)
    (h : x ∈ overtakenIds rr.record.id (advanced rr s)) :
    x ≠ rr.record.id ∧ ∃ y ∈ s.table.entries, y.id = x ∧ y.kind = .withdraw := by
  obtain ⟨_, mem, ⟨kind, proposed, -⟩, rfl⟩ := mem_overtakenIds.1 h
  obtain ⟨z, hz, rfl⟩ := mem_modify.1 mem
  by_cases own : z.id = rr.record.id
  · rw [if_pos own] at proposed
    exact absurd proposed settled
  · rw [if_neg own] at kind ⊢
    exact ⟨own, z, hz, rfl, kind⟩

theorem find_advanceEntry (kept : x ∉ overtakenIds rr.record.id (advanced rr s)) :
    (advanceEntry rr s).find x = (advanced rr s).find x := by
  rw [advanceEntry_eq, tally_find]
  split
  · rw [find_lapseOvertaken, if_neg kept]
  · rfl

theorem advanceEntry_own (settled : rr.state ≠ .proposed) (held : s.find rr.record.id = some e) :
    (advanceEntry rr s).find rr.record.id = some (e.advancedBy rr) := by
  rw [find_advanceEntry fun h => (mem_overtakenIds_advanced settled h).1 rfl, find_advanced, if_pos rfl, held]
  rfl

theorem advanceEntry_other (settled : rr.state ≠ .proposed) (other : x ≠ rr.record.id)
    (stays : ∀ y ∈ s.table.entries, y.id = x → y.kind ≠ .withdraw) : (advanceEntry rr s).find x = s.find x := by
  rw [find_advanceEntry fun h => ?_, find_advanced, if_neg other]
  obtain ⟨-, y, hy, id, kind⟩ := mem_overtakenIds_advanced settled h
  exact stays y hy id kind

theorem advanceEntry_tallied (rr : RecitalRecord) (s : State) : Tallied .advance s (advanceEntry rr s) :=
  lapseIf_tallied .advance _ (advanced_frame rr s).receiving rfl

theorem advanceEntry_noticed (rr : RecitalRecord) (s : State) : noticed (advanceEntry rr s) .ratified :=
  lapseIf_noticed .advance _ (raise_noticed (.ratified rr.record.id rr.endorsers .merged) _)

/-! ### The record of a held identifier, by the states (R135) -/

theorem later_iff {a b : EntryState} : a.later b = true ↔ b.code < a.code := decide_eq_true_iff

theorem mergeHeld_advances (later : e.state.code < rr.state.code) (scheduled : e.kind.scheduled = true)
    (free : s.settledConflicts e.toRecord = []) : mergeHeld rr e s = advanceEntry rr s := by
  simp [mergeHeld, later_iff.2 later, scheduled, free]

theorem mergeHeld_conflicts (later : e.state.code < rr.state.code) (scheduled : e.kind.scheduled = true)
    (conflict : s.settledConflicts e.toRecord ≠ []) : mergeHeld rr e s = skipConflict e.toRecord s := by
  simp [mergeHeld, later_iff.2 later, scheduled, conflict]

theorem mergeHeld_unscheduled (later : e.state.code < rr.state.code) (unscheduled : e.kind.scheduled = false) :
    mergeHeld rr e s = tally .keep s := by
  simp [mergeHeld, later_iff.2 later, unscheduled]

theorem mergeHeld_settled (settled : e.state ≠ .proposed) (early : rr.state.code ≤ e.state.code) :
    mergeHeld rr e s = tally .keep s := by
  rw [mergeHeld, if_neg (mt later_iff.1 (Nat.not_lt.2 early)), if_neg settled]

theorem mergeHeld_joins (proposed : e.state = .proposed) (also : rr.state = .proposed) :
    mergeHeld rr e s = addEndorsers e.id rr.endorsers (tally .keep s) := by
  rw [mergeHeld, if_neg (by rw [later_iff, proposed, also]; exact Nat.lt_irrefl _), if_pos proposed]

/-! ### Endorsers that join a PROPOSED entry (R89, R90, R135) -/

/-- The union of the sets brings an own entry to the quorum. -/
abbrev State.reachesQuorum (s : State) (e : Entry) (set : StationSet) : Prop :=
  e.id.proposer = s.pins.stn ∧ countStations e.endorsers < s.quorum ∧ s.quorum ≤ countStations (e.endorsers ||| set)

/-- The proposer of a well-formed record is a station of the shelf (R23). -/
theorem endorsersOk_lt {n k : Nat} {set : StationSet} (h : endorsersOk n k set = true) : k < n := by
  obtain ⟨below, has⟩ := endorsersOk_iff.1 h
  exact stationsBelow_iff.1 below ⟨k, BitVec.lt_of_getLsbD has⟩ has

theorem ratifyOwn_free_nextSeq (held : s.find e.id = some e) (shelf : 2 ≤ s.plan.n)
    (scheduled : e.kind.scheduled = true) (free : s.settledConflicts e.toRecord = []) :
    (ratifyOwn e.id s).table.nextSeq = s.table.nextSeq := by
  rw [← (claimed_scheduled held scheduled).nextSeq]
  by_cases active : s.station.state = .active
  · rw [ratifyOwn_free_active held shelf scheduled free active]
    have kept := offer_table (ratifyFrame e.id e.endorsers) (ratifyClaim e e.endorsers s)
    rw [← kept]
    rfl
  · rw [ratifyOwn_free_inactive held shelf scheduled free active]
    rfl

section
variable {set : StationSet} (held : s.find e.id = some e)
include held

theorem addEndorsers_joins (short : ¬ s.reachesQuorum e set) :
    (addEndorsers e.id set s).find e.id = some { e with endorsers := e.endorsers ||| set } ∧
      (∀ x, x ≠ e.id → (addEndorsers e.id set s).find x = s.find x) ∧
      (addEndorsers e.id set s).table.nextSeq = s.table.nextSeq ∧ ChangesOnly [.table] s (addEndorsers e.id set s) := by
  unfold addEndorsers
  rw [held]
  dsimp only
  by_cases same : e.endorsers ||| set = e.endorsers
  · rw [if_pos same, same]
    exact ⟨held, fun _ _ => rfl, rfl, .refl _ _⟩
  · rw [if_neg same, if_neg short]
    have found := find_withEndorsers s e.id (e.endorsers ||| set)
    refine ⟨?_, fun x other => (found x).trans (if_neg other), rfl, modify_frame _ _ s⟩
    refine (found e.id).trans ?_
    rw [if_pos rfl, held]
    rfl

theorem addEndorsers_ratifies (reaches : s.reachesQuorum e set) :
    addEndorsers e.id set s = ratifyOwn e.id (s.withEndorsers e.id (e.endorsers ||| set)) := by
  have grows : e.endorsers ||| set ≠ e.endorsers := by
    intro same
    obtain ⟨-, before, after⟩ := reaches
    rw [same] at after
    exact absurd (before.trans_le after) (Nat.lt_irrefl _)
  unfold addEndorsers
  rw [held]
  dsimp only
  rw [if_neg grows, if_pos reaches]
  rfl

/-- An own scheduled entry brought to the quorum without a conflict is RATIFIED (R89, R90). -/
theorem addEndorsers_quorate (reaches : s.reachesQuorum e set) (shelf : 2 ≤ s.plan.n)
    (scheduled : e.kind.scheduled = true) (free : s.settledConflicts e.toRecord = []) :
    (∃ m, (addEndorsers e.id set s).find e.id = some
        { e with state := .ratified, endorsers := e.endorsers ||| set, window := none, mark := m }) ∧
      noticed (addEndorsers e.id set s) .ratified ∧ (addEndorsers e.id set s).table.nextSeq = s.table.nextSeq ∧
      ChangesOnly [.table, .line, .notices] s (addEndorsers e.id set s) := by
  rw [addEndorsers_ratifies held reaches]
  have added := withEndorsers_frame s e.id (e.endorsers ||| set)
  have joined : (s.withEndorsers e.id (e.endorsers ||| set)).find e.id =
      some { e with endorsers := e.endorsers ||| set } := by
    rw [find_withEndorsers, if_pos rfl, held]
    rfl
  have free' := (withEndorsers_conflicts s (e.endorsers ||| set) (r := e.toRecord)).2 free
  obtain ⟨-, tells, inActive, inOther⟩ :=
    ratifyOwn_free (e := { e with endorsers := e.endorsers ||| set }) joined (by rwa [added.plan]) scheduled free'
  have seq := ratifyOwn_free_nextSeq (e := { e with endorsers := e.endorsers ||| set }) joined (by rwa [added.plan])
    scheduled free'
  by_cases active : (s.withEndorsers e.id (e.endorsers ||| set)).station.state = .active
  · obtain ⟨found, -, frame⟩ := inActive active
    exact ⟨⟨_, found⟩, tells, seq, (added.mono (by decide)).trans frame⟩
  · obtain ⟨found, -, frame⟩ := inOther active
    exact ⟨⟨_, found⟩, tells, seq, (added.mono (by decide)).trans (frame.mono (by decide))⟩

end

end

end Sys2Proof.Machine
end

section
/-! SUPPORT. A record whose identifier is not held: the tests of R136 in their order, the record that is inserted, and the
attempt that fails for want of room (R133, R136). -/

namespace Sys2Proof.Machine

set_option Elab.async false

section
variable {s : State} {rr : RecitalRecord} {r : Record} {x : Ident}

/-! ### The tests (R136) -/

theorem alreadyApplied_iff : alreadyApplied s r = true ↔
    ∃ x, r.kind.scheduled = true ∧ r.turn = some x ∧
      if r.kind = .leapAdd then x < s.clock.label else x ≤ s.clock.label := by
  unfold alreadyApplied
  cases r.kind <;> cases r.turn <;> simp [Kind.scheduled]

theorem horizonTooNear_eq_true {x : Nat} :
    horizonTooNear s x = true ↔ x ≤ s.clock.label + s.plan.e + 2 + s.plan.h := decide_eq_true_iff

theorem targetTooNear_iff {target : Option Ident} : targetTooNear s target = true ↔
    ∃ x e, target = some x ∧ s.find x = some e ∧
      (e.state = .applying ∨ ∃ y, e.turn = some y ∧ y ≤ s.clock.label + s.plan.e + 2 + s.plan.h) := by
  unfold targetTooNear
  cases target with
  | none => simp
  | some x =>
    cases held : s.find x with
    | none => simp [held]
    | some e => cases turn : e.turn <;> simp [held, turn, horizonTooNear_eq_true]

theorem tooLateToAgree_iff : tooLateToAgree s r = true ↔
    (r.kind.scheduled = true ∧ ∃ x, r.turn = some x ∧ x ≤ s.clock.label + s.plan.e + 2 + s.plan.h) ∨
      (r.kind = .withdraw ∧ ∃ x e, r.target = some x ∧ s.find x = some e ∧
        (e.state = .applying ∨ ∃ y, e.turn = some y ∧ y ≤ s.clock.label + s.plan.e + 2 + s.plan.h)) := by
  unfold tooLateToAgree
  cases kind : r.kind with
  | withdraw => simp [Kind.scheduled, targetTooNear_iff]
  | custody => simp [Kind.scheduled]
  | leapAdd => cases r.turn <;> simp [Kind.scheduled, horizonTooNear_eq_true]
  | leapDrop => cases r.turn <;> simp [Kind.scheduled, horizonTooNear_eq_true]
  | offsetSet => cases r.turn <;> simp [Kind.scheduled, horizonTooNear_eq_true]

theorem mergeNew_skips (h : alreadyApplied s rr.record = true ∨
      (rr.state = .proposed ∧ rr.record.id.proposer = s.pins.stn) ∨
      (rr.state = .proposed ∧ tooLateToAgree s rr.record = true)) : mergeNew rr s = tally .skip s := by
  by_cases complete : alreadyApplied s rr.record = true
  · exact if_pos complete
  by_cases own : rr.state = .proposed ∧ rr.record.id.proposer = s.pins.stn
  · exact (if_neg complete).trans (if_pos own)
  · exact (if_neg complete).trans ((if_neg own).trans (if_pos ((h.resolve_left complete).resolve_left own)))

section
variable (incomplete : alreadyApplied s rr.record = false)
include incomplete

theorem mergeNew_conflicts (settled : rr.state ≠ .proposed) (conflict : s.settledConflicts rr.record ≠ []) :
    mergeNew rr s = skipConflict rr.record s := by
  simp [mergeNew, incomplete, settled, conflict]

theorem mergeNew_full (settled : rr.state ≠ .proposed) (free : s.settledConflicts rr.record = [])
    (full : s.hasRoom rr.record.kind = false) : mergeNew rr s = failAttempt .mergeFull s := by
  simp [mergeNew, incomplete, settled, free, full]

theorem mergeNew_settled (settled : rr.state ≠ .proposed) (free : s.settledConflicts rr.record = [])
    (room : s.hasRoom rr.record.kind = true) : mergeNew rr s = insertRecord rr s := by
  simp [mergeNew, incomplete, settled, free, room]

theorem mergeNew_proposed (proposed : rr.state = .proposed) (foreign : rr.record.id.proposer ≠ s.pins.stn)
    (early : tooLateToAgree s rr.record = false) (room : s.hasRoom rr.record.kind = true) :
    mergeNew rr s = insertRecord rr s := by
  simp [mergeNew, incomplete, proposed, foreign, early, room]

end

/-! ### The record that is inserted (R136, test 6) -/

/-- The entry that a record is inserted as. -/
def insertedEntry (rr : RecitalRecord) (s : State) : Entry :=
  { rr.record with
    state := insertionState s rr
    endorsers := rr.endorsers
    flags := []
    window := if insertionState s rr = .proposed then some (s.clock.label + rr.remaining) else none
    stamp := s.table.nextStamp
    mark := .none }

/-- The state with a record stored, before the withdrawals that it overtakes lapse. -/
def inserted (rr : RecitalRecord) (s : State) : State :=
  storeEntry rr.record (insertionState s rr) rr.endorsers []
    (if insertionState s rr = .proposed then some (s.clock.label + rr.remaining) else none) .none .merge s

theorem insertRecord_eq (rr : RecitalRecord) (s : State) :
    insertRecord rr s = tally .insert
      (if insertionState s rr = .applying then lapseOvertaken rr.record.id (inserted rr s) else inserted rr s) := rfl

theorem inserted_frame (rr : RecitalRecord) (s : State) : ChangesOnly [.table, .notices] s (inserted rr s) :=
  storeEntry_frame _ _ _ _ _ _ _ s

theorem find_inserted (unheld : s.find rr.record.id = none) (x : Ident) :
    (inserted rr s).find x = if x = rr.record.id then some (insertedEntry rr s) else s.find x :=
  find_storeEntry _ _ _ _ _ _ _ s unheld x

/-- An entry with a turn that is inserted does not overtake itself. -/
theorem not_mem_overtakenIds_inserted (unheld : s.find rr.record.id = none)
    (scheduled : rr.record.kind.scheduled = true) : rr.record.id ∉ overtakenIds rr.record.id (inserted rr s) := by
  intro h
  obtain ⟨y, mem, ⟨kind, -⟩, id⟩ := mem_overtakenIds.1 h
  obtain rfl | old := mem_insertEntry.1 (show y ∈ insertEntry (insertedEntry rr s) s.table.entries from mem)
  · rw [show rr.record.kind = .withdraw from kind] at scheduled
    exact absurd scheduled (by decide)
  · exact lookup_none_iff.1 unheld y old id

theorem insertRecord_own (unheld : s.find rr.record.id = none) (scheduled : rr.record.kind.scheduled = true) :
    (insertRecord rr s).find rr.record.id = some (insertedEntry rr s) := by
  have found := (find_inserted unheld rr.record.id).trans (if_pos rfl)
  rw [insertRecord_eq, tally_find]
  split
  · rw [find_lapseOvertaken, if_neg (not_mem_overtakenIds_inserted unheld scheduled), found]
  · exact found

/-- A record that is inserted PROPOSED overtakes nothing. -/
theorem insertRecord_proposed (proposed : rr.state = .proposed) : insertRecord rr s = tally .insert (inserted rr s) := by
  rw [insertRecord_eq, insertionState_proposed.2 proposed, if_neg (by decide)]

theorem insertionState_settled {turn : Nat} (settled : rr.state ≠ .proposed) (timed : rr.record.turn = some turn) :
    insertionState s rr = if turn ≤ s.clock.label + s.plan.h then .applying else rr.state := by
  unfold insertionState
  rw [timed]
  split
  next proposed => exact absurd proposed settled
  next => rfl

theorem insertRecord_tallied (rr : RecitalRecord) (s : State) : Tallied .insert s (insertRecord rr s) :=
  lapseIf_tallied .insert _ (inserted_frame rr s).receiving rfl

theorem insertRecord_noticed (rr : RecitalRecord) (s : State) : noticed (insertRecord rr s) .stored :=
  lapseIf_noticed .insert _ (storeEntry_noticed _ _ _ _ _ _ _ s)

/-! ### An attempt that fails for want of room (R133) -/

theorem roundFailed_sameButMarks (o : RecvOrigin) (s : State) : sameButMarks s (roundFailed o s) := by
  cases o with
  | joining => exact enterState_sameButMarks _ s
  | missedEntry => exact .of_table rfl
  | discord => exact .of_table rfl

theorem failAttempt_sameButMarks {c : RecvCtx} (held : s.receiving = some c) (cause : AttemptCause) :
    sameButMarks s (failAttempt cause s) := by
  obtain ⟨d, -, eq⟩ | ⟨n, -, eq⟩ := failAttempt_cases held cause
  · rw [eq]
    exact .of_table (offerRequest_frame _).table
  · rw [eq]
    exact (sameButMarks.of_table rfl).trans (roundFailed_sameButMarks _ _)

theorem sameButMarks.find_none {t : State} (h : sameButMarks s t) (unheld : s.find x = none) : t.find x = none := by
  obtain ⟨entries, -⟩ := h
  refine lookup_none_iff.2 fun y hy id => ?_
  obtain ⟨z, hz, same⟩ := List.mem_map.1 (entries ▸ List.mem_map_of_mem hy)
  exact lookup_none_iff.1 unheld z hz ((congrArg (fun e : Entry => e.id) same).trans id)

end

/-! ### The fields of a record with a turn (R23) -/

theorem scheduled_target {n : Nat} {r : Record} (fields : r.fieldsOk n = true) (scheduled : r.kind.scheduled = true) :
    r.target = none := by
  unfold Record.fieldsOk at fields
  cases kind : r.kind <;> simp_all [Kind.scheduled]

end Sys2Proof.Machine
end

namespace Sys2Proof.Machine

/-- Settles O47: a settled record that is not held passes the tests of R136 up to that for room, which inserts it or fails
the attempt. -/
theorem settledRecordIsInserted : Obligations.SettledRecordIsInserted := by
  intro s sender body c rr turn heard length receiving divergent mismatched order record formed scheduled settled quorate
    closed spent unheld timed ahead free
  obtain ⟨fields, endorsers⟩ := Bool.and_eq_true_iff.1 formed
  have ok : recitalRecordOk s rr = true := recitalRecordOk_iff.2
    ⟨fields, endorsers, fun proposed => absurd proposed settled, fun _ => ⟨closed, spent, scheduled, quorate⟩⟩
  obtain ⟨w, meets, -, run⟩ := record_meets heard length receiving divergent mismatched order record ok
  have unheld' : w.find rr.record.id = none := (meets.find _).trans unheld
  have free' : w.settledConflicts rr.record = [] := (meets.conflicts _).trans free
  have incomplete : alreadyApplied w rr.record = false := by
    rw [meets.alreadyApplied, Bool.eq_false_iff, Ne, alreadyApplied_iff]
    rintro ⟨x, -, same, complete⟩
    obtain rfl := Option.some.inj (timed.symm.trans same)
    obtain before | ⟨add, now⟩ := ahead
    · split at complete <;> omega
    · rw [if_pos add] at complete
      omega
  have seq : w.table.nextSeq = seqPast s.pins.stn rr.record.id s.table.nextSeq := by
    rw [meets.table, State.seqAfter, scheduled_target fields scheduled]
    rfl
  have sequence (t : State) (kept : t.table.nextSeq = w.table.nextSeq) :
      (rr.record.id.proposer = s.pins.stn → (rr.record.id.seq - s.table.nextSeq).toNat < 32768 →
        t.table.nextSeq = rr.record.id.seq + 1) ∧
      (rr.record.id.proposer ≠ s.pins.stn ∨ 32768 ≤ (rr.record.id.seq - s.table.nextSeq).toNat →
        t.table.nextSeq = s.table.nextSeq) := by
    rw [kept, seq]
    refine ⟨fun own near => if_pos ⟨own, near⟩, fun other => if_neg fun ⟨own, near⟩ => ?_⟩
    exact other.elim (· own) (Nat.not_le.2 near)
  refine ⟨_, run unheld, ?_⟩
  by_cases room : s.hasRoom rr.record.kind = true
  · rw [mergeNew_settled incomplete settled free' ((meets.hasRoom _).trans room)]
    have tallied := insertRecord_tallied rr w
    obtain ⟨moves, stands⟩ := sequence _ tallied.nextSeq
    refine ⟨moves, stands,
      fun _ => ⟨?entry, ?context, insertRecord_noticed rr w, meets.frame.then (insertRecord_frame rr w)⟩,
      fun full => absurd room (by simp [full])⟩
    case entry =>
      have state := insertionState_settled (s := w) settled timed
      have other : insertionState w rr ≠ .proposed := mt insertionState_proposed.1 settled
      rw [insertRecord_own unheld' scheduled, insertedEntry, if_neg other, state, meets.frame.clock, meets.frame.plan,
        meets.table]
    case context =>
      rw [tallied.receiving, meets.receiving]
      exact ⟨_, rfl, rfl, rfl, rfl, rfl, rfl⟩
  · have full : s.hasRoom rr.record.kind = false := Bool.eq_false_iff.2 room
    rw [mergeNew_full incomplete settled free' ((meets.hasRoom _).trans full)]
    have marks := failAttempt_sameButMarks meets.receiving .mergeFull
    obtain ⟨-, -, -, nextSeq⟩ := id marks
    obtain ⟨moves, stands⟩ := sequence _ nextSeq
    obtain ⟨-, recorded, -⟩ := failAttempt_spec meets.receiving .mergeFull
    exact ⟨moves, stands, fun free => absurd free room, fun _ => ⟨marks.find_none unheld', recorded⟩⟩

/-- Settles O48: the entry under the identifier is advanced, kept, joined or in conflict, and a record that is not held is
skipped, in conflict or inserted. -/
theorem recitalRecordsAreMergedOrSkipped : Obligations.RecitalRecordsAreMergedOrSkipped := by
  intro s sender body c rr heard length receiving divergent mismatched order record formed proposal settlement
  obtain ⟨fields, endorsers⟩ := Bool.and_eq_true_iff.1 formed
  have ok : recitalRecordOk s rr = true := recitalRecordOk_iff.2 ⟨fields, endorsers, proposal, settlement⟩
  obtain ⟨w, meets, onHeld, onUnheld⟩ := record_meets heard length receiving divergent mismatched order record ok
  intro r past seq taken passed kept skipped conflict stands complete soon late
  have pass {t : State} {f : Tallies → Tallies} (run : exec (.recital sender body) s = .next t) (tallied : Tallied f w t)
      (frame : ChangesOnly [.table, .line, .receiving, .notices, .free] w t) : passed (f c.tallies) t := by
    refine ⟨run, tallied.nextSeq.trans (congrArg Table.nextSeq meets.table), ?_, meets.frame.then frame⟩
    rw [tallied.receiving, meets.receiving]
    rfl
  have stand {t : State} (same : t.table = w.table) : stands t := by
    refine ⟨?_, ?_⟩ <;> rw [same, meets.table]
  have tallies {f : Tallies → Tallies} (run : exec (.recital sender body) s = .next (tally f w)) :
      ∃ t, passed (f c.tallies) t ∧ stands t :=
    ⟨_, pass run (tally_tallied f w) ((tally_frame f w).mono (by decide)), stand (tally_stands f w)⟩
  have conflicts {x : Record} (run : exec (.recital sender body) s = .next (skipConflict x w)) :
      ∃ t, passed conflict t ∧ stands t ∧ noticed t .mergeConflict :=
    ⟨_, pass run (skipConflict_tallied x w) ((skipConflict_frame x w).mono (by decide)),
      stand (skipConflict_stands x w), skipConflict_noticed x w⟩
  refine ⟨fun e held => ?held, fun unheld => ?unheld⟩
  case held =>
    have run := onHeld e held
    have held' : w.find r.id = some e := (meets.find _).trans held
    have own : e.id = r.id := find_id held
    refine ⟨fun later scheduled => ⟨fun free => ?advances, fun apart => ?apart⟩, fun later unscheduled => ?custody,
      fun settled early => ?settled, fun proposed also => ?joins⟩
    case advances =>
      have settled : rr.state ≠ .proposed := later_settled (later_iff.2 later)
      rw [mergeHeld_advances later scheduled ((meets.conflicts _).trans free)] at run
      refine ⟨_, pass run (advanceEntry_tallied rr w) ((advanceEntry_frame rr w).mono (by decide)),
        advanceEntry_own settled held', fun x other stays => ?_, advanceEntry_noticed rr w⟩
      rw [advanceEntry_other settled other (by rwa [meets.entries]), meets.find]
    case apart => exact conflicts (mergeHeld_conflicts later scheduled (by rwa [meets.conflicts]) ▸ run)
    case custody => exact tallies (mergeHeld_unscheduled later unscheduled ▸ run)
    case settled => exact tallies (mergeHeld_settled settled early ▸ run)
    case joins =>
      intro joined quorate
      have counted := tally_frame Tallies.keep w
      have reaches : State.reachesQuorum (tally .keep w) e rr.endorsers ↔ quorate := by
        rw [State.reachesQuorum, counted.pins, counted.quorum, meets.frame.pins, meets.frame.quorum]
      have present : State.find (tally .keep w) e.id = some e := own ▸ held'
      rw [mergeHeld_joins proposed also] at run
      refine ⟨fun short => ?_, fun reached scheduled free => ?_⟩
      · obtain ⟨found, others, nextSeq, frame⟩ := addEndorsers_joins present (mt reaches.1 short)
        refine ⟨_, pass run ((tally_tallied _ w).before frame.receiving nextSeq) (counted.then frame), own ▸ found,
          fun x other => ?_⟩
        rw [others x (own ▸ other), tally_find, meets.find]
      · have shelf : 2 ≤ s.plan.n := by
          obtain ⟨proposer, -⟩ := reached
          obtain ⟨-, apart, inRange⟩ := heard
          have inside := endorsersOk_lt endorsers
          rw [← own, proposer] at inside
          omega
        obtain ⟨⟨m, found⟩, told, nextSeq, frame⟩ := addEndorsers_quorate present (reaches.2 reached)
          (by rwa [counted.plan, meets.frame.plan]) scheduled ((meets.conflicts _).trans free)
        exact ⟨_, m, pass run ((tally_tallied _ w).before frame.receiving nextSeq) (counted.then frame), own ▸ found,
          told⟩
  case unheld =>
    have run := onUnheld unheld
    have unheld' : w.find r.id = none := (meets.find _).trans unheld
    have applied : alreadyApplied w r = true ↔ ∃ x, r.kind.scheduled = true ∧ r.turn = some x ∧ complete x := by
      rw [meets.alreadyApplied, alreadyApplied_iff]
    have tooLate : tooLateToAgree w r = true ↔ late := by rw [meets.tooLateToAgree, tooLateToAgree_iff]
    have incomplete (fresh : ∀ x, r.kind.scheduled = true → r.turn = some x → ¬ complete x) :
        alreadyApplied w r = false := by
      rw [Bool.eq_false_iff, Ne, applied]
      exact fun ⟨x, scheduled, turn, done⟩ => fresh x scheduled turn done
    refine ⟨fun passes => ?skips, fun fresh settled apart => ?apart, fun fresh proposed foreign early room => ?inserts⟩
    case skips =>
      refine tallies (mergeNew_skips ?_ ▸ run)
      rw [meets.frame.pins]
      exact passes.imp applied.2 (Or.imp_right (And.imp_right tooLate.2))
    case apart => exact conflicts (mergeNew_conflicts (incomplete fresh) settled (by rwa [meets.conflicts]) ▸ run)
    case inserts =>
      rw [mergeNew_proposed (incomplete fresh) proposed (by rwa [meets.frame.pins])
        (Bool.eq_false_iff.2 (mt tooLate.1 early)) ((meets.hasRoom _).trans room)] at run
      have tallied := insertRecord_tallied rr w
      have frame := insertRecord_frame rr w
      have told := insertRecord_noticed rr w
      rw [insertRecord_proposed proposed] at run tallied frame told
      refine ⟨_, pass run tallied (frame.mono (by decide)), ?_, fun x other => ?_, told⟩
      · rw [tally_find, find_inserted unheld', if_pos rfl, insertedEntry, insertionState_proposed.2 proposed, if_pos rfl,
          meets.frame.clock, meets.table]
      · rw [tally_find, find_inserted unheld', if_neg other, meets.find]

end Sys2Proof.Machine

section
/-! SUPPORT. The work of a boundary around the pass: it keeps the transition and the state of every entry that it leaves,
frees none in APPLYING, and changes no scale but in its custodian (R31, R90, R97, R99, R108). -/

namespace Sys2Proof.Machine

set_option Elab.async false

section
variable {s t u : State} {ps : List Part} {e x y : Entry} {key : Ident}

/-! ### What the pass reads -/

/-- What the pass reads of an entry: its transition and its state. -/
def Entry.standing (e : Entry) : Record × EntryState := (e.toRecord, e.state)

/-- The entries as the pass reads them, in table order. -/
def State.standings (s : State) : List (Record × EntryState) := s.table.entries.map Entry.standing

/-- Those in APPLYING. -/
def State.applyings (s : State) : List (Record × EntryState) := s.standings.filter fun p => p.2 == .applying

/-- From `s` to `t` a boundary does work that is not the pass. -/
structure OffPass (s t : State) : Prop where
  plan : t.plan = s.plan
  report : t.report = s.report
  started : s.started → t.started
  scales : ∀ k, ∃ c, t.scale k = { s.scale k with custodian := c }
  standings : t.standings.Sublist s.standings
  applyings : t.applyings = s.applyings

theorem standing_eq_iff : x.standing = y.standing ↔ x.toRecord = y.toRecord ∧ x.state = y.state := Prod.mk.injEq .. ▸ .rfl

theorem standings_ids (s : State) : s.standings.map (fun p => p.1.id) = s.table.entries.map fun e => e.id := by
  simp [State.standings, Entry.standing, Function.comp_def]

theorem applyings_eq (s : State) :
    s.applyings = (s.table.entries.filter fun e => e.state == .applying).map Entry.standing := by
  simp [State.applyings, State.standings, List.filter_map, Entry.standing, Function.comp_def]

theorem OffPass.refl (s : State) : OffPass s s := ⟨rfl, rfl, id, fun _ => ⟨_, rfl⟩, .refl _, rfl⟩

theorem OffPass.trans (h : OffPass s t) (k : OffPass t u) : OffPass s u where
  plan := k.plan.trans h.plan
  report := k.report.trans h.report
  started := k.started ∘ h.started
  scales n := by
    obtain ⟨c, first⟩ := h.scales n
    obtain ⟨d, second⟩ := k.scales n
    exact ⟨d, by rw [second, first]⟩
  standings := k.standings.trans h.standings
  applyings := k.applyings.trans h.applyings

theorem OffPass.ite {c : Prop} [Decidable c] (h : OffPass s t) (k : OffPass s u) :
    OffPass s (if c then t else u) := by split <;> assumption

theorem OffPass.distinct (h : OffPass s t) (distinct : Distinct s) : Distinct t := by
  have sub := h.standings.map fun p => p.1.id
  rw [standings_ids, standings_ids] at sub
  exact List.Nodup.sublist sub distinct

theorem OffPass.foldl {α : Type} {g : State → α → State} {l : List α} (distinct : Distinct s)
    (h : ∀ t, OffPass s t → Distinct t → ∀ a ∈ l, OffPass t (g t a)) : OffPass s (l.foldl g s) :=
  List.foldlRecOn l g (motive := OffPass s) (.refl s) fun t ht a ha => ht.trans (h t ht (ht.distinct distinct) a ha)

theorem OffPass.mem (h : OffPass s t) (hy : y ∈ t.table.entries) :
    ∃ x ∈ s.table.entries, x.standing = y.standing :=
  List.mem_map.1 (h.standings.subset (List.mem_map_of_mem hy))

/-- An entry in APPLYING stands. -/
theorem OffPass.mem_applying (h : OffPass s t) (hx : x ∈ s.table.entries) (applying : x.state = .applying) :
    ∃ y ∈ t.table.entries, y.standing = x.standing := by
  have held : x.standing ∈ s.applyings := List.mem_filter.2 ⟨List.mem_map_of_mem hx, by simp [Entry.standing, applying]⟩
  exact List.mem_map.1 (List.mem_of_mem_filter (h.applyings ▸ held))

theorem OffPass.gone (h : OffPass s t) (unheld : s.find key = none) : t.find key = none :=
  find_none_iff.2 fun y hy own => by
    obtain ⟨x, hx, same⟩ := h.mem hy
    obtain ⟨record, -⟩ := standing_eq_iff.1 same
    exact find_none_iff.1 unheld x hx ((congrArg Record.id record).trans own)

theorem OffPass.scale (h : OffPass s t) (k : Nat) : (t.scale k).kind = (s.scale k).kind ∧
    (t.scale k).parent = (s.scale k).parent ∧ (t.scale k).value = (s.scale k).value ∧
    (t.scale k).inserted = (s.scale k).inserted ∧ (t.scale k).insertRefused = (s.scale k).insertRefused := by
  obtain ⟨c, eq⟩ := h.scales k
  rw [eq]
  exact ⟨rfl, rfl, rfl, rfl, rfl⟩

theorem OffPass.family (h : OffPass s t) : t.family = s.family := funext fun k => by
  obtain ⟨kind, parent, -⟩ := h.scale k
  rw [State.family, State.family, kind, parent]

/-! ### Work that leaves the scales -/

theorem OffPass.of_standings (h : ChangesOnly ps s t) (started : s.started → t.started)
    (sub : t.standings.Sublist s.standings) (applyings : t.applyings = s.applyings)
    (plan : Part.plan ∉ ps := by decide) (report : Part.report ∉ ps := by decide)
    (scales : Part.scales ∉ ps := by decide) : OffPass s t :=
  ⟨h.plan plan, h.report report, started, fun k => ⟨_, scale_of_scales (h.scales scales) k⟩, sub, applyings⟩

theorem OffPass.of_same (h : ChangesOnly ps s t) (started : s.started → t.started) (same : t.standings = s.standings)
    (plan : Part.plan ∉ ps := by decide) (report : Part.report ∉ ps := by decide)
    (scales : Part.scales ∉ ps := by decide) : OffPass s t :=
  .of_standings h started (same ▸ .refl _) (by rw [State.applyings, State.applyings, same]) plan report scales

theorem OffPass.of_state (h : ChangesOnly ps s t) (state : t.station.state = s.station.state)
    (table : Part.table ∉ ps := by decide) (plan : Part.plan ∉ ps := by decide)
    (report : Part.report ∉ ps := by decide) (scales : Part.scales ∉ ps := by decide) : OffPass s t :=
  .of_same h (fun started => by rwa [State.started, state])
    (by rw [State.standings, State.standings, h.table table]) plan report scales

theorem OffPass.of_frame (h : ChangesOnly ps s t) (station : Part.station ∉ ps := by decide)
    (table : Part.table ∉ ps := by decide) (plan : Part.plan ∉ ps := by decide)
    (report : Part.report ∉ ps := by decide) (scales : Part.scales ∉ ps := by decide) : OffPass s t :=
  .of_state h (by rw [h.station station]) table plan report scales

theorem sameButMarks.standings (h : sameButMarks s t) : t.standings = s.standings := by
  obtain ⟨entries, -⟩ := h
  have same := congrArg (List.map Entry.standing) entries
  simp only [List.map_map] at same
  exact same

/-- Announcement marks are no matter of the pass (R81). -/
theorem OffPass.of_marks (h : ChangesOnly ps s t) (marks : sameButMarks s t) (started : s.started → t.started)
    (plan : Part.plan ∉ ps := by decide) (report : Part.report ∉ ps := by decide)
    (scales : Part.scales ∉ ps := by decide) : OffPass s t := .of_same h started marks.standings plan report scales

theorem OffPass.of_map (h : ChangesOnly ps s t) {g : Entry → Entry} (entries : t.table.entries = s.table.entries.map g)
    (same : ∀ e, (g e).standing = e.standing) (station : Part.station ∉ ps := by decide)
    (plan : Part.plan ∉ ps := by decide) (report : Part.report ∉ ps := by decide)
    (scales : Part.scales ∉ ps := by decide) : OffPass s t := by
  refine .of_same h (fun started => ?_) ?_ plan report scales
  · rwa [State.started, h.station station]
  · rw [State.standings, entries, List.map_map, show Entry.standing ∘ g = Entry.standing from funext same]
    rfl

/-- An entry that is not in APPLYING leaves the table. -/
theorem OffPass.of_erase (h : ChangesOnly ps s t) (entries : t.table.entries = eraseEntry key s.table.entries)
    (distinct : Distinct s) (early : ∀ e, s.find key = some e → e.state ≠ .applying)
    (station : Part.station ∉ ps := by decide) (plan : Part.plan ∉ ps := by decide)
    (report : Part.report ∉ ps := by decide) (scales : Part.scales ∉ ps := by decide) : OffPass s t := by
  refine .of_standings h (fun started => ?_) ?_ ?_ plan report scales
  · rwa [State.started, h.station station]
  · rw [State.standings, entries]
    exact List.filter_sublist.map _
  · rw [applyings_eq, applyings_eq, entries, eraseEntry, List.filter_filter]
    refine congrArg _ (List.filter_congr fun e he => ?_)
    by_cases own : e.id = key
    · have other := early e (own ▸ find_of_mem distinct he)
      simp [own, other]
    · simp [own]

/-! ### The engine's work -/

theorem freeEntry_offPass (distinct : Distinct s) (early : ∀ e, s.find key = some e → e.state ≠ .applying)
    (n : Notice) : OffPass s (freeEntry key n s) := .of_erase (freeEntry_frame key n s) rfl distinct early

theorem freeExecuted_offPass (distinct : Distinct s) (early : ∀ e, s.find key = some e → e.state ≠ .applying)
    (set : StationSet) : OffPass s (freeExecuted key set s) :=
  .of_erase (freeExecuted_frame key set s) rfl distinct early

theorem offer_offPass (f : Frame) (s : State) : OffPass s (offer f s) := .of_frame (offer_frame f s)

theorem setMark_offPass (key : Ident) (m : Mark) (s : State) : OffPass s (s.setMark key m) :=
  .of_map (setMark_frame key m s) rfl fun e => by split <;> rfl

theorem expireWindows_offPass (distinct : Distinct s) : OffPass s (expireWindows s) := by
  refine .foldl distinct fun t _ distinct key _ => ?_
  unfold expireEntry
  split
  next e held =>
    split
    next expired =>
      refine freeEntry_offPass distinct (fun x hx => ?_) _
      obtain rfl := Option.some.inj (held.symm.trans hx)
      rw [expired.1]
      decide
    next => exact .refl t
  next => exact .refl t

theorem moveWindows_offPass (j : Int) (s : State) : OffPass s (moveWindows j s) := by
  refine .ite (.of_map (g := Entry.moveWindow j) (setEntries_frame _ s) rfl fun e => ?_) (.refl s)
  unfold Entry.moveWindow
  split <;> rfl

theorem setCustodian_offPass (k : Nat) (c : Option Nat) (s : State) :
    OffPass s (s.setScale k { s.scale k with custodian := c }) where
  plan := setScale_plan _ _ _
  report := (setScale_frame _ _ s).report
  started := fun started => by rwa [State.started, (setScale_frame _ _ s).station]
  standings := by rw [State.standings, setScale_table]; exact .refl _
  applyings := by rw [State.applyings, State.standings, setScale_table]; rfl
  scales n := by
    by_cases own : n = k ∧ 1 ≤ k ∧ k ≤ 5
    · obtain ⟨rfl, lo, hi⟩ := own
      exact ⟨c, setScale_scale lo hi _⟩
    · refine ⟨(s.scale n).custodian, ?_⟩
      unfold State.scale State.setScale
      split
      next inside =>
        split
        · exact Vector.getElem_setIfInBounds_ne _ (by omega)
        · rfl
      next => rfl

theorem withdrawTarget_offPass (distinct : Distinct s) (a b : Ident) : OffPass s (withdrawTarget a b s) := by
  unfold withdrawTarget
  split
  · exact .refl s
  next e held =>
    split
    · exact .of_frame (raise_frame _ s)
    next early =>
      refine freeEntry_offPass distinct (fun x hx => ?_) _
      obtain rfl := Option.some.inj (held.symm.trans hx)
      exact early

/-- The ratification of a PROPOSED entry without a turn frees it, and its target unless that is in APPLYING (R31, R99). -/
theorem ratifyClaim_offPass (distinct : Distinct s) (unscheduled : e.kind.scheduled = false)
    (early : ∀ x, s.find e.id = some x → x.state ≠ .applying) (set : StationSet) :
    OffPass s (ratifyClaim e set s) := by
  obtain custody | withdraw := unscheduled_cases unscheduled
  · rw [ratifyClaim_custody custody]
    have kept := setCustodian_offPass (e.scale.getD 0) (e.value.map Int.toNat) s
    refine kept.trans (freeExecuted_offPass (kept.distinct distinct) (fun x hx => early x ?_) set)
    rwa [find_of_table (setScale_table s _ _)] at hx
  · rw [ratifyClaim_withdraw_eq withdraw]
    have kept := withdrawTarget_offPass distinct (e.target.getD default) e.id
    refine kept.trans (freeExecuted_offPass (kept.distinct distinct) (fun x hx => ?_) set)
    obtain ⟨y, hy, same⟩ := kept.mem (mem_of_find hx)
    obtain ⟨record, state⟩ := standing_eq_iff.1 same
    rw [← state]
    exact early y (((congrArg Record.id record).trans (find_id hx)) ▸ find_of_mem distinct hy)

theorem ratifyOwn_offPass (distinct : Distinct s)
    (own : ∀ e, s.find key = some e → e.kind.scheduled = false ∧ e.state ≠ .applying) : OffPass s (ratifyOwn key s) := by
  cases held : s.find key with
  | none => rw [ratifyOwn_unheld held]; exact .refl s
  | some e =>
    obtain rfl := find_id held
    obtain ⟨unscheduled, -⟩ := own e held
    unfold ratifyOwn
    rw [held]
    dsimp only
    rw [if_neg (by simp [unscheduled])]
    have offered : OffPass s (if s.plan.n ≤ 1 then s else offer (ratifyFrame e.id e.endorsers) s) :=
      .ite (.refl s) (offer_offPass _ s)
    refine .ite (offered.trans (ratifyClaim_offPass (offered.distinct distinct) unscheduled (fun x hx => ?_) _)) (.refl s)
    refine (own x ?_).2
    split at hx
    · exact hx
    · rwa [find_offer] at hx

theorem retestQuorum_offPass (distinct : Distinct s) : OffPass s (retestQuorum s) := by
  refine .ite (.foldl distinct fun t ht distinct' key hkey => ratifyOwn_offPass distinct' fun e he => ?_) (.refl s)
  obtain ⟨x, hx, rfl⟩ := List.mem_map.1 hkey
  obtain ⟨hx, tested⟩ := List.mem_filter.1 hx
  simp only [Bool.and_eq_true, beq_iff_eq, Bool.not_eq_true'] at tested
  obtain ⟨⟨⟨proposed, unscheduled⟩, -⟩, -⟩ := tested
  obtain ⟨y, hy, same⟩ := ht.mem (mem_of_find he)
  obtain ⟨record, state⟩ := standing_eq_iff.1 same
  obtain rfl := distinct.eq (find_of_mem distinct hx) hy ((congrArg Record.id record).trans (find_id he))
  exact ⟨(congrArg (fun r => r.kind.scheduled) record).symm.trans unscheduled, by rw [← state, proposed]; decide⟩

theorem offerRatify_offPass (key : Ident) (set : StationSet) (s : State) : OffPass s (offerRatify key set s) :=
  (offer_offPass _ s).trans (setMark_offPass _ _ _)

theorem offerPropose_offPass (r : Record) (s : State) : OffPass s (offerPropose r s) :=
  (offer_offPass _ s).trans (setMark_offPass _ _ _)

theorem reofferRatify_offPass (distinct : Distinct s) : OffPass s (reofferRatify s) := by
  refine .ite (.foldl distinct fun t _ _ key _ => ?_) (.refl s)
  split
  · exact offerRatify_offPass _ _ t
  · exact .refl t

theorem reofferPropose_offPass (distinct : Distinct s) : OffPass s (reofferPropose s) := by
  refine .ite (.foldl distinct fun t _ _ key _ => ?_) (.refl s)
  split
  · exact offerPropose_offPass _ t
  · exact .refl t

/-! ### The change of station state and the Recital Unit -/

theorem enterState_offPass {new : StationState} (other : new ≠ .unconfigured) (s : State) :
    OffPass s (enterState new s) :=
  .of_marks (enterState_frame new s) (enterState_sameButMarks new s) fun _ => enterState_started other s

theorem roundFailed_offPass (o : RecvOrigin) (s : State) : OffPass s (roundFailed o s) := by
  cases o with
  | joining => exact enterState_offPass (by decide) s
  | missedEntry => exact .refl s
  | discord => exact .refl s

theorem failAttempt_offPass (cause : AttemptCause) (s : State) : OffPass s (failAttempt cause s) := by
  unfold failAttempt
  split
  · exact .refl s
  · dsimp only
    split
    · exact (OffPass.of_frame (withAttempt_frame _ _ s)).trans (.of_frame (offerRequest_frame _))
    · exact ((OffPass.of_frame (withReceiving_frame none s)).trans (.of_frame (raise_frame _ _))).trans
        (roundFailed_offPass _ _)

theorem receiveWork_offPass (s : State) : OffPass s (receiveWork s) := by
  have waited (c : RecvCtx) := OffPass.of_frame (withReceiving_frame (some c) s)
  unfold receiveWork
  split
  · exact .refl s
  · exact .ite (.ite ((waited _).trans (failAttempt_offPass _ _))
      (.ite ((waited _).trans (.of_frame (offerRequest_frame _))) (waited _))) (.refl s)

/-! ### The Station Controller -/

theorem evaluatePlan_offPass (s : State) : OffPass s (evaluatePlan s) :=
  .ite ((OffPass.of_frame (raise_frame _ s)).trans (enterState_offPass (by decide) _)) (.refl s)

theorem evaluateLabel_offPass (s : State) : OffPass s (evaluateLabel s) := by
  have armed (v : State) : OffPass v (armAdoption v) := .of_state (armAdoption_frame v) (armAdoption_state v)
  refine .ite (.ite ?_ (.ite (armed s) (.refl s))) (.ite (enterState_offPass (by decide) s) (.refl s))
  exact ((OffPass.of_frame (raise_frame _ s)).trans (enterState_offPass (by decide) _)).trans (armed _)

theorem endListening_offPass (s : State) : OffPass s (endListening s) := by
  unfold endListening
  split
  · exact (enterState_offPass (by decide) s).trans (.of_frame (askRecital_frame _ _ _))
  · exact enterState_offPass (attState_ne s) s

theorem advanceListening_offPass (s : State) : OffPass s (advanceListening s) :=
  .ite ((OffPass.of_state (withStation_frame { s.station with listen := s.station.listen + 1 } s) rfl).trans
    (.ite (endListening_offPass _) (.refl _))) (.refl s)

theorem afterAdoption_offPass (s : State) : OffPass s (afterAdoption s) := by
  unfold afterAdoption
  split
  · exact enterState_offPass (by decide) s
  · exact .of_state (withStation_frame _ s) rfl
  · exact .refl s

theorem takeReport_offPass (rep : LabelReport) (s : State) : OffPass s (takeReport rep s) := by
  have cleared (v : State) : OffPass v (clearAdoption v) := .of_state (withStation_frame _ v) rfl
  cases rep with
  | adopted jump =>
    exact ((OffPass.of_frame (jumpSlots_frame jump s)).trans (cleared _)).trans (afterAdoption_offPass _)
  | blocked => exact cleared s
  | plain => exact .refl s
  | set jump => exact .refl s

theorem beaconWork_offPass (s : State) : OffPass s (beaconWork s) :=
  (((((OffPass.of_frame (advanceSilences_frame s)).trans (evaluatePlan_offPass _)).trans (evaluateLabel_offPass _)).trans
    (.of_state (evaluateDiscord_frame _) (evaluateDiscord_state _))).trans (advanceListening_offPass _)).trans
    (.of_frame (offerBeacon_frame _))

theorem stationWork_offPass (rep : LabelReport) (s : State) : OffPass s (stationWork rep s) := by
  have counted : OffPass s (counted rep s) := ((OffPass.of_frame (aged_frame s)).trans (takeReport_offPass rep _)).trans
    (.of_state (advanceAdoption_frame _) (advanceAdoption_state _))
  exact .ite (.refl s) (.ite (counted.trans (beaconWork_offPass _)) counted)

/-! ### The stages around the pass -/

theorem runStage_offPass {st : Stage} (other : st ≠ .apply) (rep : LabelReport) (distinct : Distinct s) :
    OffPass s (runStage rep st s) := by
  cases st with
  | apply => exact absurd rfl other
  | expiry => exact expireWindows_offPass distinct
  | station => exact stationWork_offPass rep s
  | retest => exact retestQuorum_offPass distinct
  | ratifyOffers => exact reofferRatify_offPass distinct
  | proposeOffers => exact reofferPropose_offPass distinct
  | recitalSend => exact .of_frame (reofferRecital_frame s)
  | recitalReceive => exact receiveWork_offPass s

theorem stagesFrom_offPass {l : List Stage} (others : Stage.apply ∉ l) (rep : LabelReport) (distinct : Distinct s) :
    OffPass s (stagesFrom rep l s) :=
  .foldl distinct fun _ _ distinct _ hst => runStage_offPass (fun h => others (h ▸ hst)) rep distinct

theorem stagesMeet_offPass (ord : BoundaryOrder) (s : State) : OffPass s (stagesMeet ord s) :=
  (OffPass.of_frame (takeLabel_frame _ s)).trans (moveWindows_offPass _ _)

end

end Sys2Proof.Machine
end

section
/-! SUPPORT. The pass as a whole: what it leaves of each settled entry, and that an entry which is not due is left alone
(R142 to R149, R152, R153). -/

namespace Sys2Proof.Machine

set_option Elab.async false

section
variable {s t u : State} {e x y : Entry} {key : Ident} {turn : Nat}

/-! ### Entries on which the pass has nothing to do -/

/-- The pass has nothing left to do for an entry at a label with a horizon (R142 to R147). -/
def Entry.inTime (label h : Nat) (e : Entry) : Prop :=
  ∀ turn, e.turn = some turn →
    (e.state = .ratified → label + h < turn) ∧
    (e.state = .applying → e.kind = .leapAdd → label ≤ turn) ∧
    (e.state = .applying → e.kind = .leapDrop ∨ e.kind = .offsetSet → label < turn)

/-- An entry that is settled has its turn ahead of a label. -/
def Entry.ahead (label : Nat) (e : Entry) : Prop := e.settled = true → ∀ turn, e.turn = some turn → label < turn

theorem inTime_of_standing {label h : Nat} (same : x.standing = y.standing) (hx : x.inTime label h) :
    y.inTime label h := by
  obtain ⟨record, state⟩ := standing_eq_iff.1 same
  unfold Entry.inTime at hx ⊢
  rwa [← record, ← state]

theorem inTime_of_proposed {label h : Nat} (proposed : e.state = .proposed) : e.inTime label h := by
  simp [Entry.inTime, proposed]

theorem bare_eq_iff : x.bare = y.bare ↔ x.toRecord = y.toRecord ∧ x.settled = y.settled := by
  constructor
  · intro same
    have record : x.bare.toRecord = y.bare.toRecord := by rw [same]
    exact ⟨record, by rw [← bare_settled x, same, bare_settled]⟩
  · rintro ⟨record, settled⟩
    rw [Entry.bare, Entry.bare, record, settled]

theorem bare_id (same : x.bare = y.bare) : x.id = y.id := congrArg Record.id (bare_eq_iff.1 same).1

theorem bare_of_standing (same : x.standing = y.standing) : x.bare = y.bare := by
  obtain ⟨record, state⟩ := standing_eq_iff.1 same
  exact bare_eq_iff.2 ⟨record, by rw [Entry.settled, Entry.settled, state]⟩

theorem ahead_of_bare {label : Nat} (same : x.bare = y.bare) (hx : x.ahead label) : y.ahead label := by
  obtain ⟨record, settled⟩ := bare_eq_iff.1 same
  unfold Entry.ahead at hx ⊢
  rwa [← record, ← settled]

/-! ### What is left of the table -/

/-- From `s` to `t` entries only leave the table, as far as its rules read them. -/
abbrev Thins (s t : State) : Prop := (t.table.entries.map Entry.bare).Sublist (s.table.entries.map Entry.bare)

theorem Thins.mem (h : Thins s t) (hy : y ∈ t.table.entries) : ∃ x ∈ s.table.entries, x.bare = y.bare :=
  List.mem_map.1 (h.subset (List.mem_map_of_mem hy))

theorem Thins.distinct (h : Thins s t) (distinct : Distinct s) : Distinct t := by
  have sub := h.map fun e => e.id
  simp only [List.map_map] at sub
  exact List.Nodup.sublist sub distinct

theorem Thins.gone (h : Thins s t) (unheld : s.find key = none) : t.find key = none :=
  find_none_iff.2 fun y hy own => by
    obtain ⟨x, hx, same⟩ := h.mem hy
    exact find_none_iff.1 unheld x hx ((bare_id same).trans own)

theorem Thins.ahead (h : Thins s t) {label : Nat} {p : Ident → Prop}
    (early : ∀ x ∈ s.table.entries, p x.id → x.ahead label) : ∀ y ∈ t.table.entries, p y.id → y.ahead label := by
  intro y hy own
  obtain ⟨x, hx, same⟩ := h.mem hy
  exact ahead_of_bare same (early x hx (bare_id same ▸ own))

/-! ### The action for one entry -/

theorem completeEntry_entries (c : ScaleChange) (e : Entry) (s : State) :
    (completeEntry c e s).table.entries = eraseEntry e.id s.table.entries :=
  congrArg (fun t : Table => eraseEntry e.id t.entries) (handChange_frame c _ _ e.id s).table

/-- An entry of a kind with a change is completed, or its change is not past. -/
theorem actWhenDue_cases (e : Entry) (turn : Nat) (s : State) :
    (∃ c, actWhenDue e turn s = completeEntry c e s) ∨
    ((actWhenDue e turn s).table = s.table ∧ (e.kind = .leapAdd → s.clock.label ≤ turn) ∧
      (e.kind = .leapDrop ∨ e.kind = .offsetSet → s.clock.label < turn)) := by
  obtain early | due | past := Nat.lt_trichotomy s.clock.label turn
  · exact .inr ⟨by rw [actWhenDue_early early], fun _ => by omega, fun _ => early⟩
  all_goals cases kind : e.kind with
    | leapDrop => exact .inl ⟨_, actWhenDue_leapDrop kind (by omega)⟩
    | offsetSet => exact .inl ⟨_, actWhenDue_offsetSet kind (by omega)⟩
    | custody => exact .inr ⟨by simp [actWhenDue, kind], by simp, by simp⟩
    | withdraw => exact .inr ⟨by simp [actWhenDue, kind], by simp, by simp⟩
    | leapAdd => ?_
  · refine .inr ⟨?_, fun _ => by omega, by simp⟩
    rw [actWhenDue_leapAdd_begin kind due]
    exact (handChange_frame _ _ _ _ s).table
  · exact .inl ⟨_, actWhenDue_leapAdd_end kind (by omega)⟩

theorem actWhenDue_sublist (e : Entry) (turn : Nat) (s : State) :
    (actWhenDue e turn s).table.entries.Sublist s.table.entries := by
  obtain ⟨c, eq⟩ | ⟨eq, -⟩ := actWhenDue_cases e turn s
  · rw [eq, completeEntry_entries]
    exact List.filter_sublist
  · rw [eq]

/-! ### An entry brought into APPLYING -/

/-- From `s` to `u` the settled entry `e` under an identifier is brought into APPLYING, if it is not there yet, and
leaves the entries in APPLYING under other identifiers. -/
structure Brought (key : Ident) (e : Entry) (s u : State) : Prop where
  frame : ChangesOnly [.table, .line, .notices] s u
  thins : Thins s u
  own : u.find key = some { e with state := .applying }
  others : ∀ y ∈ u.table.entries, y.id ≠ key → y ∈ s.table.entries
  applying : ∀ k ≠ key, ∀ x, s.find k = some x → x.state = .applying → u.find k = some x
  remains : Remains s u

theorem lapseOvertaken_sublist (key : Ident) (s : State) :
    (lapseOvertaken key s).table.entries.Sublist s.table.entries := by
  rw [lapseOvertaken_eq]
  generalize overtakenIds key s = l
  induction l generalizing s with
  | nil => exact .refl _
  | cons w l ih => exact (ih _).trans List.filter_sublist

theorem enterApplying_brought (distinct : Distinct s) (held : s.find key = some e) (ratified : e.state = .ratified) :
    Brought key e s (enterApplying key s) where
  frame := enterApplying_frame key s
  own := enterApplying_own held
  remains := enterApplying_remains key s
  thins := by
    refine ((lapseOvertaken_sublist key _).map Entry.bare).trans ?_
    rw [show (s.modify key fun x => { x with state := .applying }).table.entries =
      s.table.entries.map fun x => if x.id = key then { x with state := .applying } else x from rfl, List.map_map,
      List.map_congr_left (g := Entry.bare) fun x hx => ?_]
    rw [Function.comp_apply]
    split
    next own =>
      obtain rfl := distinct.eq held hx own
      exact bare_eq_iff.2 ⟨rfl, by rw [Entry.settled, Entry.settled, ratified]; rfl⟩
    next => rfl
  others y hy other := by
    obtain ⟨z, hz, rfl⟩ := mem_modify.1 ((lapseOvertaken_sublist key _).subset hy)
    by_cases own : z.id = key
    · rw [if_pos own] at other
      exact absurd own other
    · rwa [if_neg own]
  applying k other x hx applying := by
    rw [enterApplying_other other fun y hy own hit => ?_]
    · exact hx
    · obtain rfl := distinct.eq hx hy own
      exact absurd (applying.symm.trans hit.2.1) (by decide)

theorem brought_refl (held : s.find key = some e) (applying : e.state = .applying) : Brought key e s s where
  frame := .refl _ s
  thins := .refl _
  own := by rw [held, ← applying]
  others _ hy _ := hy
  applying _ _ _ hx _ := hx
  remains := .refl s

/-- The pass leaves an entry alone that needs nothing, or acts for one that is APPLYING or enters it (R142). -/
theorem applyEntry_cases (distinct : Distinct s) (key : Ident) :
    (applyEntry key s = s ∧ ∀ e, s.find key = some e → e.inTime s.clock.label s.plan.h) ∨
    ∃ e turn u, s.find key = some e ∧ e.settled = true ∧ e.turn = some turn ∧ Brought key e s u ∧
      applyEntry key s = actWhenDue e turn u := by
  cases held : s.find key with
  | none => exact .inl ⟨by simp only [applyEntry, held], by simp⟩
  | some e =>
    obtain rfl := find_id held
    cases turns : e.turn with
    | none =>
      refine .inl ⟨by simp only [applyEntry, held, turns], fun x hx => ?_⟩
      obtain rfl := Option.some.inj hx
      simp [Entry.inTime, turns]
    | some turn =>
      have settled (other : e.state ≠ .proposed) : e.settled = true := by simpa [Entry.settled] using other
      cases state : e.state with
      | proposed =>
        refine .inl ⟨by simp only [applyEntry, held, turns, state], fun x hx => ?_⟩
        obtain rfl := Option.some.inj hx
        exact inTime_of_proposed state
      | ratified =>
        by_cases near : turn ≤ s.clock.label + s.plan.h
        · exact .inr ⟨e, turn, _, rfl, settled (by rw [state]; decide), turns, enterApplying_brought distinct held state,
            applyEntry_enters held turns state near⟩
        · refine .inl ⟨applyEntry_waits held turns state (by omega), fun x hx => ?_⟩
          obtain rfl := Option.some.inj hx
          intro y hy
          obtain rfl := Option.some.inj (turns.symm.trans hy)
          simp only [state]
          exact ⟨fun _ => by omega, nofun, nofun⟩
      | applying =>
        exact .inr ⟨e, turn, s, rfl, settled (by rw [state]; decide), turns, brought_refl held state,
          applyEntry_acts held turns state⟩

/-! ### The entries after the pass -/

theorem applyEntry_thins (distinct : Distinct s) (key : Ident) : Thins s (applyEntry key s) := by
  obtain ⟨eq, -⟩ | ⟨e, turn, u, -, -, -, brought, eq⟩ := applyEntry_cases distinct key <;> rw [eq]
  exact ((actWhenDue_sublist e turn u).map Entry.bare).trans brought.thins

/-- The entry for which the pass has acted needs nothing more, and the others are as they were. -/
theorem applyEntry_entries (distinct : Distinct s) (key : Ident) : ∀ y ∈ (applyEntry key s).table.entries,
    (y.id = key → y.inTime s.clock.label s.plan.h) ∧ (y.id ≠ key → y ∈ s.table.entries) := by
  obtain ⟨eq, done⟩ | ⟨e, turn, u, held, -, turns, brought, eq⟩ := applyEntry_cases distinct key <;> rw [eq]
  · exact fun y hy => ⟨fun own => done y (own ▸ find_of_mem distinct hy), fun _ => hy⟩
  · refine fun y hy => ⟨fun own => ?_, brought.others y ((actWhenDue_sublist e turn u).subset hy)⟩
    obtain ⟨c, eq⟩ | ⟨table, add, drop⟩ := actWhenDue_cases e turn u
    · rw [eq, completeEntry_entries, eraseEntry, List.mem_filter, find_id held] at hy
      simp [own] at hy
    · rw [table] at hy
      obtain rfl := (brought.thins.distinct distinct).eq brought.own hy own
      intro x hx
      obtain rfl := Option.some.inj (turns.symm.trans hx)
      rw [brought.frame.clock] at add drop
      exact ⟨nofun, fun _ => add, fun _ => drop⟩

/-- The pass over the entries of a list. -/
abbrev applyAll (l : List Ident) (s : State) : State := l.foldl (fun t id => applyEntry id t) s

theorem applyAll_entries (l : List Ident) (distinct : Distinct s) :
    Thins s (applyAll l s) ∧ ∀ y ∈ (applyAll l s).table.entries,
      (y.id ∈ l → y.inTime s.clock.label s.plan.h) ∧ (y.id ∉ l → y ∈ s.table.entries) := by
  induction l generalizing s with
  | nil => exact ⟨.refl _, fun y hy => ⟨nofun, fun _ => hy⟩⟩
  | cons key l ih =>
    have thins := applyEntry_thins distinct key
    obtain ⟨rest, later⟩ := ih (thins.distinct distinct)
    have frame := applyEntry_frame key s
    rw [frame.clock, frame.plan] at later
    refine ⟨rest.trans thins, fun y hy => ?_⟩
    obtain ⟨treated, left⟩ := later y hy
    have first (apart : y.id ∉ l) := applyEntry_entries distinct key y (left apart)
    refine ⟨fun listed => ?_, fun unlisted => ?_⟩
    · by_cases again : y.id ∈ l
      · exact treated again
      · exact (first again).1 ((List.mem_cons.1 listed).resolve_right again)
    · obtain ⟨other, apart⟩ := not_or.1 (mt List.mem_cons.2 unlisted)
      exact (first apart).2 other

/-! ### Entries that are not due -/

/-- From `s` to `t` the pass hands no change, and leaves what it holds under an identifier in APPLYING. -/
structure Idle (key : Ident) (s t : State) : Prop where
  frame : ChangesOnly [.table, .line, .report, .notices] s t
  thins : Thins s t
  applying : ∀ e, s.find key = some e → e.state = .applying → t.find key = some e
  remains : Remains s t

theorem Idle.trans (h : Idle key s t) (k : Idle key t u) : Idle key s u where
  frame := h.frame.trans k.frame
  thins := List.Sublist.trans k.thins h.thins
  applying e held applying := k.applying e (h.applying e held applying) applying
  remains := h.remains.trans k.remains

theorem Idle.of_frame (h : ChangesOnly [.report] s t) : Idle key s t where
  frame := h.mono (by decide)
  thins := by rw [Thins, h.table]
  applying e held _ := by rwa [find_of_table h.table]
  remains := .of_frame h

/-- An entry whose turn is ahead enters APPLYING at most. -/
theorem applyEntry_early (distinct : Distinct s) (early : ∀ e ∈ s.table.entries, e.id = key → e.ahead s.clock.label) :
    ChangesOnly [.table, .line, .notices] s (applyEntry key s) ∧ ∀ k ≠ key, Idle k s (applyEntry key s) := by
  obtain ⟨eq, -⟩ | ⟨e, turn, u, held, settled, turns, brought, eq⟩ := applyEntry_cases distinct key
  · rw [eq]
    exact ⟨.refl _ s, fun k _ => .of_frame (.refl _ s)⟩
  · have ahead : u.clock.label < turn := by
      rw [brought.frame.clock]
      exact early e (mem_of_find held) (find_id held) settled turn turns
    rw [eq, actWhenDue_early ahead]
    exact ⟨brought.frame, fun k other =>
      ⟨brought.frame.mono (by decide), brought.thins, brought.applying k other, brought.remains⟩⟩

theorem applyAll_early (l : List Ident) (distinct : Distinct s)
    (early : ∀ e ∈ s.table.entries, e.id ∈ l → e.ahead s.clock.label) :
    ChangesOnly [.table, .line, .notices] s (applyAll l s) ∧ ∀ k ∉ l, Idle k s (applyAll l s) := by
  induction l generalizing s with
  | nil => exact ⟨.refl _ s, fun k _ => .of_frame (.refl _ s)⟩
  | cons key l ih =>
    have thins := applyEntry_thins distinct key
    obtain ⟨frame, idle⟩ := applyEntry_early distinct fun e he own => early e he (own ▸ List.mem_cons_self)
    obtain ⟨frames, idles⟩ := ih (thins.distinct distinct) (by
      rw [frame.clock]
      exact thins.ahead fun e he listed => early e he (List.mem_cons_of_mem _ listed))
    refine ⟨frame.trans frames, fun k apart => ?_⟩
    obtain ⟨other, apart⟩ := not_or.1 (mt List.mem_cons.2 apart)
    exact (idle k other).trans (idles k apart)

/-! ### The pass -/

/-- The identifiers of the settled entries, which the pass takes in table order. -/
def settledIds (s : State) : List Ident := s.idsWhere fun e => e.settled

theorem mem_settledIds : key ∈ settledIds s ↔ ∃ e ∈ s.table.entries, e.settled = true ∧ e.id = key := by
  simp [settledIds, State.idsWhere, and_assoc]

theorem settledIds_nodup (distinct : Distinct s) : (settledIds s).Nodup :=
  List.Nodup.sublist (List.filter_sublist.map _) distinct

theorem applyPass_eq (started : s.started) :
    applyPass s = formReport (applyAll (settledIds s) (clearChanges s)) := if_neg started

theorem applyPass_thins (started : s.started) (distinct : Distinct s) : Thins s (applyPass s) := by
  rw [applyPass_eq started]
  exact (applyAll_entries (s := clearChanges s) (settledIds s) distinct).1

/-- After the pass no entry is within its horizon or past its turn (R143 to R147). -/
theorem applyPass_inTime (started : s.started) (distinct : Distinct s) :
    ∀ y ∈ (applyPass s).table.entries, y.inTime s.clock.label s.plan.h := by
  rw [applyPass_eq started]
  intro y hy
  obtain ⟨treated, left⟩ := (applyAll_entries (s := clearChanges s) (settledIds s) distinct).2 y hy
  by_cases listed : y.id ∈ settledIds s
  · exact treated listed
  · refine inTime_of_proposed ?_
    by_contra settled
    exact listed (mem_settledIds.2 ⟨y, left listed, by simpa [Entry.settled] using settled, rfl⟩)

/-- Where nothing is due the pass changes no scale and reports no change (R152). -/
theorem applyPass_quiet (started : s.started) (distinct : Distinct s)
    (early : ∀ e ∈ s.table.entries, e.ahead s.clock.label) :
    (applyPass s).scales = s.scales ∧ (applyPass s).report.change = Vector.replicate 5 none := by
  rw [applyPass_eq started]
  obtain ⟨frame, -⟩ := applyAll_early (s := clearChanges s) (settledIds s) distinct fun e he _ => early e he
  exact ⟨frame.scales, congrArg Report.change frame.report⟩

/-- Where one entry alone may be due, the pass acts for it between work that changes no scale (R142). -/
theorem applyPass_acts (started : s.started) (distinct : Distinct s) (held : s.find e.id = some e)
    (applying : e.state = .applying) (turns : e.turn = some turn)
    (others : ∀ x ∈ s.table.entries, x.id ≠ e.id → x.ahead s.clock.label) :
    ∃ w, Idle e.id s w ∧ Idle e.id (actWhenDue e turn w) (applyPass s) := by
  have listed : e.id ∈ settledIds s :=
    mem_settledIds.2 ⟨e, mem_of_find held, by simp [Entry.settled, applying], rfl⟩
  obtain ⟨before, after, eq⟩ := List.append_of_mem listed
  have nodup := eq ▸ settledIds_nodup distinct
  obtain ⟨-, once, apart⟩ := List.nodup_append.1 nodup
  have unlisted : e.id ∉ before := fun h => apart _ h _ List.mem_cons_self rfl
  obtain ⟨unrepeated, -⟩ := List.nodup_cons.1 once
  have cleared : Idle e.id s (clearChanges s) := .of_frame (clearChanges_frame s)
  have first := cleared.trans ((applyAll_early (s := clearChanges s) before distinct fun x hx inside =>
    others x hx fun own => unlisted (own ▸ inside)).2 _ unlisted)
  refine ⟨applyAll before (clearChanges s), first, ?_⟩
  rw [applyPass_eq started, eq, show applyAll (before ++ e.id :: after) (clearChanges s) =
    applyAll after (applyEntry e.id (applyAll before (clearChanges s))) from List.foldl_append]
  generalize applyAll before (clearChanges s) = w at first
  rw [applyEntry_acts (first.applying e held applying) turns applying]
  have sub := (actWhenDue_sublist e turn w).map Entry.bare
  have thins : Thins s (actWhenDue e turn w) := sub.trans first.thins
  refine ((applyAll_early after (thins.distinct distinct) ?_).2 _ unrepeated).trans (.of_frame (formReport_frame _))
  rw [(actWhenDue_frame e turn w).clock, first.frame.clock]
  exact thins.ahead fun x hx inside => others x hx fun own => unrepeated (own ▸ inside)

/-! ### The report -/

/-- The report names the entries in APPLYING as they stand (R141). -/
theorem applyingOf_eq (s : State) (c : Nat) :
    applyingOf s c = (s.applyings.find? fun p => s.familyOf p.1 == some c).map Prod.fst := by
  rw [applyings_eq, List.find?_map, List.find?_filter, Option.map_map]
  simp only [Function.comp_apply, Bool.decide_and, Bool.decide_eq_true]
  rfl

theorem OffPass.applyingOf (h : OffPass s t) (c : Nat) : applyingOf t c = applyingOf s c := by
  have family : t.familyOf = s.familyOf := funext fun r => by rw [State.familyOf, State.familyOf, h.family]
  rw [applyingOf_eq, applyingOf_eq, h.applyings, family]

theorem applyPass_report (started : s.started) (i : Fin 5) :
    (applyPass s).report.applying[i] = Machine.applyingOf (applyPass s) (i.val + 1) := by
  rw [applyPass_eq started]
  fin_cases i <;> rfl

end

end Sys2Proof.Machine
end

section
/-! SUPPORT. The boundary around its pass: what was settled before it comes to the pass, and what the pass leaves stands
(R141 to R149, R152, R153). -/

namespace Sys2Proof.Machine

set_option Elab.async false

section
variable {s t u w : State} {e x y : Entry} {k turn : Nat}

/-! ### The pass within the boundary -/

/-- Between `s` and `t` the pass is made once, on `u` at the label taken, and the other work of a boundary is done
before it and after it. -/
structure PassMade (s u t : State) : Prop where
  started : u.started
  distinct : Distinct u
  label : t.clock.label = u.clock.label
  before : OffPass s u
  after : OffPass (applyPass u) t
  remains : Remains (applyPass u) t

theorem boundaryMade_passMade (made : boundaryMade s t) (started : s.started) (distinct : Distinct s) :
    ∃ u, PassMade s u t := by
  obtain ⟨ord, clock, -, -, after, remains⟩ := boundaryMade_cases made
  obtain ⟨closes, remains⟩ := boundary_closes after remains
  generalize (takeLabel ord.passBeforeTest (s.setClock clock)).1 = rep at closes remains
  have start : OffPass s (stagesMeet ord (s.setClock clock)) :=
    (OffPass.of_frame (setClock_frame clock s)).trans (stagesMeet_offPass ord _)
  generalize stagesMeet ord (s.setClock clock) = m at closes remains start
  obtain ⟨first, rest, unmade, once, eq⟩ := runStages_split ord rep .apply m
  have ahead := start.trans (stagesFrom_offPass unmade rep (start.distinct distinct))
  have started' := ahead.started started
  have distinct' := ahead.distinct distinct
  rw [eq] at closes remains
  have behind : OffPass (applyPass (stagesFrom rep first m)) t :=
    (stagesFrom_offPass once rep ((applyPass_thins started' distinct').distinct distinct')).trans (.of_frame closes)
  refine ⟨stagesFrom rep first m, started', distinct', ?_, ahead, behind, ?_⟩
  · rw [closes.clock, (stagesFrom_asks rep rest _).label]
    exact (runStage_asks rep .apply _).label
  · exact (Remains.foldl (fun v st => runStage_remains rep st v) rest _).trans remains

namespace PassMade
variable (made : PassMade s u t)
include made

/-- The work before the pass settles no entry, so a turn that is ahead stays ahead. -/
theorem ahead {p : Ident → Prop}
    (early : ∀ x ∈ s.table.entries, p x.id → x.ahead t.clock.label) :
    ∀ y ∈ u.table.entries, p y.id → y.ahead u.clock.label := by
  intro y hy own
  obtain ⟨x, hx, same⟩ := made.before.mem hy
  have bare := bare_of_standing same
  exact made.label ▸ ahead_of_bare bare (early x hx (bare_id bare ▸ own))

theorem inTime : ∀ y ∈ t.table.entries, y.inTime t.clock.label s.plan.h := by
  intro y hy
  obtain ⟨x, hx, same⟩ := made.after.mem hy
  rw [made.label, ← made.before.plan]
  exact inTime_of_standing same (applyPass_inTime made.started made.distinct x hx)

theorem report (i : Fin 5) : t.report.applying[i] = applyingOf t (i.val + 1) := by
  rw [made.after.report, applyPass_report made.started, made.after.applyingOf]

theorem quiet (early : ∀ e ∈ s.table.entries, e.ahead t.clock.label) (k : Nat) :
    t.report.change = Vector.replicate 5 none ∧ (t.scale k).value = (s.scale k).value ∧
      (t.scale k).inserted = (s.scale k).inserted := by
  obtain ⟨scales, change⟩ := applyPass_quiet made.started made.distinct fun y hy =>
    made.ahead (p := fun _ => True) (fun x hx _ => early x hx) y hy trivial
  obtain ⟨-, -, value, inserted, -⟩ := made.before.scale k
  obtain ⟨-, -, value', inserted', -⟩ := made.after.scale k
  rw [scale_of_scales scales] at value' inserted'
  exact ⟨by rw [made.after.report, change], value'.trans value, inserted'.trans inserted⟩

end PassMade

/-! ### An entry that alone may be due -/

/-- Of an entry in APPLYING that alone may be due: it is `x` when the pass acts for it in `w`, where the registry answers
for scale `k` as it would have before the boundary, and `t` shows what the action leaves. -/
structure ActsAlone (e : Entry) (turn k : Nat) (s w t : State) (x : Entry) : Prop where
  record : x.toRecord = e.toRecord
  held : w.find e.id = some x
  label : w.clock.label = t.clock.label
  kind : (w.scale k).kind = (s.scale k).kind
  value : (w.scale k).value = (s.scale k).value
  insertRefused : (w.scale k).insertRefused = (s.scale k).insertRefused
  valueAfter : (t.scale k).value = ((actWhenDue x turn w).scale k).value
  insertedAfter : (t.scale k).inserted = ((actWhenDue x turn w).scale k).inserted
  stands : (actWhenDue x turn w).find e.id = some x → (t.find e.id).isSome = true
  gone : (actWhenDue x turn w).find e.id = none → t.find e.id = none
  remains : Remains (actWhenDue x turn w) t

theorem PassMade.actsAlone (made : PassMade s u t) (held : s.find e.id = some e) (applying : e.state = .applying)
    (turns : e.turn = some turn) (others : ∀ x ∈ s.table.entries, x.id ≠ e.id → x.ahead t.clock.label) (k : Nat) :
    ∃ w x, ActsAlone e turn k s w t x := by
  obtain ⟨x, hx, same⟩ := made.before.mem_applying (mem_of_find held) applying
  obtain ⟨record, state⟩ := standing_eq_iff.1 same
  have id : x.id = e.id := congrArg Record.id record
  have applying' : x.state = .applying := state.trans applying
  obtain ⟨w, first, last⟩ := applyPass_acts (turn := turn) made.started made.distinct (find_of_mem made.distinct hx)
    applying' ((congrArg Record.turn record).trans turns) (id ▸ made.ahead (p := (· ≠ e.id)) others)
  rw [id] at first last
  have before : w.scale k = u.scale k := scale_of_scales first.frame.scales k
  have after : (applyPass u).scale k = (actWhenDue x turn w).scale k := scale_of_scales last.frame.scales k
  obtain ⟨kind, -, value, -, refused⟩ := made.before.scale k
  obtain ⟨-, -, value', inserted', -⟩ := made.after.scale k
  rw [← before] at kind value refused
  rw [after] at value' inserted'
  refine ⟨w, x, {
    record, kind, value
    held := first.applying x (id ▸ find_of_mem made.distinct hx) applying'
    label := (congrArg Clock.label first.frame.clock).trans made.label.symm
    insertRefused := refused
    valueAfter := value'
    insertedAfter := inserted'
    stands := fun stays => by
      obtain ⟨y, hy, same⟩ := made.after.mem_applying (mem_of_find (last.applying x stays applying')) applying'
      obtain ⟨record, -⟩ := standing_eq_iff.1 same
      cases found : t.find e.id with
      | some => rfl
      | none => exact absurd ((congrArg Record.id record).trans id) (find_none_iff.1 found y hy)
    gone := fun gone => made.after.gone (last.thins.gone gone)
    remains := last.remains.trans made.remains }⟩

namespace ActsAlone
variable (acts : ActsAlone e turn k s w t x) (lo : 1 ≤ k) (hi : k ≤ 5)
include acts

theorem scale (scale : e.scale = some k) : x.scale = some k := (congrArg Record.scale acts.record).trans scale

theorem kindOf {c : Kind} (kind : e.kind = c) : x.kind = c := (congrArg Record.kind acts.record).trans kind

include lo hi

/-- A change that is taken and does not complete its entry. -/
theorem begins {c : ScaleChange} {v : Int} {sc : Scale} (act : actWhenDue x turn w = handChange c k v x.id w)
    (change : (w.scale k).change c v = (sc, true)) :
    (t.scale k).inserted = sc.inserted ∧ (t.scale k).value = sc.value ∧ (t.find e.id).isSome = true := by
  obtain ⟨scale, table, -⟩ := handChange_spec (id := x.id) lo hi change
  rw [← act] at scale table
  exact ⟨scale ▸ acts.insertedAfter, scale ▸ acts.valueAfter, acts.stands ((find_of_table table _).trans acts.held)⟩

/-- A change that is taken and completes its entry. -/
theorem completes {c : ScaleChange} {v : Int} {sc : Scale} (named : e.scale = some k) (value : e.value.getD 0 = v)
    (act : actWhenDue x turn w = completeEntry c x w) (change : (w.scale k).change c v = (sc, true)) :
    (t.scale k).inserted = sc.inserted ∧ (t.scale k).value = sc.value ∧ t.find e.id = none ∧ noticed t .applied := by
  have own : x.value.getD 0 = v := (congrArg (fun r : Record => r.value.getD 0) acts.record).trans value
  obtain ⟨scale, ⟨gone, raised⟩, -⟩ := completeEntry_spec lo hi (acts.scale named) own change
  have told : noticed (completeEntry c x w) .applied := by
    rw [noticed, raised]
    exact raise_noticed (.applied x.id x.kind x.scale !true) w
  rw [← act] at scale gone told
  rw [show x.id = e.id from congrArg Record.id acts.record] at gone
  exact ⟨scale ▸ acts.insertedAfter, scale ▸ acts.valueAfter, acts.gone gone, acts.remains.noticed _ told⟩

end ActsAlone

end

theorem scale_succ (s : State) (i : Fin 5) : s.scale (i.val + 1) = s.scales[i] := by
  unfold State.scale
  rw [dif_pos (by omega)]
  rfl

/-- Settles O29: the pass is made once among the stages, at the label taken, and the work around it keeps what it reads
and what it leaves. -/
theorem boundariesMakeThePass : Obligations.BoundariesMakeThePass := by
  intro s c makes started bounded
  obtain ⟨t, run, made⟩ := exec_makesBoundary makes
  obtain ⟨u, made⟩ := boundaryMade_passMade made started bounded.1
  refine ⟨t, run, made.inTime, made.report, fun early i => ?quiet,
    fun e turn k held applying turns named lo hi others => ?due⟩
  case quiet =>
    obtain ⟨change, value, inserted⟩ := made.quiet early (i.val + 1)
    rw [scale_succ, scale_succ] at value inserted
    exact ⟨by rw [change]; exact Vector.getElem_replicate .., value, inserted⟩
  case due =>
    obtain ⟨w, x, acts⟩ := made.actsAlone held applying turns (fun x hx other settled => others x hx settled other) k
    rw [← acts.kind, ← acts.value, ← acts.insertRefused, ← acts.label]
    refine ⟨fun kind civil below => ⟨fun due => ?begins, fun past fresh => ?ends⟩, fun kind civil above due => ?drops,
      fun v kind value loc due => ?sets⟩
    case begins =>
      refine acts.begins lo hi ?_ (change_insertBegin_taken 0 civil below)
      rw [actWhenDue_leapAdd_begin (acts.kindOf kind) due, acts.scale named, Option.getD_some]
    case ends =>
      exact acts.completes lo hi named rfl (actWhenDue_leapAdd_end (acts.kindOf kind) past)
        (change_insertEnd_taken _ civil fresh below)
    case drops =>
      exact (acts.completes lo hi named rfl (actWhenDue_leapDrop (acts.kindOf kind) due)
        (change_lagDown_taken _ civil above)).2
    case sets =>
      exact (acts.completes lo hi named (by rw [value]; rfl) (actWhenDue_offsetSet (acts.kindOf kind) due)
        (change_offsetTo_taken v loc)).2

end Sys2Proof.Machine
end

section
/-! SUPPORT. The requests on outputs, the quench inputs, and the ends of pulses and records (R156, R159, R160, R163 to R168,
R189). -/

namespace Sys2Proof.Machine

set_option Elab.async false

/-! ### Output numbers -/

theorem outputNumber_fin (n : Fin 8) : outputNumber (BitVec.ofNat 8 n.val).toNat = some n := by
  have small : n.val % 2 ^ 8 = n.val := Nat.mod_eq_of_lt (by omega)
  rw [BitVec.toNat_ofNat, small, outputNumber, dif_pos n.isLt]

theorem outputNumber_above {n : Nat} (h : 7 < n) : outputNumber n = none := dif_neg (by omega)

/-! ### BIND_OUTPUT (R156) -/

section
variable {s : State} {scale code w policy : Nat} {p : Presentation}

theorem presentationOf_smear (h : w ∈ smearWindows) : presentationOf 2 w = some (.smear w) :=
  if_pos (List.contains_iff_mem.2 h)

theorem presentationOf_eq_none (h : 2 < code ∨ (code = 2 ∧ w ∉ smearWindows)) : presentationOf code w = none := by
  obtain above | ⟨rfl, out⟩ := h
  · match code, above with
    | code + 3, _ => rfl
  · exact if_neg (mt List.contains_iff_mem.1 out)

/-- Where NONE is named, the presentation code is tested all the same (log entry 26). -/
theorem presentationOf_taken (h : code ≤ 1 ∨ (code = 2 ∧ w ∈ smearWindows)) :
    ∃ p, presentationOf code w = some p := by
  obtain few | ⟨rfl, inside⟩ := h
  · match code, few with
    | 0, _ => exact ⟨_, rfl⟩
    | 1, _ => exact ⟨_, rfl⟩
  · exact ⟨_, presentationOf_smear inside⟩

theorem bindingOf_bound (shown : presentationOf code w = some p) (hs : scale ≤ 5) (q : Bool) :
    bindingOf scale code w q.toNat = some (some { scale := scale, presentation := p, quench := q }) := by
  have small := q.toNat_lt
  have own : (q.toNat == 1) = q := by cases q <;> rfl
  simp only [bindingOf, shown, own]
  rw [if_neg (by omega), if_neg (by omega), if_neg (by omega)]

theorem bindingOf_unbound (shown : presentationOf code w = some p) (q : Bool) :
    bindingOf 255 code w q.toNat = some none := by
  have small := q.toNat_lt
  simp only [bindingOf, shown]
  rw [if_neg (by omega), if_pos trivial]

theorem bindingOf_eq_none (named : scale ≠ 255)
    (out : 5 < scale ∨ 2 < code ∨ 1 < policy ∨ (code = 2 ∧ w ∉ smearWindows)) :
    bindingOf scale code w policy = none := by
  unfold bindingOf
  cases shown : presentationOf code w with
  | none => rfl
  | some p =>
    have inside : ¬ (2 < code ∨ (code = 2 ∧ w ∉ smearWindows)) := fun h =>
      nomatch (presentationOf_eq_none h).symm.trans shown
    dsimp only
    by_cases many : 1 < policy
    · rw [if_pos many]
    · rw [if_neg many, if_neg named, if_pos]
      obtain h | h | h | h := out
      · exact h
      · exact absurd (.inl h) inside
      · exact absurd h many
      · exact absurd (.inr h) inside

section
variable (un : s.station.state = .unconfigured) {m k c y : Byte} {x width : BitVec 24}
include un

theorem bindOutput_taken {n : Fin 8} {b : Option Binding} (number : outputNumber m.toNat = some n)
    (binds : bindingOf k.toNat c.toNat x.toNat y.toNat = some b) :
    exec (.bindOutput m k c x width y) s = .next
      { s with outputs := s.outputs.set n (s.outputs[n].bound b width.toNat), port := okPort 3 } := by
  rw [show exec (.bindOutput m k c x width y) s = execBindOutput m k c x width y s from rfl, execBindOutput, number,
    binds]
  dsimp only
  rw [configure_taken un]
  rfl

theorem bindOutput_refused
    (out : outputNumber m.toNat = none ∨ bindingOf k.toNat c.toNat x.toNat y.toNat = none) :
    exec (.bindOutput m k c x width y) s = .next { s with port := refusedPort 3 .range } := by
  rw [show exec (.bindOutput m k c x width y) s = execBindOutput m k c x width y s from rfl, execBindOutput]
  split
  next number binds => simp [number, binds] at out
  next => rw [configure_range un]

end

end

/-- Settles O8: the binding that the codes give, and the arguments out of range. -/
theorem bindOutputReplacesTheBinding : Obligations.BindOutputReplacesTheBinding := by
  intro s n k p w width y un cmd bound windowIn
  have taken {b : Option Binding} (binds : bindingOf k.toNat p.toNat w.toNat y.toNat = some b) :
      exec cmd s = .next
        { s with outputs := s.outputs.set n (s.outputs[n].bound b width.toNat), port := okPort 3 } :=
    bindOutput_taken un (outputNumber_fin n) binds
  refine ⟨fun q policy => ⟨fun small => ?scales, fun unbound shown => ?unbound⟩, fun out named => ?range,
    fun m above => bindOutput_refused un (.inl (outputNumber_above above))⟩
  case scales =>
    have shows {x : Presentation} (h : presentationOf p.toNat w.toNat = some x) :
        exec cmd s = .next (bound (some { scale := k.toNat, presentation := x, quench := q }) width.toNat) :=
      taken (policy ▸ bindingOf_bound h small q)
    exact ⟨fun step => shows (by rw [step]; rfl), fun hold => shows (by rw [hold]; rfl),
      fun smear inside => shows (by rw [smear]; exact presentationOf_smear inside)⟩
  case unbound =>
    obtain ⟨x, h⟩ := presentationOf_taken shown
    exact taken (by rw [unbound, policy]; exact bindingOf_unbound h q)
  case range =>
    refine bindOutput_refused un (.inr (bindingOf_eq_none named ?_))
    exact out.imp And.left (.imp_right (.imp_right fun h => ⟨h.1, h.2.1⟩))

/-! ### SET_WIDTH and RELEASE_OUTPUT (R160, R168) -/

section
variable {s : State}

theorem setWidth_unconfigured (un : s.station.state = .unconfigured) (n : Byte) (w : BitVec 24) :
    exec (.setWidth n w) s = .next { s with port := refusedPort 48 .state } := if_pos un

theorem releaseOutput_unconfigured (un : s.station.state = .unconfigured) (n : Byte) :
    exec (.releaseOutput n) s = .next { s with port := refusedPort 49 .state } := if_pos un

section
variable (started : s.started)
include started

theorem setWidth_above {n : Byte} (above : 7 < n.toNat) (w : BitVec 24) :
    exec (.setWidth n w) s = .next { s with port := refusedPort 48 .range } := by
  rw [show exec (.setWidth n w) s = execSetWidth n w s from rfl, execSetWidth, if_neg started,
    outputNumber_above above]
  rfl

theorem setWidth_numbered (n : Fin 8) (w : BitVec 24) :
    exec (.setWidth (BitVec.ofNat 8 n.val) w) s =
      if s.outputs[n].running then .next (answerOk 48 .none (s.setOutput n { s.outputs[n] with nextWidth := w.toNat }))
      else .next (refuse 48 .state s) := by
  rw [show exec (.setWidth (BitVec.ofNat 8 n.val) w) s = execSetWidth (BitVec.ofNat 8 n.val) w s from rfl,
    execSetWidth, if_neg started, outputNumber_fin]

theorem releaseOutput_above {n : Byte} (above : 7 < n.toNat) :
    exec (.releaseOutput n) s = .next { s with port := refusedPort 49 .range } := by
  rw [show exec (.releaseOutput n) s = execReleaseOutput n s from rfl, execReleaseOutput, if_neg started,
    outputNumber_above above]
  rfl

theorem releaseOutput_numbered (n : Fin 8) :
    exec (.releaseOutput (BitVec.ofNat 8 n.val)) s =
      if !s.outputs[n].running then .next (refuse 49 .state s)
      else if !s.outputs[n].latch.set then .next (answerOk 49 .none s)
      else if releaseBarred s n then .next (refuse 49 .state s)
      else .next (answerOk 49 .none (s.setOutput n { s.outputs[n] with releasePending := true })) := by
  rw [show exec (.releaseOutput (BitVec.ofNat 8 n.val)) s = execReleaseOutput (BitVec.ofNat 8 n.val) s from rfl,
    execReleaseOutput, if_neg started, outputNumber_fin]

end

theorem quenchesAdrift_iff {o : Output} : o.quenchesAdrift = true ↔ ∃ b, o.binding = some b ∧ b.quench = true := by
  unfold Output.quenchesAdrift
  cases o.binding <;> simp

/-- The conditions that bar a release, as R168 lists them. -/
theorem releaseBarred_iff (s : State) (n : Fin 8) :
    releaseBarred s n = true ↔ s.quenchAsserted (groupOf n) = true ∨
      (s.station.state = .adrift ∧ ∃ b, s.outputs[n].binding = some b ∧ b.quench = true) ∨
      s.station.state = .isolated := by
  rw [← quenchesAdrift_iff]
  simp [releaseBarred, or_assoc]

end

/-- Settles O16: the answer by the station state, by the number of the output, and by its run state. -/
theorem setWidthWritesTheNextWidth : Obligations.SetWidthWritesTheNextWidth := by
  intro s w
  refine ⟨fun un n => setWidth_unconfigured un n w, fun started n above => setWidth_above started above w,
    fun started n => ?_⟩
  rw [setWidth_numbered started]
  exact ⟨fun idle => if_neg (Bool.not_eq_true _ ▸ idle), fun running => if_pos running⟩

/-- Settles O17: the rows of the table of R168 in their order. -/
theorem releaseOutputFollowsItsTable : Obligations.ReleaseOutputFollowsItsTable := by
  intro s
  refine ⟨releaseOutput_unconfigured, fun started n above => releaseOutput_above started above, fun started n => ?_⟩
  intro cmd barred
  rw [show exec cmd s = _ from releaseOutput_numbered started n]
  refine ⟨fun idle => ?idle, fun running clear => ?clear, fun running set bars => ?barred, fun running set free => ?free⟩
  case idle => rw [idle]; rfl
  case clear => rw [running, clear]; rfl
  case barred => rw [running, set, (releaseBarred_iff s n).2 bars]; rfl
  case free => rw [running, set, Bool.eq_false_iff.2 (mt (releaseBarred_iff s n).1 free)]; rfl

/-! ### Quench inputs (R165, R167) -/

section
variable {s : State} {g : Group}

theorem quenchLevel_set (s : State) (g : Group) (high : Bool) : (s.setQuenchLevel g high).quenchLevel g = high := by
  cases g <;> rfl

theorem quenchLevel_of_pins {s t : State} (h : t.pins = s.pins) (g : Group) : t.quenchLevel g = s.quenchLevel g := by
  cases g <;> simp only [State.quenchLevel, h]

theorem quenchGroup_frame (g : Group) (s : State) : ChangesOnly [.outputs, .notices] s (quenchGroup g s) :=
  quenchWhere_frame _ _ s

theorem driveQuench_inactive (g : Group) (s : State) :
    driveQuench g false s = s.setQuenchLevel g (s.quenchCfg g).activeLow := by
  simp [driveQuench]

theorem driveQuench_idle (h : s.station.state = .unconfigured ∨ s.quenchActive g = true) :
    driveQuench g true s = s.setQuenchLevel g (!(s.quenchCfg g).activeLow) := by
  obtain un | active := h
  · simp [driveQuench, un]
  · simp [driveQuench, active]

theorem driveQuench_asserted (started : s.started) (inactive : s.quenchActive g = false) :
    driveQuench g true s = quenchGroup g (s.setQuenchLevel g (!(s.quenchCfg g).activeLow)) := by
  have after : s.station.state ≠ .unconfigured := started
  simp [driveQuench, inactive, after]

end

/-- Settles O22: the level alone, or the level and the RUNNING outputs of the group. -/
theorem quenchInputsActOnTheirGroup : Obligations.QuenchInputsActOnTheirGroup := by
  intro s g level
  refine ⟨congrArg Host.Outcome.next (driveQuench_inactive g s), fun idle => congrArg Host.Outcome.next
    (driveQuench_idle idle), fun started inactive => ⟨_, congrArg Host.Outcome.next
      (driveQuench_asserted started inactive), ?_, fun n => ?_, (driveQuench_asserted started inactive) ▸
        driveQuench_frame g true s⟩⟩
  · rw [quenchLevel_of_pins (quenchGroup_frame g _).pins, quenchLevel_set]
  · have get := quenchGroup_get g (s.setQuenchLevel g (!(s.quenchCfg g).activeLow)) n
    rw [setQuenchLevel_outputs] at get
    rw [get]
    refine ⟨fun own running => ?_, fun other => if_neg ?_⟩
    · rw [if_pos ⟨own, running⟩]
      rfl
    · rintro ⟨own, running⟩
      exact other.elim (· own) fun idle => nomatch running.symm.trans idle

/-! ### Pulses and records (R159, R163, R164) -/

section
variable {o : Output} {c : Clock}

/-- The next start falls at this tick, by a tick period that has run out (R157). -/
theorem secondDue_iff : o.secondDue = true ↔ o.running = true ∧ ∃ p, o.curPeriod = .ticks p ∧ p ≤ o.tick := by
  unfold Output.secondDue
  cases o.curPeriod <;> simp

/-- A start that falls at the same tick comes before the end of the pulse (log entry 32). -/
theorem pulseDue_iff : o.pulseDue c = true ↔
    o.running = true ∧ o.sp = true ∧ o.forceFull = false ∧ o.curWidth ≤ o.tick ∧
      ¬ ((∃ p, o.curPeriod = .ticks p ∧ p ≤ o.tick) ∨ (o.curPeriod = .boundary ∧ 10000100 ≤ c.tick)) := by
  have tests : o.pulseDue c = true ↔ o.running = true ∧ o.sp = true ∧ o.forceFull = false ∧ o.curWidth ≤ o.tick ∧
      ¬ o.secondDue = true ∧ ¬ (o.curPeriod = .boundary ∧ 10000100 ≤ c.tick) := by
    simp [Output.pulseDue, Config.substituteAt, and_assoc, Decidable.imp_iff_not_or]
  rw [tests, secondDue_iff]
  generalize (∃ p, o.curPeriod = .ticks p ∧ p ≤ o.tick) = runs
  tauto

theorem recordDue_iff : o.recordDue = true ↔ ∃ x, o.underWay = some x ∧ 1000000 ≤ x.twelfths := by
  unfold Output.recordDue
  cases o.underWay <;> simp

theorem carriesRealigned_eq (bytes : List Byte) : carriesRealigned bytes = ((bytes[12]?).getD 0).getLsbD 6 := by
  unfold carriesRealigned
  cases bytes[12]? <;> simp

end

/-- Settles O52: the end of a pulse and the end of a record, each where it is due. -/
theorem pulsesAndRecordsEnd : Obligations.PulsesAndRecordsEnd := by
  intro s n o startsNow
  refine ⟨fun running high narrow wide apart => ?_, fun early => ?_, fun x sends long => ?_, fun short => ?_⟩
  · exact congrArg Host.Outcome.next (if_pos (pulseDue_iff.2 ⟨running, high, narrow, wide, apart⟩))
  · refine congrArg Host.Outcome.next (if_neg fun due => ?_)
    obtain ⟨running, high, narrow, wide, apart⟩ := pulseDue_iff.1 due
    obtain h | h | h | h | h := early
    · exact nomatch running.symm.trans h
    · exact nomatch high.symm.trans h
    · exact nomatch narrow.symm.trans h
    · exact absurd wide (Nat.not_le.2 h)
    · exact apart h
  · refine congrArg Host.Outcome.next ((if_pos (recordDue_iff.2 ⟨x, sends, long⟩)).trans ?_)
    rw [Output.endRecord, sends]
    dsimp only
    rw [carriesRealigned_eq]
    rfl
  · refine congrArg Host.Outcome.next (if_neg fun due => ?_)
    obtain ⟨x, sends, long⟩ := recordDue_iff.1 due
    exact absurd (short x sends) (Nat.not_lt.2 long)

end Sys2Proof.Machine
end

section
/-! SUPPORT. The second of an output: what the presentation logic gives for it, the record that shows it, and how SPn and TCn
are driven (R157, R161, R162, R164, R167, R168, R172 to R177). -/

namespace Sys2Proof.Machine

set_option Elab.async false

/-! ### The bytes of a record (R162) -/

section
variable (s : State) (n : Fin 8) (k : Nat) (d : Display) (realign : Bool)

theorem byteSum_checked (bs : List Byte) : byteSum (bs ++ [checkByte bs]) % 256 = 0 := by
  have total := foldl_add_toNat (bs ++ [checkByte bs]) 0
  rw [sum_checkByte] at total
  simpa using total.symm

theorem composeRecord_byteSum : byteSum (composeRecord s n k d realign) % 256 = 0 := byteSum_checked _

theorem composeRecord_length : (composeRecord s n k d realign).length = 16 := by
  obtain ⟨chk, eq⟩ := composeRecord_eq s n k d realign
  simp [eq, be_length, labelBytes_length]

theorem composeRecord_start : (composeRecord s n k d realign)[0]? = some 0x24 := rfl

theorem composeRecord_output :
    (composeRecord s n k d realign)[1]? = some (BitVec.ofNat 8 (n.val * 16 + k)) := by
  obtain ⟨chk, eq⟩ := composeRecord_eq s n k d realign
  simp [eq, be]

/-- The bytes that every record has: its start, the output and its scale, and the check (R162). -/
theorem composeRecord_framed : (composeRecord s n k d realign).length = 16 ∧
    (composeRecord s n k d realign)[0]? = some 0x24 ∧
    (composeRecord s n k d realign)[1]? = some (BitVec.ofNat 8 (n.val * 16 + k)) ∧
    byteSum (composeRecord s n k d realign) % 256 = 0 :=
  ⟨composeRecord_length .., composeRecord_start .., composeRecord_output .., composeRecord_byteSum ..⟩

end

/-! ### What a display shows -/

/-- A display is of a count, with second 60 where `sixty` says so, and carries the flags given (R161). -/
structure Display.Shows (d : Display) (count : Int) (sixty smearing held changed : Prop) : Prop where
  plain : ¬ sixty → d.form = calendar count
  marked : sixty → d.form = (calendar count).map fun f => { f with second := 60 }
  smearing : d.smearing = true ↔ smearing
  held : d.held = true ↔ held
  changed : d.offsetChange = true ↔ changed

/-- The record that is composed for a display shows what the display does. -/
theorem Display.Shows.record {d : Display} {count : Int} {sixty smearing held changed : Prop}
    (h : d.Shows count sixty smearing held changed) (s : State) (n : Fin 8) (k : Nat) (realign : Bool) :
    recordShows s k count sixty smearing held changed (realign = true) (composeRecord s n k d realign) := by
  classical
  rw [← propext h.smearing, ← propext h.held, ← propext h.changed]
  refine composeRecord_shows s n k d realign count sixty ?_
  by_cases marked : sixty
  · simp only [marked, if_true]
    exact h.marked marked
  · simp only [marked, if_false]
    exact (h.plain marked).trans Option.map_id'.symm

section
variable (s : State) (k : Nat) (atBoundary : Bool)

theorem plainDisplay_shows : (plainDisplay s k atBoundary).Shows (s.count k) (s.familyInserted k = true) False False
    (atBoundary = true ∧ s.tookChange k .offsetTo = true) where
  plain single := by
    simp only [plainDisplay, State.calendarForm, calendarMarked, if_neg single]
    exact Option.map_id'
  marked sixty := by simp only [plainDisplay, State.calendarForm, calendarMarked, if_pos sixty]
  smearing := Bool.false_eq_true ▸ Iff.rfl
  held := Bool.false_eq_true ▸ Iff.rfl
  changed := Bool.and_eq_true_iff

theorem heldDisplay_shows : (heldDisplay s k atBoundary).Shows (s.count k) False False True
    (atBoundary = true ∧ s.tookChange k .offsetTo = true) where
  plain _ := rfl
  marked := False.elim
  smearing := (plainDisplay_shows s k atBoundary).smearing
  held := ⟨fun _ => trivial, fun _ => rfl⟩
  changed := (plainDisplay_shows s k atBoundary).changed

theorem smearDisplay_shows (c : Int) : (smearDisplay k c).Shows (c + k - 1) False True False False where
  plain _ := rfl
  marked := False.elim
  smearing := ⟨fun _ => trivial, fun _ => rfl⟩
  held := Bool.false_eq_true ▸ Iff.rfl
  changed := Bool.false_eq_true ▸ Iff.rfl

end

/-! ### The presentation logic by cases (R172 to R177) -/

section
variable {s : State} {b : Binding} {o : Output} {w k : Nat} {leap : SmearLeap} {c : Int}

theorem present_step (step : b.presentation = .step) (atBoundary : Bool) :
    present s b atBoundary o = ({ o with forceFull := false }, plainDisplay s b.scale atBoundary) := by
  simp only [present, step]

theorem present_held (hold : b.presentation = .hold) {atBoundary : Bool} (holding : holds s b.scale atBoundary = true) :
    present s b atBoundary o = ({ o with forceFull := true }, heldDisplay s b.scale atBoundary) := by
  simp only [present, hold, if_pos holding]

theorem present_unheld (hold : b.presentation = .hold) {atBoundary : Bool}
    (moving : ¬ holds s b.scale atBoundary = true) :
    present s b atBoundary o = ({ o with forceFull := false }, plainDisplay s b.scale atBoundary) := by
  simp only [present, hold, if_neg moving]

section
variable (smear : b.presentation = .smear w)
include smear

theorem present_armed (armed : o.smear = .armed leap) (atBoundary : Bool) :
    present s b atBoundary o =
      (openSecond { o with forceFull := false } w leap 1 (s.count b.scale), smearDisplay 1 (s.count b.scale)) := by
  simp only [present, smear, armed]

theorem present_opened (opened : o.smear = .opened leap k c) (atBoundary : Bool) :
    present s b atBoundary o = (openSecond { o with forceFull := false } w leap (k + 1) c, smearDisplay (k + 1) c) := by
  simp only [present, smear, opened]

theorem present_arms (absent : o.smear = .absent) (arms : armingLeap s b.scale w = some leap) :
    present s b true o = ({ o with forceFull := false, smear := .armed leap, nextPeriod := .ticks leap.period },
      plainDisplay s b.scale true) := by
  simp only [present, smear, absent, if_true, arms]

theorem present_unarmed (absent : o.smear = .absent) {atBoundary : Bool}
    (none : atBoundary = true → armingLeap s b.scale w = none) :
    present s b atBoundary o = ({ o with forceFull := false }, plainDisplay s b.scale atBoundary) := by
  have unarmed : (if atBoundary = true then armingLeap s b.scale w else Option.none) = Option.none := by
    split
    next here => exact none here
    next => rfl
  simp only [present, smear, absent, unarmed]

end

/-- The presentation logic writes force full, the next period and the smear context alone. -/
theorem present_keeps (s : State) (b : Binding) (atBoundary : Bool) (o : Output) :
    (present s b atBoundary o).1 =
      { o with
        forceFull := (present s b atBoundary o).1.forceFull
        nextPeriod := (present s b atBoundary o).1.nextPeriod
        smear := (present s b atBoundary o).1.smear } := by
  unfold present
  split
  case h_1 => rfl
  case h_2 => split <;> rfl
  case h_3 =>
    dsimp only
    split
    · rfl
    · rfl
    · split <;> rfl

/-- It reads the next period and the smear context of an output alone. -/
theorem present_reads {o p : Output} (next : p.nextPeriod = o.nextPeriod) (smear : p.smear = o.smear) (s : State)
    (b : Binding) (atBoundary : Bool) :
    (present s b atBoundary p).1.forceFull = (present s b atBoundary o).1.forceFull ∧
    (present s b atBoundary p).1.nextPeriod = (present s b atBoundary o).1.nextPeriod ∧
    (present s b atBoundary p).1.smear = (present s b atBoundary o).1.smear ∧
    (present s b atBoundary p).2 = (present s b atBoundary o).2 := by
  cases shows : b.presentation with
  | step =>
    rw [present_step shows, present_step shows]
    exact ⟨rfl, next, smear, rfl⟩
  | hold =>
    by_cases holding : holds s b.scale atBoundary = true
    · rw [present_held shows holding, present_held shows holding]
      exact ⟨rfl, next, smear, rfl⟩
    · rw [present_unheld shows holding, present_unheld shows holding]
      exact ⟨rfl, next, smear, rfl⟩
  | smear w =>
    cases context : o.smear with
    | armed leap =>
      rw [present_armed shows (smear.trans context), present_armed shows context]
      exact ⟨rfl, by simp only [openSecond, next], rfl, rfl⟩
    | opened leap k c =>
      rw [present_opened shows (smear.trans context), present_opened shows context]
      exact ⟨rfl, by simp only [openSecond, next], rfl, rfl⟩
    | absent =>
      simp only [present, shows, smear, context]
      split
      · exact ⟨rfl, rfl, rfl, rfl⟩
      · exact ⟨rfl, next, rfl, rfl⟩

end

/-! ### The second that begins (R157) -/

/-- From `o` a second begins, of which `shown` gives the presentation and `bytes` the record. -/
structure Output.SecondBegins (o p : Output) (shown : Output) (bytes : List Byte) : Prop where
  width : p.curWidth = o.nextWidth
  nextWidth : p.nextWidth = o.nextWidth
  period : p.curPeriod = o.nextPeriod
  tick : p.tick = 0
  latch : p.latch.set = (o.latch.set && !o.releasePending)
  released : p.releasePending = false
  realign : p.realign = o.realign
  result : p.result = o.result
  last : p.last = some bytes
  forceFull : p.forceFull = shown.forceFull
  nextPeriod : p.nextPeriod = shown.nextPeriod
  smear : p.smear = shown.smear
  silent : p.latch.set = true → p.sp = false ∧ p.underWay = o.underWay ∧ p.owed = o.owed
  high : p.latch.set = false → p.sp = (p.forceFull || decide (0 < o.nextWidth))
  sends : p.latch.set = false → o.underWay = none →
    p.underWay = some { bytes := bytes, twelfths := 0 } ∧ p.owed = o.owed
  owes : p.latch.set = false → ∀ x, o.underWay = some x → p.underWay = some x ∧ p.owed = some bytes

/-- A pending release clears the latch, and leaves it to the causes in force otherwise (R168). -/
theorem release_latch (o : Output) : o.release.latch.set = (o.latch.set && !o.releasePending) ∧
    o.release.releasePending = false := by
  unfold Output.release
  cases pending : o.releasePending <;> simp [pending, Latch.set, Latch.clear]

theorem release_keeps (o : Output) :
    o.release = { o with latch := o.release.latch, releasePending := o.release.releasePending } := by
  unfold Output.release
  split <;> rfl

/-- A second that begins drives SPn and TCn alone. -/
theorem drive_keeps (o : Output) (bytes : List Byte) :
    o.drive bytes =
      { o with
        last := some bytes, sp := (o.drive bytes).sp, underWay := (o.drive bytes).underWay
        owed := (o.drive bytes).owed } := by
  unfold Output.drive
  split <;> rfl

section
variable {o : Output} (bytes : List Byte)

theorem drive_silent (set : o.latch.set = true) :
    (o.drive bytes).sp = false ∧ (o.drive bytes).underWay = o.underWay ∧ (o.drive bytes).owed = o.owed := by
  rw [Output.drive, if_pos set]
  exact ⟨rfl, rfl, rfl⟩

section
variable (clear : o.latch.set = false)
include clear

theorem drive_high : (o.drive bytes).sp = (o.forceFull || decide (0 < o.curWidth)) := by
  rw [Output.drive, if_neg (Bool.eq_false_iff.1 clear)]

theorem drive_sends (idle : o.underWay = none) :
    (o.drive bytes).underWay = some { bytes := bytes, twelfths := 0 } ∧ (o.drive bytes).owed = o.owed := by
  rw [Output.drive, if_neg (Bool.eq_false_iff.1 clear), idle]
  exact ⟨rfl, rfl⟩

theorem drive_owes {x : UnderWay} (sends : o.underWay = some x) :
    (o.drive bytes).underWay = some x ∧ (o.drive bytes).owed = some bytes := by
  rw [Output.drive, if_neg (Bool.eq_false_iff.1 clear), sends]
  exact ⟨rfl, rfl⟩

end

end

/-- The output of which a second drives SPn and TCn: the latch as a release leaves it, the width and the period loaded, and
what the presentation logic writes. -/
theorem begun_eq (o : Output) (s : State) (n : Fin 8) (b : Binding) (atBoundary : Bool) :
    o.begun s n b atBoundary = Output.drive
      { o with
        latch := o.release.latch
        releasePending := false
        curWidth := o.nextWidth
        curPeriod := o.nextPeriod
        tick := 0
        forceFull := (present s b atBoundary o).1.forceFull
        nextPeriod := (present s b atBoundary o).1.nextPeriod
        smear := (present s b atBoundary o).1.smear }
      (composeRecord s n b.scale (present s b atBoundary o).2 o.realign) := by
  have released := release_keeps o
  rw [(release_latch o).2] at released
  have kept := present_keeps s b atBoundary o.release.load
  obtain ⟨forceFull, nextPeriod, smear, shown⟩ := present_reads (o := o) (p := o.release.load)
    (by rw [released]; rfl) (by rw [released]; rfl) s b atBoundary
  rw [forceFull, nextPeriod, smear] at kept
  rw [Output.begun, shown, kept]
  generalize o.release.latch = latch at released
  rw [released]
  rfl

theorem begun_begins (o : Output) (s : State) (n : Fin 8) (b : Binding) (atBoundary : Bool) :
    o.SecondBegins (o.begun s n b atBoundary) (present s b atBoundary o).1
      (composeRecord s n b.scale (present s b atBoundary o).2 o.realign) := by
  have latch := (release_latch o).1
  rw [begun_eq]
  generalize composeRecord s n b.scale (present s b atBoundary o).2 o.realign = bytes
  generalize (present s b atBoundary o).1 = shown
  generalize o.release.latch = l at *
  generalize driven : ({ o with
    latch := l, releasePending := false, curWidth := o.nextWidth, curPeriod := o.nextPeriod, tick := 0,
    forceFull := shown.forceFull, nextPeriod := shown.nextPeriod, smear := shown.smear } : Output) = u
  have kept := drive_keeps u bytes
  have same : (u.drive bytes).latch = u.latch := by rw [kept]
  have force : (u.drive bytes).forceFull = u.forceFull := by rw [kept]
  have silent : u.latch.set = true → _ := drive_silent bytes (o := u)
  have high : u.latch.set = false → _ := drive_high bytes (o := u)
  have sends : u.latch.set = false → u.underWay = none → _ := drive_sends bytes (o := u)
  have owes : u.latch.set = false → ∀ x, u.underWay = some x → _ := fun clear x => drive_owes bytes (o := u) clear
  rw [← same] at silent high sends owes
  rw [← force] at high
  subst driven
  exact {
    width := by rw [kept]
    nextWidth := by rw [kept]
    period := by rw [kept]
    tick := by rw [kept]
    latch := by rw [kept, ← latch]
    released := by rw [kept]
    realign := by rw [kept]
    result := by rw [kept]
    last := by rw [kept]
    forceFull := by rw [kept]
    nextPeriod := by rw [kept]
    smear := by rw [kept]
    silent, high, sends, owes }

/-! ### A second that begins at a tick period (R157, R159) -/

section
variable {s : State} {n : Fin 8} {b : Binding}

theorem startSecond_bound (bound : s.outputs[n].binding = some b) (atBoundary : Bool) :
    startSecond n atBoundary s =
      (if s.outputs[n].releasePending then raise (.quench n.val .released s.clock.label) s else s).setOutput n
        (s.outputs[n].begun s n b atBoundary) := by
  simp only [startSecond, bound]
  rfl

theorem outputSecondStart_early (early : s.outputs[n].running = false ∨ s.outputs[n].curPeriod = .boundary ∨
    ∃ p, s.outputs[n].curPeriod = .ticks p ∧ s.outputs[n].tick < p) :
    exec (.outputSecondStart n) s = .next s := by
  refine congrArg Host.Outcome.next (if_neg fun due => ?_)
  obtain ⟨running, p, period, out⟩ := secondDue_iff.1 due
  obtain idle | boundary | ⟨q, own, under⟩ := early
  · exact nomatch running.symm.trans idle
  · exact nomatch period.symm.trans boundary
  · obtain rfl : p = q := Period.ticks.inj (period.symm.trans own)
    exact absurd out (Nat.not_le.2 under)

/-- No INSERT_BEGIN is shown between base boundaries, so that force full is clear in the seconds that begin there (R173). -/
theorem present_between (s : State) (b : Binding) (o : Output) : (present s b false o).1.forceFull = false := by
  cases shows : b.presentation with
  | step => rw [present_step shows]
  | hold => rw [present_unheld shows (by simp [holds])]
  | smear w =>
    cases context : o.smear with
    | armed leap => rw [present_armed shows context]; rfl
    | opened leap k c => rw [present_opened shows context]; rfl
    | absent => rw [present_unarmed shows context (by simp)]

/-- Between base boundaries a second outside every window is shown as the registry gives it, without the flag of R174. -/
theorem present_between_plain (s : State) (b : Binding) {o : Output}
    (outside : ∀ w, b.presentation = .smear w → o.smear = .absent) :
    (present s b false o).2 = plainDisplay s b.scale false := by
  cases shows : b.presentation with
  | step => rw [present_step shows]
  | hold => rw [present_unheld shows (by simp [holds])]
  | smear w => rw [present_unarmed shows (outside w shows) (by simp)]

end

/-- Settles O51: the guard, and the second that begins with the record of its display. -/
theorem outputSecondBeginsAtItsPeriod : Obligations.OutputSecondBeginsAtItsPeriod := by
  intro s n o silent
  refine ⟨outputSecondStart_early, fun p b running period out bound => ?_⟩
  have due : o.secondDue = true := secondDue_iff.2 ⟨running, p, period, out⟩
  have start := startSecond_bound bound false
  have begins := begun_begins o s n b false
  obtain ⟨length, first, output, sum⟩ := composeRecord_framed s n b.scale (present s b false o).2 o.realign
  have shows {count : Int} {sixty smearing held changed : Prop}
      (h : (present s b false o).2.Shows count sixty smearing held changed) := h.record s n b.scale o.realign
  have own : (startSecond n false s).outputs[n] = o.begun s n b false := by rw [start, setOutput_get, if_pos rfl]
  generalize composeRecord s n b.scale (present s b false o).2 o.realign = bytes at *
  refine ⟨startSecond n false s, bytes, congrArg Host.Outcome.next (if_pos due), ?_⟩
  rw [own]
  generalize o.begun s n b false = q at *
  have narrow := begins.forceFull.trans (present_between s b o)
  refine ⟨begins.width, begins.nextWidth, begins.period, begins.tick, narrow, begins.released, begins.realign,
    begins.latch, fun pending => ?told, fun none => ?untold, ?level, begins.last, length, first, output, sum,
    fun set => (begins.silent (begins.latch.trans set)).2, fun clear => begins.sends (begins.latch.trans clear),
    fun x clear => begins.owes (begins.latch.trans clear) x, fun w leap k c smear opened => ?smeared,
    fun outside => ?plain, fun w leap k c smear opened => ?window, fun m other => ?others, ?frame⟩
  case told =>
    rw [start, if_pos pending]
    rfl
  case untold =>
    rw [start, if_neg (Bool.eq_false_iff.1 none)]
    rfl
  case level =>
    rw [show silent = q.latch.set from begins.latch.symm]
    cases set : q.latch.set with
    | true => exact (begins.silent set).1
    | false => rw [begins.high set, narrow]; rfl
  case smeared =>
    have display := smearDisplay_shows (k + 1) c
    rw [Nat.cast_succ, ← Int.add_assoc, Int.add_sub_cancel] at display
    exact shows (by rw [present_opened smear opened]; exact display)
  case plain =>
    have display := plainDisplay_shows s b.scale false
    rw [← present_between_plain s b outside] at display
    simpa using shows display
  case window =>
    rw [begins.smear, begins.nextPeriod, present_opened smear opened]
    exact ⟨rfl, rfl⟩
  case others =>
    rw [start, setOutput_get, if_neg (Ne.symm other)]
    split <;> rfl
  case frame =>
    rw [start]
    exact ((raise_frame _ s).ite (.refl _ s)).then (setOutput_frame _ _ _)

end Sys2Proof.Machine
end

section
/-! SUPPORT. What the units' work at a boundary makes of the outputs: only the evaluations quench any, and the station that
they leave ADRIFT or ISOLATED stays so to the end of the boundary (R108, R114, R115, R131, R139, R157, R166). -/

namespace Sys2Proof.Machine

set_option Elab.async false

/-! ### Where a station receives, and where it can no longer come back -/

/-- A recital is received in RECEIVING or in ACTIVE (R125). -/
def ReceivesInPlace (s : State) : Prop :=
  s.receiving = none ∨ s.station.state = .receiving ∨ s.station.state = .active

/-- The station is ADRIFT or ISOLATED, the states on whose entry outputs are quenched (R166). -/
def State.cutOff (s : State) : Prop := s.station.state = .adrift ∨ s.station.state = .isolated

/-- The station is ADRIFT or ISOLATED, with no attempt to receive a recital that could fail and let it join. -/
def StaysCutOff (s : State) : Prop := s.cutOff ∧ s.receiving = none

section
variable {s t u : State} {ps : List Part}

theorem ContextsPlaced.inPlace (placed : ContextsPlaced s) : ReceivesInPlace s := by
  cases held : s.receiving with
  | none => exact .inl held
  | some c => exact .inr ((placed.2 c held).imp And.left And.left)

/-- A station that leaves a state for another holds no receiving context (R120, R139). -/
theorem enterState_receives_none {new : StationState} (inPlace : ReceivesInPlace s)
    (other : s.station.state ≠ new) : (enterState new s).receiving = none := by
  obtain none | receives := inPlace
  · exact enterState_receiving_none none
  · have dropped : (dropContexts s.station.state { s with station := s.station.entered new }).receiving = none := by
      obtain state | state := receives <;> rw [state] <;> rfl
    rw [enterState_other other, (quenchOnState_frame _ _).receiving]
    exact purgeForbidden_receiving_none dropped

/-! ### Work that quenches no output -/

/-- From `s` to `t` no output changes, and a recital that is received in its place is so in `t`. -/
structure Spares (s t : State) : Prop where
  outputs : t.outputs = s.outputs
  inPlace : ReceivesInPlace s → ReceivesInPlace t

theorem Spares.refl (s : State) : Spares s s := ⟨rfl, id⟩

theorem Spares.trans (h : Spares s t) (k : Spares t u) : Spares s u :=
  ⟨k.outputs.trans h.outputs, k.inPlace ∘ h.inPlace⟩

/-- What leaves outputs and receiving context alone, and the station in its state. -/
theorem Spares.of_state (h : ChangesOnly ps s t) (state : t.station.state = s.station.state)
    (outputs : Part.outputs ∉ ps := by decide) (receiving : Part.receiving ∉ ps := by decide) : Spares s t :=
  ⟨h.outputs outputs, fun inPlace => by rwa [ReceivesInPlace, h.receiving receiving, state]⟩

theorem Spares.of_frame (h : ChangesOnly ps s t) (station : Part.station ∉ ps := by decide)
    (outputs : Part.outputs ∉ ps := by decide) (receiving : Part.receiving ∉ ps := by decide) : Spares s t :=
  .of_state h (congrArg Station.state (h.station station)) outputs receiving

theorem enterState_spares {new : StationState} (adrift : new ≠ .adrift) (isolated : new ≠ .isolated) (s : State) :
    Spares s (enterState new s) := by
  refine ⟨enterState_outputs adrift isolated, fun inPlace => ?_⟩
  by_cases same : s.station.state = new
  · rwa [enterState_same same]
  · exact .inl (enterState_receives_none inPlace same)

theorem afterAdoption_spares (s : State) : Spares s (afterAdoption s) := by
  unfold afterAdoption
  split
  · exact enterState_spares (by decide) (by decide) s
  · exact .of_state (withStation_frame _ s) rfl
  · exact .refl s

theorem takeReport_spares (rep : LabelReport) (s : State) : Spares s (takeReport rep s) := by
  have cleared (t : State) : Spares t (clearAdoption t) := .of_state (withStation_frame _ t) rfl
  cases rep with
  | plain => exact .refl s
  | set jump => exact .refl s
  | blocked => exact cleared s
  | adopted jump =>
    rw [takeReport_adopted_eq]
    exact ((Spares.of_frame (jumpSlots_frame jump s)).trans (cleared _)).trans (afterAdoption_spares _)

/-- The Station Controller's work before the evaluations. -/
theorem counted_spares (rep : LabelReport) (s : State) : Spares s (counted rep s) :=
  ((Spares.of_frame (aged_frame s)).trans (takeReport_spares rep _)).trans
    (.of_state (advanceAdoption_frame _) (advanceAdoption_state _))

theorem receiveWork_outputs (s : State) : (receiveWork s).outputs = s.outputs := by
  unfold receiveWork
  split
  · rfl
  next c held =>
    split
    · split
      · exact (failAttempt_spec (s := { s with receiving := some { c with wait := c.wait + 1 } }) rfl _).1
      · dsimp only
        split
        · exact (offerRequest_frame _).outputs
        · rfl
    · rfl

/-- The station receives where it did, or has dropped its context. -/
theorem receiveWork_state (s : State) :
    (receiveWork s).receiving = none ∨ (receiveWork s).station.state = s.station.state := by
  unfold receiveWork
  split
  · exact .inr rfl
  next c held =>
    split
    · split
      · obtain ⟨d, -, eq⟩ | ⟨n, -, eq⟩ := failAttempt_cases
          (s := { s with receiving := some { c with wait := c.wait + 1 } }) rfl .timeout
        · rw [eq, (offerRequest_frame _).station]
          exact .inr rfl
        · rw [eq]
          exact .inl (roundFailed_receiving_none rfl _)
      · dsimp only
        split
        · rw [(offerRequest_frame _).station]
          exact .inr rfl
        · exact .inr rfl
    · exact .inr rfl

theorem receiveWork_none (none : s.receiving = none) : receiveWork s = s := by
  unfold receiveWork
  rw [none]

theorem receiveWork_spares (s : State) : Spares s (receiveWork s) := by
  refine ⟨receiveWork_outputs s, fun inPlace => ?_⟩
  obtain none | receives := inPlace
  · rw [receiveWork_none none]
    exact .inl none
  · exact (receiveWork_state s).imp_right fun state => by rwa [state]

/-- The stages but that of the Station Controller quench no output. -/
theorem runStage_spares {st : Stage} (other : st ≠ .station) (rep : LabelReport) (s : State) :
    Spares s (runStage rep st s) := by
  cases st with
  | station => exact absurd rfl other
  | apply => exact .of_frame (applyPass_frame s)
  | expiry => exact .of_frame (expireWindows_frame s)
  | retest => exact .of_frame (retestQuorum_frame s)
  | ratifyOffers => exact .of_frame (reofferRatify_frame s)
  | proposeOffers => exact .of_frame (reofferPropose_frame s)
  | recitalSend => exact .of_frame (reofferRecital_frame s)
  | recitalReceive => exact receiveWork_spares s

theorem stagesFrom_spares {l : List Stage} (others : Stage.station ∉ l) (rep : LabelReport) (s : State) :
    Spares s (stagesFrom rep l s) := by
  induction l generalizing s with
  | nil => exact .refl s
  | cons st l ih =>
    exact (runStage_spares (List.ne_of_not_mem_cons others).symm rep s).trans
      (ih (List.not_mem_of_not_mem_cons others) _)

/-! ### A station that is cut off stays so -/

theorem StaysCutOff.of_frame (h : ChangesOnly ps s t) (cut : StaysCutOff s) (station : Part.station ∉ ps := by decide)
    (receiving : Part.receiving ∉ ps := by decide) : StaysCutOff t := by
  rwa [StaysCutOff, State.cutOff, h.station station, h.receiving receiving]

theorem State.cutOff.neither (cut : s.cutOff) : s.station.state ≠ .active ∧ s.station.state ≠ .joining := by
  obtain state | state := cut <;> simp [state]

theorem StaysCutOff.runStage (cut : StaysCutOff s) {st : Stage} (other : st ≠ .station) (rep : LabelReport) :
    StaysCutOff (runStage rep st s) := by
  cases st with
  | station => exact absurd rfl other
  | apply => exact cut.of_frame (applyPass_frame s)
  | expiry => exact cut.of_frame (expireWindows_frame s)
  | retest => exact cut.of_frame (retestQuorum_frame s)
  | ratifyOffers => exact cut.of_frame (reofferRatify_frame s)
  | proposeOffers => exact cut.of_frame (reofferPropose_frame s)
  | recitalSend => exact cut.of_frame (reofferRecital_frame s)
  | recitalReceive => rwa [show Machine.runStage rep .recitalReceive s = s from receiveWork_none cut.2]

theorem StaysCutOff.stagesFrom (cut : StaysCutOff s) {l : List Stage} (others : Stage.station ∉ l) (rep : LabelReport) :
    StaysCutOff (stagesFrom rep l s) := by
  induction l generalizing s with
  | nil => exact cut
  | cons st l ih =>
    exact ih (cut.runStage (List.ne_of_not_mem_cons others).symm rep) (List.not_mem_of_not_mem_cons others)

theorem evaluateDiscord_inactive (inactive : s.station.state ≠ .active) :
    (evaluateDiscord s).receiving = s.receiving := by
  simp only [evaluateDiscord]
  rw [if_neg fun h => inactive h.1]

/-- What follows the evaluations of a beacon time neither listens nor asks for a recital. -/
theorem StaysCutOff.beatRest (cut : StaysCutOff s) : StaysCutOff (beatRest s) := by
  obtain ⟨inactive, away⟩ := cut.1.neither
  rw [beatRest_away away]
  refine StaysCutOff.of_frame (offerBeacon_frame _) ⟨?_, ?_⟩
  · rw [State.cutOff, evaluateDiscord_state]
    exact cut.1
  · rw [evaluateDiscord_inactive inactive, cut.2]

/-! ### The evaluations quench (R114, R115, R166) -/

/-- From `s` to `t` an output stands or is quenched, and if one is quenched the station is cut off. -/
def Quenches (s t : State) : Prop := ∀ m : Fin 8,
  t.outputs[m] = s.outputs[m] ∨
  (s.outputs[m].running = true ∧ (ReceivesInPlace s → StaysCutOff t) ∧
    ∃ cause, cause ≠ .released ∧ t.outputs[m] = s.outputs[m].quenched cause)

theorem Spares.quenches (h : Spares s t) : Quenches s t := fun m => .inl (get_of_eq h.outputs m)

theorem Quenches.after (k : Quenches t u) (h : Spares s t) : Quenches s u := by
  intro m
  have same := get_of_eq h.outputs m
  rw [← same]
  exact (k m).imp_right fun ⟨running, cut, quenched⟩ => ⟨running, cut ∘ h.inPlace, quenched⟩

theorem Quenches.before (h : Quenches s t) (outputs : u.outputs = t.outputs) (cut : StaysCutOff t → StaysCutOff u) :
    Quenches s u := by
  intro m
  rw [get_of_eq outputs m]
  exact (h m).imp_right fun ⟨running, off, quenched⟩ => ⟨running, cut ∘ off, quenched⟩

theorem quenchWhere_quenches {p : Fin 8 → Output → Bool} {cause : QuenchDetail} (caused : cause ≠ .released)
    (outputs : t.outputs = s.outputs) (cut : ReceivesInPlace s → StaysCutOff (quenchWhere p cause t)) :
    Quenches s (quenchWhere p cause t) := by
  intro m
  have get := quenchWhere_get p cause t m
  rw [get_of_eq outputs m] at get
  split at get
  next picked => exact .inr ⟨picked.2, cut, cause, caused, get⟩
  next => exact .inl get

/-- An entry to ADRIFT or ISOLATED quenches outputs, and leaves the station cut off. -/
theorem enterState_quenches {new : StationState} (cuts : new = .adrift ∨ new = .isolated) (s : State) :
    Quenches s (enterState new s) := by
  by_cases same : s.station.state = new
  · rw [enterState_same same]
    exact (Spares.refl s).quenches
  have cut (inPlace : ReceivesInPlace s) : StaysCutOff (enterState new s) :=
    ⟨by rw [State.cutOff, enterState_state]; exact cuts, enterState_receives_none inPlace same⟩
  rw [enterState_other same] at cut ⊢
  obtain rfl | rfl := cuts
  · exact quenchWhere_quenches (p := fun _ o => o.quenchesAdrift) (cause := .adrift) (by decide) entered_outputs cut
  · exact quenchWhere_quenches (p := fun _ _ => true) (cause := .isolated) (by decide) entered_outputs cut

theorem evaluated_unconfigured (plan : ¬ s.isolates) (un : s.station.state = .unconfigured) : evaluated s = s := by
  rw [evaluated_label plan]
  simp [evaluateLabel, un, StationState.mayDrift]

theorem evaluated_quenches (s : State) : Quenches s (evaluated s) := by
  have armed (t : State) : Spares t (armAdoption t) := .of_state (armAdoption_frame t) (armAdoption_state t)
  by_cases plan : s.isolates
  · obtain ⟨n, -, eq⟩ := evaluated_isolates plan
    rw [eq]
    exact (enterState_quenches (.inr rfl) _).after (.of_frame (raise_frame n s))
  by_cases isolated : s.station.state = .isolated
  · rw [evaluated_stands plan (.inl isolated)]
    exact (Spares.refl s).quenches
  by_cases adrift : s.station.state = .adrift
  · by_cases lost : s.labelOutvoted
    · rw [evaluated_adrift plan lost adrift]
      exact (armed s).quenches
    · rw [evaluated_rejoins plan lost adrift]
      exact (enterState_spares (by decide) (by decide) s).quenches
  by_cases un : s.station.state = .unconfigured
  · rw [evaluated_unconfigured plan un]
    exact (Spares.refl s).quenches
  by_cases lost : s.labelOutvoted
  · obtain ⟨n, -, eq⟩ := evaluated_drifts plan lost adrift isolated un
    rw [eq]
    have entered : Quenches s (enterState .adrift (raise n s)) :=
      (enterState_quenches (.inl rfl) _).after (.of_frame (raise_frame n s))
    refine entered.before (armed _).outputs fun cut => ?_
    rwa [StaysCutOff, State.cutOff, armAdoption_state, (armAdoption_frame _).receiving]
  · rw [evaluated_stands plan (.inr ⟨lost, adrift⟩)]
    exact (Spares.refl s).quenches

/-! ### The Station Controller and the stages -/

theorem advanceListening_outputs (s : State) : (advanceListening s).outputs = s.outputs := by
  unfold advanceListening endListeningIfDue endListening
  split
  · split
    · split
      · exact (askRecital_frame _ _ _).outputs.trans (enterState_outputs (by decide) (by decide))
      · obtain ⟨adrift, isolated, -⟩ := attState_unquenched s.listened
        exact enterState_outputs adrift isolated
    · rfl
  · rfl

theorem beatRest_outputs (s : State) : (beatRest s).outputs = s.outputs := by
  rw [beatRest, (offerBeacon_frame _).outputs, advanceListening_outputs, (evaluateDiscord_frame s).outputs]

theorem beaconWork_quenches (s : State) : Quenches s (beaconWork s) := by
  rw [beaconWork_eq]
  exact ((evaluated_quenches _).before (beatRest_outputs _) StaysCutOff.beatRest).after (.of_frame (advanceSilences_frame s))

theorem stationWork_quenches (rep : LabelReport) (s : State) : Quenches s (stationWork rep s) := by
  have counts := counted_spares rep s
  have work : stationWork rep s = if s.station.state = .unconfigured then s
      else if (counted rep s).beaconTime then beaconWork (counted rep s) else counted rep s := rfl
  rw [work]
  split
  · exact (Spares.refl s).quenches
  · split
    · exact (beaconWork_quenches _).after counts
    · exact counts.quenches

theorem runStages_quenches (ord : BoundaryOrder) (rep : LabelReport) (s : State) :
    Quenches s (runStages ord rep s) := by
  obtain ⟨before, after, unmade, once, eq⟩ := runStages_split ord rep .station s
  rw [eq]
  exact ((stationWork_quenches rep _).before (stagesFrom_spares once rep _).outputs fun cut =>
    cut.stagesFrom once rep).after (stagesFrom_spares unmade rep s)

end

/-! ### What an output brings to the boundary -/

/-- Two outputs with the same binding, widths and periods, in the same second, window and record. -/
structure Output.SameSecond (o v : Output) : Prop where
  binding : v.binding = o.binding
  running : v.running = o.running
  curWidth : v.curWidth = o.curWidth
  nextWidth : v.nextWidth = o.nextWidth
  curPeriod : v.curPeriod = o.curPeriod
  nextPeriod : v.nextPeriod = o.nextPeriod
  tick : v.tick = o.tick
  underWay : v.underWay = o.underWay
  last : v.last = o.last
  smear : v.smear = o.smear
  result : v.result = o.result

/-- What the units' work makes of output `o` before the outputs take the boundary that ends in `t`: a quench (R166) or an
adoption's realignment (R163), or nothing. -/
structure Output.Carried (s t : State) (o v : Output) : Prop where
  same : o.SameSecond v
  idle : o.running = false → v = o
  latched : (v.latch = o.latch ∧ v.releasePending = o.releasePending) ∨
    (v.latch.set = true ∧ v.releasePending = false ∧ (ContextsPlaced s → t.cutOff))

theorem quenched_set {cause : QuenchDetail} (caused : cause ≠ .released) (o : Output) :
    (o.quenched cause).latch.set = true := (quenched_held caused o).1.1

theorem Output.SameSecond.refl (o : Output) : o.SameSecond o := ⟨rfl, rfl, rfl, rfl, rfl, rfl, rfl, rfl, rfl, rfl, rfl⟩

theorem quenched_sameSecond (cause : QuenchDetail) (o : Output) : o.SameSecond (o.quenched cause) :=
  ⟨rfl, rfl, rfl, rfl, rfl, rfl, rfl, rfl, rfl, rfl, rfl⟩

section
variable {s t u : State}

theorem Quenches.carried (h : Quenches s t) (m : Fin 8) :
    Output.Carried s t s.outputs[m] t.outputs[m] := by
  obtain same | ⟨running, cut, cause, caused, quenched⟩ := h m
  · rw [same]
    exact ⟨.refl _, fun _ => rfl, .inl ⟨rfl, rfl⟩⟩
  · rw [quenched]
    exact ⟨quenched_sameSecond _ _, fun idle => (nomatch running.symm.trans idle),
      .inr ⟨quenched_set caused _, rfl, fun placed => (cut placed.inPlace).1⟩⟩

theorem Output.Carried.onward {o v : Output} (h : Output.Carried s t o v) (station : u.station = t.station) :
    Output.Carried s u o v :=
  ⟨h.same, h.idle, h.latched.imp_right fun ⟨set, released, cut⟩ => ⟨set, released, fun placed => by
    rw [State.cutOff, station]
    exact cut placed⟩⟩

theorem Output.Carried.realigned {o v : Output} (h : Output.Carried s t o v) : Output.Carried s t o v.realigned := by
  unfold Output.realigned
  split
  next running =>
    refine ⟨{ h.same with }, fun stopped => ?_, h.latched⟩
    exact nomatch running.symm.trans (h.same.running.trans stopped)
  next => exact h

theorem Output.Carried.realignIfAdopted {o : Output} {m : Fin 8} (h : Output.Carried s t o u.outputs[m])
    (rep : LabelReport) : Output.Carried s t o (realignIfAdopted rep u).outputs[m] := by
  cases rep with
  | adopted jump =>
    rw [realignIfAdopted_get]
    exact h.realigned
  | plain => exact h
  | set jump => exact h
  | blocked => exact h

end

/-! ### The outputs take the boundary (R157, R178, R179) -/

/-- What a base boundary makes of output `n`, where `s` gives what its second shows. -/
def Output.atBoundary (o : Output) (s : State) (n : Fin 8) : Output :=
  if !o.running || o.holdsBoundary s.clock.label then o
  else if o.curPeriod = .boundary then
    match o.binding with
    | none => o.closeWindow s.clock.label
    | some b => (o.closeWindow s.clock.label).begun s n b true
  else o.closeWindow s.clock.label

section
variable {s t : State}

theorem eq_of_outputs_notices (h : ChangesOnly [.outputs, .notices] s t) :
    t = { s with outputs := t.outputs, notices := t.notices } := by
  have same (p : Part) (hp : p ∉ [Part.outputs, .notices] := by decide) : agreesOn s t p := h p hp
  cases s
  cases t
  rw [State.mk.injEq]
  exact ⟨same .pins, same .clock, same .plan, same .quorum, same .planDigest, same .scales, same .table, same .line,
    same .station, same .roster, same .sending, same .receiving, same .verdicts, same .report, rfl, same .qaCfg,
    same .qbCfg, same .port, rfl, same .free, same .serial, same .pending⟩

/-- The outputs of a second read neither the outputs nor the notices of the state. -/
theorem begun_of_frame (h : ChangesOnly [.outputs, .notices] s t) (o : Output) (n : Fin 8) (b : Binding)
    (atBoundary : Bool) : o.begun t n b atBoundary = o.begun s n b atBoundary := by
  rw [eq_of_outputs_notices h]
  rfl

theorem closeWindow_binding (o : Output) (label : Nat) : (o.closeWindow label).binding = o.binding := by
  unfold Output.closeWindow
  split
  · split
    · split <;> rfl
    · rfl
  · rfl

theorem atBoundary_of_frame (h : ChangesOnly [.outputs, .notices] s t) (o : Output) (n : Fin 8) :
    o.atBoundary t n = o.atBoundary s n := by
  unfold Output.atBoundary
  rw [h.clock]
  simp only [begun_of_frame h]

theorem startSecond_other {n m : Fin 8} (other : n ≠ m) (atBoundary : Bool) (s : State) :
    (startSecond n atBoundary s).outputs[m] = s.outputs[m] := by
  cases bound : s.outputs[n].binding with
  | none => rw [startSecond_unbound bound]
  | some b =>
    obtain ⟨u, outputs, eq⟩ := startSecond_outputs bound atBoundary
    rw [eq, setOutput_get, if_neg other, get_of_eq outputs]

theorem outputBoundary_other {n m : Fin 8} (other : n ≠ m) (s : State) :
    (outputBoundary s n).outputs[m] = s.outputs[m] := by
  have closed (o : Output) : (s.setOutput n o).outputs[m] = s.outputs[m] := by rw [setOutput_get, if_neg other]
  rw [outputBoundary]
  dsimp only
  split
  · rfl
  · split
    · rw [startSecond_other other, closed]
    · exact closed _

theorem outputBoundary_get (s : State) (n m : Fin 8) :
    (outputBoundary s n).outputs[m] = if n = m then s.outputs[m].atBoundary s m else s.outputs[m] := by
  by_cases own : n = m
  · subst own
    rw [if_pos rfl, outputBoundary, Output.atBoundary]
    dsimp only
    split
    · rfl
    · have closed := setOutput_get s n n (s.outputs[n].closeWindow s.clock.label)
      rw [if_pos rfl] at closed
      have frame := setOutput_frame n (s.outputs[n].closeWindow s.clock.label) s
      split
      · cases bound : s.outputs[n].binding with
        | none =>
          rw [startSecond_unbound (by rw [closed, closeWindow_binding, bound]), closed]
        | some b =>
          rw [startSecond_bound (by rw [closed, closeWindow_binding, bound]), setOutput_get, if_pos rfl, closed,
            begun_of_frame (frame.mono (by decide))]
      · exact closed
  · rw [if_neg own, outputBoundary_other own]

theorem outputsBoundary_get (s : State) (m : Fin 8) :
    (outputsBoundary s).outputs[m] = s.outputs[m].atBoundary s m := by
  have fold (l : List (Fin 8)) (once : l.Nodup) (s : State) :
      (l.foldl outputBoundary s).outputs[m] = if m ∈ l then s.outputs[m].atBoundary s m else s.outputs[m] := by
    induction l generalizing s with
    | nil => simp
    | cons n l ih =>
      obtain ⟨fresh, once⟩ := List.nodup_cons.1 once
      rw [List.foldl_cons, ih once, outputBoundary_get, atBoundary_of_frame (outputBoundary_frame n s)]
      by_cases own : n = m
      · subst own
        simp [fresh]
      · simp [own, Ne.symm own]
  have whole := fold (List.finRange 8) (List.nodup_finRange 8) s
  rwa [if_pos (List.mem_finRange m)] at whole

/-- At a boundary an output takes what the units' work has made of it, and shows the state that the boundary leaves. -/
theorem boundaryMade_output (made : boundaryMade s t) (n : Fin 8) :
    ∃ v, Output.Carried s t s.outputs[n] v ∧ t.outputs[n] = v.atBoundary t n := by
  obtain ⟨ord, clock, -, -, closed, -⟩ := boundaryMade_cases made
  have meets : Spares s (stagesMeet ord (s.setClock clock)) :=
    (Spares.of_frame (setClock_frame clock s)).trans (.of_frame (stagesMeet_frame ord _))
  have eq : boundary ord (s.setClock clock) = outputsBoundary (realignIfAdopted
      (takeLabel ord.passBeforeTest (s.setClock clock)).1
      (runStages ord (takeLabel ord.passBeforeTest (s.setClock clock)).1 (stagesMeet ord (s.setClock clock)))) := rfl
  rw [eq] at closed
  generalize (takeLabel ord.passBeforeTest (s.setClock clock)).1 = rep at closed
  have work : Quenches s (runStages ord rep (stagesMeet ord (s.setClock clock))) :=
    (runStages_quenches ord rep _).after meets
  generalize runStages ord rep (stagesMeet ord (s.setClock clock)) = u at closed work
  have realigns := realignIfAdopted_frame rep u
  have ends := (outputsBoundary_frame (realignIfAdopted rep u)).then (rs := [.outputs, .notices]) closed
  have station : t.station = u.station := ends.station.trans realigns.station
  refine ⟨(realignIfAdopted rep u).outputs[n], ((work.carried n).onward station).realignIfAdopted rep, ?_⟩
  rw [get_of_eq closed.outputs n, outputsBoundary_get, atBoundary_of_frame ends]

end

end Sys2Proof.Machine
end

section
/-! SUPPORT. A base boundary at one output: the window that it ends or holds, the second that it begins, and what that second
shows (R157, R162, R172 to R179). -/

namespace Sys2Proof.Machine

set_option Elab.async false

/-! ### The smear window at a boundary (R178, R179) -/

/-- The output is in an open window. -/
def Output.inWindow (o : Output) (b : Binding) : Prop :=
  ∃ w leap k c, b.presentation = .smear w ∧ o.smear = .opened leap k c

section
variable {o : Output} {b : Binding} (bound : o.binding = some b) {label : Nat}
include bound

section
variable {w k : Nat} {leap : SmearLeap} {c : Int} (smear : b.presentation = .smear w)
  (opened : o.smear = .opened leap k c)
include smear opened

theorem closeWindow_opened : o.closeWindow label =
    if label = leap.endLabel then
      if k = w then { o with smear := .absent, result := .completed leap.id }
      else { o with smear := .absent, result := .cut leap.id, nextPeriod := .boundary }
    else o := by
  obtain ⟨scale, presentation, policy⟩ := b
  subst smear
  simp only [Output.closeWindow, opened, bound]

theorem holdsBoundary_opened : o.holdsBoundary label = (k == w && label != leap.endLabel) := by
  obtain ⟨scale, presentation, policy⟩ := b
  subst smear
  simp only [Output.holdsBoundary, opened, bound]

end

section
variable (shut : ¬ o.inWindow b)
include shut

theorem closeWindow_shut : o.closeWindow label = o := by
  unfold Output.closeWindow
  split
  next leap k c _ w _ opened binding =>
    obtain rfl := Option.some.inj (binding.symm.trans bound)
    exact absurd ⟨w, leap, k, c, rfl, opened⟩ shut
  next => rfl

theorem holdsBoundary_shut : o.holdsBoundary label = false := by
  unfold Output.holdsBoundary
  split
  next leap k c _ w _ opened binding =>
    obtain rfl := Option.some.inj (binding.symm.trans bound)
    exact absurd ⟨w, leap, k, c, rfl, opened⟩ shut
  next => rfl

end

end

/-! ### The output at a boundary, by cases (R157) -/

section
variable {o : Output} {s : State} {n : Fin 8} {b : Binding}

theorem atBoundary_idle (idle : o.running = false) : o.atBoundary s n = o := by
  simp [Output.atBoundary, idle]

theorem atBoundary_holds (held : o.holdsBoundary s.clock.label = true) : o.atBoundary s n = o := by
  simp [Output.atBoundary, held]

section
variable (running : o.running = true) (through : o.holdsBoundary s.clock.label = false)
include running through

theorem atBoundary_runsOn (ticks : o.curPeriod ≠ .boundary) : o.atBoundary s n = o.closeWindow s.clock.label := by
  simp [Output.atBoundary, running, through, ticks]

theorem atBoundary_begins (bound : o.binding = some b) (boundary : o.curPeriod = .boundary) :
    o.atBoundary s n = (o.closeWindow s.clock.label).begun s n b true := by
  simp [Output.atBoundary, running, through, boundary, bound]

end

theorem closeWindow_latch (o : Output) (label : Nat) : (o.closeWindow label).latch = o.latch ∧
    (o.closeWindow label).releasePending = o.releasePending := by
  unfold Output.closeWindow
  split
  · split
    · split <;> exact ⟨rfl, rfl⟩
    · exact ⟨rfl, rfl⟩
  · exact ⟨rfl, rfl⟩

/-- A boundary leaves the latch as it is, or releases it where a release is pending (R168). -/
theorem atBoundary_latch (o : Output) (s : State) (n : Fin 8) : (o.atBoundary s n).latch.set = o.latch.set ∨
    (o.atBoundary s n).latch.set = (o.latch.set && !o.releasePending) := by
  obtain ⟨latch, pending⟩ := closeWindow_latch o s.clock.label
  unfold Output.atBoundary
  split
  · exact .inl rfl
  · split
    · split
      · rw [latch]
        exact .inl rfl
      next b _ =>
        rw [(begun_begins (o.closeWindow s.clock.label) s n b true).latch, latch, pending]
        exact .inr rfl
    · rw [latch]
      exact .inl rfl

end

/-! ### What the second of a base boundary shows (R172 to R177) -/

/-- The change record of a scale shows a change that was taken (R152). -/
def State.took (s : State) (k : Nat) (c : ScaleChange) : Prop :=
  ∃ r, s.changeOf k = some r ∧ r.change = c ∧ r.taken = true

theorem tookChange_iff {s : State} {k : Nat} {c : ScaleChange} : s.tookChange k c = true ↔ s.took k c := by
  simp [State.tookChange, State.took, Option.any_eq_true]

theorem holds_iff {s : State} {k : Nat} : holds s k true = true ↔ s.took k .insertBegin := tookChange_iff

theorem Display.Shows.congr {d : Display} {count : Int} {sixty sixty' smearing smearing' held held' changed changed' : Prop}
    (h : d.Shows count sixty smearing held changed) (hx : sixty ↔ sixty') (hs : smearing ↔ smearing')
    (hh : held ↔ held') (hc : changed ↔ changed') : d.Shows count sixty' smearing' held' changed' := by
  rwa [propext hx, propext hs, propext hh, propext hc] at h

section
variable {s : State} {b : Binding} {o : Output} {w : Nat}

/-- The output is held at the label before the turn (R173). -/
def Binding.holdsAt (b : Binding) (s : State) : Prop := b.presentation = .hold ∧ s.took b.scale .insertBegin

/-- The window of the output opens with this second (R176). -/
def Output.entersWindow (o : Output) (b : Binding) : Prop :=
  ∃ w leap, b.presentation = .smear w ∧ o.smear = .armed leap

theorem present_shows (shut : ¬ o.inWindow b) :
    (present s b true o).2.Shows (s.count b.scale)
      (s.familyInserted b.scale = true ∧ ¬ b.holdsAt s ∧ ¬ o.entersWindow b) (o.entersWindow b) (b.holdsAt s)
      (s.took b.scale .offsetTo ∧ ¬ o.entersWindow b) := by
  have plain (unheld : ¬ b.holdsAt s) (outside : ¬ o.entersWindow b) : (plainDisplay s b.scale true).Shows
      (s.count b.scale) (s.familyInserted b.scale = true ∧ ¬ b.holdsAt s ∧ ¬ o.entersWindow b) (o.entersWindow b)
      (b.holdsAt s) (s.took b.scale .offsetTo ∧ ¬ o.entersWindow b) :=
    (plainDisplay_shows s b.scale true).congr (by simp [unheld, outside]) (by simp [outside]) (by simp [unheld])
      (by simp [outside, tookChange_iff])
  cases shows : b.presentation with
  | step =>
    rw [present_step shows]
    exact plain (fun h => nomatch shows.symm.trans h.1) fun ⟨_, _, h, _⟩ => nomatch shows.symm.trans h
  | hold =>
    have outside : ¬ o.entersWindow b := fun ⟨_, _, h, _⟩ => nomatch shows.symm.trans h
    by_cases taken : s.took b.scale .insertBegin
    · rw [present_held shows (holds_iff.2 taken)]
      have held : b.holdsAt s := ⟨shows, taken⟩
      exact (heldDisplay_shows s b.scale true).congr (by simp [held]) (by simp [outside]) (by simp [held])
        (by simp [outside, tookChange_iff])
    · rw [present_unheld shows (mt holds_iff.1 taken)]
      exact plain (fun h => taken h.2) outside
  | smear w =>
    have unheld : ¬ b.holdsAt s := fun h => nomatch shows.symm.trans h.1
    cases context : o.smear with
    | armed leap =>
      rw [present_armed shows context]
      have inside : o.entersWindow b := ⟨w, leap, shows, context⟩
      have display := smearDisplay_shows 1 (s.count b.scale)
      rw [Nat.cast_one, Int.add_sub_cancel] at display
      exact display.congr (by simp [inside]) (by simp [inside]) (by simp [unheld]) (by simp [inside])
    | opened leap k c => exact absurd ⟨w, leap, k, c, shows, context⟩ shut
    | absent =>
      have outside : ¬ o.entersWindow b := fun ⟨_, _, _, h⟩ => nomatch context.symm.trans h
      cases arms : armingLeap s b.scale w with
      | some leap =>
        rw [present_arms shows context arms]
        exact plain unheld outside
      | none =>
        rw [present_unarmed shows context fun _ => arms]
        exact plain unheld outside

/-- Force full is set where a HOLD output holds, and clear in every other second (R172, R173, R176). -/
theorem present_forceFull (o : Output) : (present s b true o).1.forceFull = true ↔ b.holdsAt s := by
  cases shows : b.presentation with
  | step =>
    rw [present_step shows]
    exact ⟨nofun, fun h => nomatch shows.symm.trans h.1⟩
  | hold =>
    by_cases taken : s.took b.scale .insertBegin
    · rw [present_held shows (holds_iff.2 taken)]
      exact ⟨fun _ => ⟨shows, taken⟩, fun _ => rfl⟩
    · rw [present_unheld shows (mt holds_iff.1 taken)]
      exact ⟨nofun, fun h => absurd h.2 taken⟩
  | smear w =>
    have clear : (present s b true o).1.forceFull = false := by
      simp only [present, shows]
      split
      · rfl
      · rfl
      · split <;> rfl
    rw [clear]
    exact ⟨nofun, fun h => nomatch shows.symm.trans h.1⟩

/-! ### The arming of a window (R175) -/

section
variable {k turn : Nat} {r : Record} (applying : s.applyingFor k = some r) (turns : r.turn = some turn)
include applying turns

theorem armingLeap_add (kind : r.kind = .leapAdd) (reach : s.clock.label + w + 1 = turn)
    (room : (s.scale ((s.family k).getD 0)).value < 255) :
    armingLeap s k w = some { add := true, id := r.id, turn := turn, period := 10000000 + 10000000 / w } := by
  simp only [armingLeap, applying, kind, turns]
  exact if_pos ⟨reach, room⟩

theorem armingLeap_drop (kind : r.kind = .leapDrop) (reach : s.clock.label + w = turn)
    (room : -255 < (s.scale ((s.family k).getD 0)).value) :
    armingLeap s k w = some { add := false, id := r.id, turn := turn, period := 10000000 - 10000000 / w } := by
  simp only [armingLeap, applying, kind, turns]
  exact if_pos ⟨reach, room⟩

end

end

section
variable {s : State} {b : Binding} {o : Output} {w : Nat} (smear : b.presentation = .smear w)
include smear

/-- Where a leap is within reach a window is armed, and where none is the context stays absent (R175). -/
theorem present_absent (absent : o.smear = .absent) :
    (∀ leap, armingLeap s b.scale w = some leap →
      (present s b true o).1.nextPeriod = .ticks leap.period ∧ (present s b true o).1.smear = .armed leap) ∧
    ((∀ leap, (present s b true o).1.smear ≠ .armed leap) →
      (present s b true o).1.smear = .absent ∧ (present s b true o).1.nextPeriod = o.nextPeriod) := by
  cases arms : armingLeap s b.scale w with
  | some leap =>
    rw [present_arms smear absent arms]
    exact ⟨fun _ own => Option.some.inj own ▸ ⟨rfl, rfl⟩, fun unarmed => absurd rfl (unarmed leap)⟩
  | none =>
    rw [present_unarmed smear absent fun _ => arms]
    exact ⟨nofun, fun _ => ⟨absent, rfl⟩⟩

end

/-! ### The clauses -/

/-- The second of an output runs on: its tick count, its width and period and its records stand. -/
def Output.RunsOn (o p : Output) : Prop :=
  p.tick = o.tick ∧ p.curWidth = o.curWidth ∧ p.curPeriod = o.curPeriod ∧ p.last = o.last ∧ p.underWay = o.underWay

theorem Output.RunsOn.refl (o : Output) : o.RunsOn o := ⟨rfl, rfl, rfl, rfl, rfl⟩

theorem Output.RunsOn.of_same {o v p : Output} (h : v.RunsOn p) (same : o.SameSecond v) : o.RunsOn p := by
  obtain ⟨tick, width, period, last, underWay⟩ := h
  exact ⟨tick.trans same.tick, width.trans same.curWidth, period.trans same.curPeriod, last.trans same.last,
    underWay.trans same.underWay⟩

theorem Output.SameSecond.inWindow {o v : Output} (same : o.SameSecond v) {b : Binding} :
    v.inWindow b ↔ o.inWindow b := by
  rw [Output.inWindow, same.smear]
  rfl

theorem Output.SameSecond.entersWindow {o v : Output} (same : o.SameSecond v) {b : Binding} :
    v.entersWindow b ↔ o.entersWindow b := by
  rw [Output.entersWindow, same.smear]
  rfl

/-- `u` is output `o` once a window that ends at the boundary is closed. -/
structure Output.Closed (o u : Output) (b : Binding) : Prop where
  nextWidth : u.nextWidth = o.nextWidth
  nextPeriod : u.nextPeriod = o.nextPeriod
  underWay : u.underWay = o.underWay
  latch : u.latch = o.latch
  releasePending : u.releasePending = o.releasePending
  shut : ¬ u.inWindow b
  armed : ∀ leap, u.smear = .armed leap ↔ o.smear = .armed leap
  absent : o.smear = .absent → u.smear = .absent

theorem Output.Closed.enters {o u : Output} {b : Binding} (closed : o.Closed u b) :
    u.entersWindow b ↔ o.entersWindow b := by
  simp only [Output.entersWindow, closed.armed]

section
variable {o : Output} {s : State} {n : Fin 8} {b : Binding} (running : o.running = true) (bound : o.binding = some b)
include running bound

section
variable {w k : Nat} {leap : SmearLeap} {c : Int} (smear : b.presentation = .smear w)
  (opened : o.smear = .opened leap k c)
include smear opened

/-- At its end label a window closes, COMPLETED at index W and CUT below it (R178, R179). -/
theorem atBoundary_ends (ends : s.clock.label = leap.endLabel) :
    (o.atBoundary s n).result = (if k = w then .completed leap.id else .cut leap.id) ∧
    (o.curPeriod ≠ .boundary → (o.atBoundary s n).smear = .absent ∧ o.RunsOn (o.atBoundary s n) ∧
      (k ≠ w → (o.atBoundary s n).nextPeriod = .boundary)) := by
  have through : o.holdsBoundary s.clock.label = false := by simp [holdsBoundary_opened bound smear opened, ends]
  have closed := closeWindow_opened bound smear opened (label := s.clock.label)
  rw [if_pos ends] at closed
  have result : (o.closeWindow s.clock.label).result = if k = w then .completed leap.id else .cut leap.id := by
    rw [closed]
    split <;> rfl
  constructor
  · by_cases boundary : o.curPeriod = .boundary
    · rw [atBoundary_begins running through bound boundary, (begun_begins _ s n b true).result, result]
    · rw [atBoundary_runsOn running through boundary, result]
  · intro ticks
    rw [atBoundary_runsOn running through ticks, closed]
    split
    next full => exact ⟨rfl, .refl o, fun cut => absurd full cut⟩
    next => exact ⟨rfl, .refl o, fun _ => rfl⟩

/-- Before its end label a window stands at index W, and in the seconds of its tick period (R178). -/
theorem atBoundary_stands (before : s.clock.label ≠ leap.endLabel) (stays : k = w ∨ o.curPeriod ≠ .boundary) :
    o.atBoundary s n = o := by
  by_cases held : o.holdsBoundary s.clock.label = true
  · exact atBoundary_holds held
  · have ticks : o.curPeriod ≠ .boundary := stays.resolve_left fun full =>
      held (by simp [holdsBoundary_opened bound smear opened, full, before])
    rw [atBoundary_runsOn running (Bool.eq_false_iff.2 held) ticks, closeWindow_opened bound smear opened,
      if_neg before]

end

/-- Outside every window a tick period runs on through the boundary (R157). -/
theorem atBoundary_ticks (shut : ¬ o.inWindow b) (ticks : o.curPeriod ≠ .boundary) : o.atBoundary s n = o := by
  rw [atBoundary_runsOn running (holdsBoundary_shut bound shut) ticks, closeWindow_shut bound shut]

/-- A second begins where the period is BOUNDARY and no window holds the boundary; a window that ends at it is closed
before (R157, R178). -/
theorem atBoundary_second (boundary : o.curPeriod = .boundary)
    (outside : ¬ o.inWindow b ∨ ∃ w leap c, b.presentation = .smear w ∧ o.smear = .opened leap w c ∧
      s.clock.label = leap.endLabel) :
    ∃ u, o.atBoundary s n = u.begun s n b true ∧ o.Closed u b := by
  obtain shut | ⟨w, leap, c, smear, opened, ends⟩ := outside
  · refine ⟨o, ?_, ⟨rfl, rfl, rfl, rfl, rfl, shut, fun _ => Iff.rfl, id⟩⟩
    rw [atBoundary_begins running (holdsBoundary_shut bound shut) bound boundary, closeWindow_shut bound shut]
  · have through : o.holdsBoundary s.clock.label = false := by simp [holdsBoundary_opened bound smear opened, ends]
    refine ⟨{ o with smear := .absent, result := .completed leap.id }, ?_, ⟨rfl, rfl, rfl, rfl, rfl, ?_, ?_, ?_⟩⟩
    · rw [atBoundary_begins running through bound boundary, closeWindow_opened bound smear opened, if_pos ends,
        if_pos rfl]
    · rintro ⟨_, _, _, _, _, still⟩
      exact nomatch still
    · rw [opened]
      exact fun _ => ⟨nofun, nofun⟩
    · exact fun _ => rfl

end

section
variable {s t : State} {o v : Output} {n : Fin 8} (carried : Output.Carried s t o v)
include carried

theorem carried_stays_set (set : o.latch.set = true) (kept : o.releasePending = false) :
    (v.atBoundary t n).latch.set = true := by
  have here : v.latch.set = true ∧ v.releasePending = false := by
    obtain ⟨latch, pending⟩ | ⟨latched, released, -⟩ := carried.latched
    · exact ⟨latch ▸ set, pending.trans kept⟩
    · exact ⟨latched, released⟩
  obtain same | same := atBoundary_latch v t n <;> simp [same, here]

theorem carried_set_cause (placed : ContextsPlaced s) (set : (v.atBoundary t n).latch.set = true) :
    o.latch.set = true ∨ t.cutOff := by
  have here : v.latch.set = true := by
    obtain same | same := atBoundary_latch v t n
    · exact same ▸ set
    · exact (Bool.and_eq_true_iff.1 (same ▸ set)).1
  obtain ⟨latch, -⟩ | ⟨-, -, cut⟩ := carried.latched
  · exact .inl (latch ▸ here)
  · exact .inr (cut placed)

theorem carried_released (pending : o.releasePending = true) (placed : ContextsPlaced s) (free : ¬ t.cutOff) :
    (v.latch.set && !v.releasePending) = false := by
  obtain ⟨-, same⟩ | ⟨-, -, cut⟩ := carried.latched
  · rw [same, pending]
    simp
  · exact absurd (cut placed) free

end

theorem recordShows_held {t : State} {k : Nat} {count : Int} {sixty smearing held changed realigned : Prop}
    {bytes : List Byte} (h : recordShows t k count sixty smearing held changed realigned bytes) :
    ((bytes[12]?).getD 0).getLsbD 4 = true ↔ held := by
  obtain ⟨-, -, -, -, -, -, -, held, -⟩ := h
  exact held

/-- The record of a second that begins at a base boundary outside every open window, and how it is driven. -/
theorem begun_shown {s : State} {b : Binding} {u : Output} (shut : ¬ u.inWindow b) (n : Fin 8) :
    ∃ bytes, u.SecondBegins (u.begun s n b true) (present s b true u).1 bytes ∧
      (bytes.length = 16 ∧ bytes[0]? = some 0x24 ∧ bytes[1]? = some (BitVec.ofNat 8 (n.val * 16 + b.scale)) ∧
        byteSum bytes % 256 = 0) ∧
      recordShows s b.scale (s.count b.scale)
        (s.familyInserted b.scale = true ∧ ¬ b.holdsAt s ∧ ¬ u.entersWindow b) (u.entersWindow b) (b.holdsAt s)
        (s.took b.scale .offsetTo ∧ ¬ u.entersWindow b) ((u.begun s n b true).realign = true) bytes := by
  have begins := begun_begins u s n b true
  refine ⟨_, begins, composeRecord_framed .., ?_⟩
  rw [begins.realign]
  exact (present_shows shut).record s n b.scale u.realign

/-- Settles O50: what the units' work makes of the output, then the boundary by the output's window and period. -/
theorem baseBoundaryReachesTheOutputs : Obligations.BaseBoundaryReachesTheOutputs := by
  intro s c makes
  obtain ⟨t, run, made⟩ := exec_makesBoundary makes
  refine ⟨t, run, fun n => ?_⟩
  obtain ⟨v, carried, after⟩ := boundaryMade_output made n
  have same := carried.same
  rw [after]
  intro o p runsOn
  have runs (still : v.RunsOn p) : runsOn := still.of_same same
  refine ⟨fun stopped => ?idle, fun running set kept => carried_stays_set carried set kept,
    fun running placed set => carried_set_cause carried placed set, fun b running bound => ?bound⟩
  case idle =>
    have still : v = o := carried.idle stopped
    exact (atBoundary_idle (still ▸ stopped)).trans still
  case bound =>
    replace running := same.running.trans running
    replace bound := same.binding.trans bound
    intro opens closes
    refine ⟨fun w leap k x smear opened => ⟨fun ends => ?ends, fun before stays => ?stands⟩, fun shut ticks => ?ticks,
      fun outside boundary => ?second⟩
    case ends =>
      obtain ⟨result, ticking⟩ := atBoundary_ends (n := n) running bound smear (same.smear.trans opened) ends
      refine ⟨result, fun ticks => ?_⟩
      obtain ⟨context, still, cut⟩ := ticking (same.curPeriod ▸ ticks)
      exact ⟨context, runs still, cut⟩
    case stands =>
      have still : p = v := atBoundary_stands running bound smear (same.smear.trans opened) before
        (stays.imp_right fun ticks => same.curPeriod ▸ ticks)
      exact ⟨still ▸ same.smear, still ▸ same.result, runs (still ▸ .refl v)⟩
    case ticks =>
      have still : p = v := atBoundary_ticks running bound (same.inWindow.not.2 shut) (same.curPeriod ▸ ticks)
      exact ⟨runs (still ▸ .refl v), still ▸ same.smear, still ▸ same.nextPeriod⟩
    case second =>
      obtain ⟨u, begun, closed⟩ := atBoundary_second (s := t) (n := n) running bound (same.curPeriod.trans boundary)
        (outside.imp same.inWindow.not.2 fun ⟨w, leap, x, smear, opened, ends⟩ =>
          ⟨w, leap, x, smear, same.smear.trans opened, ends⟩)
      replace begun : p = u.begun t n b true := begun
      obtain ⟨bytes, begins, ⟨length, first, output, sum⟩, shows⟩ := begun_shown (s := t) closed.shut n
      rw [closed.enters, same.entersWindow] at shows
      rw [← begun] at begins shows
      have width := closed.nextWidth.trans same.nextWidth
      have period := closed.nextPeriod.trans same.nextPeriod
      have sends := closed.underWay.trans same.underWay
      have full := begins.forceFull ▸ present_forceFull (s := t) (b := b) u
      refine ⟨bytes, begins.last, length, first, output, sum, begins.width.trans width, begins.period.trans period,
        begins.tick, begins.released, shows, fun pending placed adrift isolated => ?release, fun set => ?silent,
        fun clear => ⟨?high, fun idle => ?sends, fun x under => ?owes⟩, fun step => ?step,
        fun hold => ⟨full.trans ?held, ?flag⟩, fun w smear => ⟨?narrow, fun leap armed => ?opens,
          fun r turn absent applying turns => ?arms, fun absent unarmed => ?stays⟩⟩
      case release =>
        rw [begins.latch, closed.latch, closed.releasePending]
        exact carried_released carried pending placed fun cut => cut.elim adrift isolated
      case silent => exact ⟨(begins.silent set).1, (begins.silent set).2.1.trans sends⟩
      case high => exact width ▸ begins.high clear
      case sends => exact (begins.sends clear (sends.trans idle)).1
      case owes => exact begins.owes clear x (sends.trans under)
      case step => exact Bool.eq_false_iff.2 fun h => nomatch step.symm.trans (full.1 h).1
      case held => exact ⟨And.right, fun taken => ⟨hold, taken⟩⟩
      case flag => exact Bool.eq_iff_iff.2 ((recordShows_held shows).trans full.symm)
      case narrow => exact Bool.eq_false_iff.2 fun h => nomatch smear.symm.trans (full.1 h).1
      case opens =>
        rw [begins.smear, present_armed smear ((closed.armed leap).2 (same.smear.trans armed))]
        rfl
      case arms =>
        obtain ⟨arms, -⟩ := present_absent (s := t) smear (closed.absent (same.smear.trans absent))
        rw [begins.nextPeriod, begins.smear]
        exact ⟨fun kind reach room => arms _ (armingLeap_add applying turns kind reach room),
          fun kind reach room => arms _ (armingLeap_drop applying turns kind reach room)⟩
      case stays =>
        obtain ⟨-, stays⟩ := present_absent (s := t) smear (closed.absent (same.smear.trans absent))
        obtain ⟨context, next⟩ := stays (begins.smear ▸ unarmed)
        exact ⟨begins.smear.trans context, (begins.nextPeriod.trans next).trans period⟩

end Sys2Proof.Machine
end
